-- ==== Sys2Proof/Word.lean ====
section
/-!
DEFINITION. The word types of the machine (R14, R18, R19 of spec/00_scope.md): bytes, 32-bit words, 64-bit dwords,
the 96-bit lane mask and the 96-lane vector register.
-/
namespace Sys2Proof

/-- 8 bits (R14). -/
abbrev Byte := BitVec 8
/-- 32 bits (R14). -/
abbrev Word := BitVec 32
/-- 64 bits (R14). -/
abbrev DWord := BitVec 64
/-- One bit per lane of a group: s0, s1, s2 from the low end (R18). -/
abbrev Mask := BitVec 96
/-- A vector register: one 32-bit element for each of the 96 lanes (R26, R101). -/
abbrev VReg := Vector Word 96

end Sys2Proof
end

