-- ==== Sys2Proof/Syntax.lean ====
section
/-!
DEFINITION. The syntax: what an instruction of the opcode map (spec/03_opcode_map.md) or a device event says, once its
fields have been pulled out of the words of R60. Register numbers stay numbers; every code is a constructor.
-/
namespace Sys2Proof

/-- A 6-bit register number (R63), window slide or loop counter. -/
abbrev RegNo := BitVec 6
/-- A tensor identifier (R71). -/
abbrev Tid := BitVec 10
/-- An accumulator tile number (R71). -/
abbrev AccNo := BitVec 3
/-- A pattern slot number (R71). -/
abbrev PSlotNo := BitVec 4

/-- LEN of word 0 (R60): one word, attributes and word 2, a literal, or both. -/
inductive Len where
  | l0 | l1 | l2 | l3
  deriving DecidableEq, Repr

/-- What every instruction carries besides its operands: BND, LEN, and IXS of word 1 (R60, R62, R66). -/
structure Hd where
  bnd : Bool
  len : Len
  ixs : BitVec 2
  deriving DecidableEq, Repr

/-- A register operand: its field, and whether its IND bit is set (R66, R73). -/
structure Opnd where
  n   : RegNo
  ind : Bool
  deriving DecidableEq, Repr

/-- Operand B where an immediate may stand in its place: a register, IMM32 with BIMM, or a 64-bit literal (R71, R72). -/
inductive SrcB where
  | reg (o : Opnd)
  | imm (v : BitVec 32)
  | lit (v : BitVec 64)
  deriving DecidableEq, Repr

/-- The immediate of a TI opcode: IMM9, IMM32 or a literal (R64, R71, R72). -/
inductive Imm where
  | i9  (v : BitVec 9)
  | i32 (v : BitVec 32)
  | lit (v : BitVec 64)
  deriving DecidableEq, Repr

/-- The offset of a TC opcode: OFF15, or IMM32 in its place (R64, R71). -/
inductive CallOff where
  | o15 (v : BitVec 15)
  | o32 (v : BitVec 32)
  deriving DecidableEq, Repr

/-- The type codes 0x00 to 0x10, in order (R67). -/
inductive Ty where
  | b32 | i8 | i16 | i32 | i64 | n8 | n16 | n32 | n64 | f16 | bf16 | f32 | f64 | e4m3 | e5m2 | cb8 | e8m0
  deriving DecidableEq, Repr

/-- The scope codes 000 to 101, in order (R68). -/
inductive Scope where
  | dev | group | gang | core | sys | pod
  deriving DecidableEq, Repr

/-- The memory orders of ORDER and SC (R69). -/
inductive Order where
  | rlx | acq | rel | ar | sc
  deriving DecidableEq, Repr

/-- The space codes 000 to 100, in order (R70, R158). -/
inductive Space where
  | gv | sp | ws | qw | rm
  deriving DecidableEq, Repr

/-- The memory attributes of word 1: `.poll` of OPF, ORDER with SC, SCOPE, SPACE (R66, R95). -/
structure MemAttr where
  poll  : Bool
  order : Order
  scope : Scope
  space : Space
  deriving DecidableEq, Repr

/-- The cmp set (R94). -/
inductive CmpOp where
  | eq | ne | lt | le | gt | ge | uno | ord
  deriving DecidableEq, Repr

/-- The aop set (R94). -/
inductive AtomOp where
  | add | min | max | and | or | xor | exch | cas
  deriving DecidableEq, Repr

/-- The red set (R94). -/
inductive RedOp where
  | add | min | max | and | or | xor
  deriving DecidableEq, Repr

/-- The cmode set (R94). -/
inductive CopyMode where
  | lin | s2d | gat | sca | red | xch
  deriving DecidableEq, Repr

/-- The qmode set (R94). -/
inductive QMode where
  | near | any | rad | knn | key
  deriving DecidableEq, Repr

/-- The fl set (R94). -/
inductive FlushMode where
  | wb | inv | wbi
  deriving DecidableEq, Repr

/-- The counter classes of WAIT (R96, R394). -/
inductive WaitClass where
  | loads | stores | copies | tiles
  deriving DecidableEq, Repr

/-- The rounding set of OPF [60:58] (R95, R143). -/
inductive Rnd where
  | ne | tz | up | dn | sto
  deriving DecidableEq, Repr

/-- The operands of the four fused instructions (R156): the header of each, and the registers they name. -/
structure FusedOps where
  h1 : Hd
  h2 : Hd
  h3 : Hd
  h4 : Hd
  vM : RegNo
  vP : RegNo
  vQ : RegNo
  vE : RegNo
  vX : RegNo
  vF : RegNo
  vS : RegNo
  vT : RegNo
  deriving DecidableEq, Repr

/-- An agent that issues instructions: a split of a group of a gang, or the scalar front of a core (R26, R49). -/
inductive Agent where
  | split (gang grp no : Nat)
  | front (core : Nat)
  deriving DecidableEq, Repr

/-- The owner of a pair of Plaza queues: a group, or the scalar front of a core (R194). -/
inductive QId where
  | group (gang grp : Nat)
  | front (core : Nat)
  deriving DecidableEq, Repr

/-- What an engine line step works on: a copy command, the load of a weight-buffer entry of a core, or a tile operation. -/
inductive EngWork where
  | copy (cmd : Nat)
  | wbuf (core entry : Nat)
  | tile (q : QId) (op : Nat)
  deriving DecidableEq, Repr

/-- What Sillage moves: a window slot by its absolute number, or a stack entry by its number from the bottom (R114). -/
inductive SpillWhat where
  | slot (n : Nat)
  | entry (i : Nat)
  deriving DecidableEq, Repr

/-- What met a fault that is forwarded to the host (R273): a split or front, a copy command, a weight-buffer load. -/
inductive FaultSrc where
  | agent (a : Agent)
  | copy (cmd : Nat)
  | wbuf (core entry : Nat)
  deriving DecidableEq, Repr

/-- What a host access names: the Quay window of BAR0, the control page, the weight store of BAR2, the device memory of
BAR4, or host memory itself (R294, R207). -/
inductive HostTarget where
  | quay | control | weights | device | hostMem
  deriving DecidableEq, Repr

/-- How a host access comes: its link, and the IDE stream that carries it, if one does (R315). -/
structure HostPath where
  link   : Bool
  stream : Option Nat
  deriving DecidableEq, Repr

/-- What a message asks over a link's DOE mailbox: the signed measurements, under SPDM 1.3 or 1.2; or of the TDISP interface
of a context that it is bound to an IDE stream of the link, goes to RUN, or is unbound (R314, R315; notes/assumptions/92.md). -/
inductive SpdmReq where
  | measure (v13 : Bool)
  | bind (ctx stream : Nat)
  | run (ctx : Nat)
  | unbind (ctx : Nat)
  deriving DecidableEq, Repr

/-- A message over a link's DOE mailbox (R314). -/
structure SpdmMsg where
  link : Bool
  req  : SpdmReq
  deriving DecidableEq, Repr

/-- A firmware image: its SHA-384 digest, its signature and its security version (R3). -/
structure FwImage where
  digest  : BitVec 384
  sig     : BitVec 768
  version : Word
  deriving DecidableEq, Repr

/-- What a remote module asks of a home of this module (R161, R185, R308); `cumul` says that the store is cumulative on the
module that sends it (R200, R209; notes/assumptions/76.md). -/
inductive PodOp where
  | read (n : Nat)
  | write (bytes : List Byte) (cumul : Bool)
  | atom (o : AtomOp) (ty : Ty) (x y : DWord) (cumul : Bool)
  deriving DecidableEq, Repr

/-- An access that arrives from another module of the pod (R308): the PODTAG of its context, its address, and what it
does. -/
structure PodAccess where
  tag : Word
  va  : DWord
  op  : PodOp
  deriving DecidableEq, Repr

/-- One constructor per row of spec/opcode_table.json: first the device events (the steps that agents other than a
program take), then the instructions of the opcode map in the order of R87 to R93. -/
inductive Instr where
  /-- MODULE_RESET (R3). -/
  | moduleReset
  /-- FIRMWARE_UPDATE (R3). -/
  | firmwareUpdate (img : FwImage)
  /-- HOST_LINK_TRAIN (R294; with AtomicOp completion enabled or not, R169). -/
  | hostLinkTrain (link ok atomics : Bool)
  /-- GULUIREL_LINK_UP (R296). -/
  | gulLinkUp (link : BitVec 4) (peerMin peerMax : BitVec 8)
  /-- HIF_VERSION_SELECT (R295). -/
  | hifVersionSelect (version : BitVec 8)
  /-- WSDROP_CLEAR (R295). -/
  | wsdropClear
  /-- REGISTER_WRITE (R307: off counts from the start of the control page). -/
  | registerWrite (off : Nat) (bytes : List Byte)
  /-- EVENT_COUNTER_WRITE (R313). -/
  | eventCounterWrite (cluster : Nat) (k : BitVec 4) (v : BitVec 128)
  /-- CONTEXT_CREATE (R297: the record stands in the mailbox). -/
  | contextCreate
  /-- CONTEXT_DESTROY (R299). -/
  | contextDestroy (ctx : BitVec 6)
  /-- CTXCMD_BAD_OP (R297). -/
  | ctxcmdBadOp (op : Byte)
  /-- HOST_READ (R197, R207, R294). -/
  | hostRead (path : HostPath) (t : HostTarget) (off n : Nat)
  /-- HOST_WRITE (R197, R207, R294). -/
  | hostWrite (path : HostPath) (t : HostTarget) (off : Nat) (bytes : List Byte)
  /-- WS_HOST_WRITE (R294). -/
  | wsHostWrite (off : Nat) (bytes : List Byte)
  /-- LAUNCH_READ (R41, R303). -/
  | launchRead (ctx : Nat)
  /-- GANG_PLACE (R37). -/
  | gangPlace (gang : Nat)
  /-- FRONT_RELEASE (R49). -/
  | frontRelease (core : Nat)
  /-- GANG_RESOURCE_RELEASE (R30). -/
  | gangResourceRelease (gang : Nat)
  /-- RUN_ISSUE (R55; sched 4 is the front's own issue slot (R50)). -/
  | runIssue (core sched : Nat)
  /-- FUSED_EXP_SUM (R156). -/
  | fusedExpSum (f : FusedOps)
  /-- DRAIN (R197: the i-th entry of the queues of q). -/
  | drain (q : QId) (i : Nat)
  /-- PROPAGATE (R197, R198: the store numbered seq into the view of core). -/
  | propagate (core seq : Nat)
  /-- LOAD_STEP (R197). -/
  | loadStep (q : QId) (i : Nat)
  /-- ATOMIC_STEP (R197). -/
  | atomicStep (q : QId) (i : Nat)
  /-- FENCE_MARK_LEAVE (R201). -/
  | fenceMarkLeave (q : QId) (i : Nat)
  /-- ENGINE_ACCEPT (R205). -/
  | engineAccept (cmd : Nat)
  /-- ENGINE_LINE (R197). -/
  | engineLine (w : EngWork) (line : Nat)
  /-- ENGINE_ARRIVAL (R191). -/
  | engineArrival (cmd line : Nat)
  /-- SELECT (R206). -/
  | select (q : QId) (op : Nat)
  /-- TENSOR_TABLE_STEP (R385). -/
  | tensorTableStep (q : QId) (op : Nat)
  /-- PATTERN_INSTALL (R229). -/
  | patternInstall (q : QId) (op : Nat)
  /-- TILE_OP_COMPLETE (R212). -/
  | tileOpComplete (q : QId) (op : Nat)
  /-- QUERY_ROUND_READY (R255). -/
  | queryRoundReady (q : QId) (slot : Nat)
  /-- SAMPLE_COMMIT (R250). -/
  | sampleCommit (q : QId) (op : Nat)
  /-- GRAS_REPLAY (R263). -/
  | grasReplay (q : QId) (op : Nat)
  /-- QUEUE_RESERVE (R44). -/
  | queueReserve (a : Agent)
  /-- QUEUE_HOST_IMPORT (R44). -/
  | queueHostImport (ctx q : Nat)
  /-- GATHER_BATCH (R45). -/
  | gatherBatch (ctx q : Nat)
  /-- GATHER_HOLD_EXPIRE (R45). -/
  | gatherHoldExpire (ctx q : Nat)
  /-- JOB_END_CONDITION (R46). -/
  | jobEndCondition (job : Nat)
  /-- JOB_COMPLETE (R47). -/
  | jobComplete (job : Nat)
  /-- SILLAGE_SPILL (R116). -/
  | sillageSpill (q : QId) (what : SpillWhat)
  /-- SILLAGE_REFILL (R118). -/
  | sillageRefill (q : QId) (what : SpillWhat)
  /-- TRAP_ENTRY (R272). -/
  | trapEntry (a : Agent)
  /-- FAULT_FORWARD (R273). -/
  | faultForward (src : FaultSrc)
  /-- FAULT_RECORD_APPEND (R304). -/
  | faultRecordAppend (ctx : Nat)
  /-- RESUME (R304: the command ring's next entry, OP 0x01). -/
  | resume (ctx : Nat)
  /-- ABORT (R304: OP 0x02). -/
  | abort (ctx : Nat)
  /-- MIGRATE (R305: OP 0x03). -/
  | migrate (ctx : Nat)
  /-- CMD_UNKNOWN (R304: any other OP). -/
  | cmdUnknown (ctx : Nat)
  /-- MIGRATE_LINE (R179). -/
  | migrateLine (mig line : Nat)
  /-- MIGRATE_SWAP (R305). -/
  | migrateSwap (mig : Nat)
  /-- GANG_EVICT (R278). -/
  | gangEvict (gang : Nat)
  /-- COPY_QUIESCE (R284). -/
  | copyQuiesce (gang : Nat)
  /-- EVICT_SAVE (R280). -/
  | evictSave (gang : Nat)
  /-- GANG_RESTORE (R286). -/
  | gangRestore (gang : Nat)
  /-- CORE_STATE_HANDOVER (R233). -/
  | coreStateHandover (core ctx : Nat)
  /-- CORE_STATE_RESTORE (R288). -/
  | coreStateRestore (core ctx : Nat)
  /-- SLEEP_EXPIRE (R375). -/
  | sleepExpire (a : Agent)
  /-- WAKEAT_EXPIRE (R396). -/
  | wakeatExpire (a : Agent)
  /-- PROMISE_EXPIRE (R336). -/
  | promiseExpire (a : Agent)
  /-- WS_REFRESH_WINDOW (R171). -/
  | wsRefreshWindow
  /-- POWER_BUBBLE (R311). -/
  | powerBubble
  /-- CYCLE_STRETCH (R309). -/
  | cycleStretch (cluster : Nat)
  /-- CLUSTER_MODE_CHANGE (R310). -/
  | clusterModeChange (cluster : Nat) (fixed : Bool)
  /-- ELASTIC_CLOCK_CHANGE (R309). -/
  | elasticClockChange (cluster mhz : Nat)
  /-- SOFT_ERROR (R180: a device physical address). -/
  | softError (addr : Nat)
  /-- SPDM_MESSAGE (R314, R315). -/
  | spdmMessage (msg : SpdmMsg)
  /-- LINK_BLOCK_RESEND (R316). -/
  | linkBlockResend (link : BitVec 4)
  /-- POD_FORWARD (R307). -/
  | podForward (dest : BitVec 10) (payload : List Byte)
  /-- POD_ACCESS_ARRIVAL (R308). -/
  | podAccessArrival (acc : PodAccess)
  /-- BRA (R328). -/
  | bra (h : Hd) (off : BitVec 21)
  /-- BRC (R328). -/
  | brc (h : Hd) (a : Opnd) (off : Imm)
  /-- BRZ (R328). -/
  | brz (h : Hd) (a : Opnd) (off : Imm)
  /-- BRD (R329). -/
  | brd (h : Hd) (a : Opnd) (off : Imm)
  /-- JMPI_S (R353). -/
  | jmpiS (h : Hd) (a : RegNo)
  /-- JMPI_V (R353). -/
  | jmpiV (h : Hd) (a : RegNo)
  /-- CALL (R330, R331). -/
  | call (h : Hd) (k : RegNo) (off : CallOff)
  /-- CALLI_S (R330, R331). -/
  | calliS (h : Hd) (k a : RegNo)
  /-- CALLI_V (R332). -/
  | calliV (h : Hd) (k a : RegNo)
  /-- RET (R369). -/
  | ret (h : Hd)
  /-- RECV (R123, R274, R368). -/
  | recv (h : Hd)
  /-- RTT (R275, R370). -/
  | rtt (h : Hd)
  /-- LOOP (R126, R360). -/
  | loop (h : Hd) (lc : RegNo) (a : Opnd) (off : Imm)
  /-- NOP (R364). -/
  | nop (h : Hd)
  /-- END (R347). -/
  | endI (h : Hd)
  /-- FENCE (R201). -/
  | fence (h : Hd) (order : Order) (scope : Scope)
  /-- TRAP (R270). -/
  | trap (h : Hd) (code : Byte)
  /-- BKPT (R270, R327). -/
  | bkpt (h : Hd)
  /-- WAIT (R394). -/
  | wait (h : Hd) (cls : WaitClass) (n : Imm)
  /-- SLEEP (R375). -/
  | sleep (h : Hd) (a : RegNo)
  /-- WAKEAT (R396). -/
  | wakeat (h : Hd) (a : RegNo)
  /-- SYNC (R380). -/
  | sync (h : Hd)
  /-- PUBLISH (R193, R206). -/
  | publish (h : Hd) (tid : Tid)
  /-- DEQ (R48). -/
  | deq (h : Hd) (d a b : RegNo)
  /-- ENQ (R345; cnt is count - 1). -/
  | enq (h : Hd) (d a b : RegNo) (cnt : BitVec 3)
  /-- DQPOP (R339). -/
  | dqpop (h : Hd) (d a : RegNo) (j : Bool)
  /-- DQPUSH (R341). -/
  | dqpush (h : Hd) (a : RegNo)
  /-- EMIT (R344). -/
  | emit (h : Hd) (a b : RegNo)
  /-- BBI (R191, R324). -/
  | bbi (h : Hd) (a b : RegNo)
  /-- BBA (R191, R324). -/
  | bba (h : Hd) (a b : RegNo)
  /-- BBW (R191, R326). -/
  | bbw (h : Hd) (a : RegNo)
  /-- SMOV (R372). -/
  | smov (h : Hd) (ty : Ty) (d a : Opnd)
  /-- SADD (R372). -/
  | sadd (h : Hd) (ty : Ty) (d a : Opnd) (b : SrcB)
  /-- SSUB (R372). -/
  | ssub (h : Hd) (ty : Ty) (d a : Opnd) (b : SrcB)
  /-- SMUL (R372). -/
  | smul (h : Hd) (ty : Ty) (d a : Opnd) (b : SrcB)
  /-- SDIV (R372). -/
  | sdiv (h : Hd) (ty : Ty) (d a : Opnd) (b : SrcB)
  /-- SMIN (R372). -/
  | smin (h : Hd) (ty : Ty) (d a : Opnd) (b : SrcB)
  /-- SMAX (R372). -/
  | smax (h : Hd) (ty : Ty) (d a : Opnd) (b : SrcB)
  /-- SAND (R372). -/
  | sand (h : Hd) (ty : Ty) (d a : Opnd) (b : SrcB)
  /-- SOR (R372). -/
  | sor (h : Hd) (ty : Ty) (d a : Opnd) (b : SrcB)
  /-- SXOR (R372). -/
  | sxor (h : Hd) (ty : Ty) (d a : Opnd) (b : SrcB)
  /-- SSHL (R372). -/
  | sshl (h : Hd) (ty : Ty) (d a : Opnd) (b : SrcB)
  /-- SSHR (R372). -/
  | sshr (h : Hd) (ty : Ty) (d a : Opnd) (b : SrcB)
  /-- SCMP (R374). -/
  | scmp (h : Hd) (c : CmpOp) (ty : Ty) (d a : Opnd) (b : SrcB)
  /-- SSEL (R374). -/
  | ssel (h : Hd) (ty : Ty) (d a : Opnd) (b : SrcB) (c : Opnd)
  /-- SBFE (R373). -/
  | sbfe (h : Hd) (ty : Ty) (d a : Opnd) (b : SrcB)
  /-- SBFI (R373). -/
  | sbfi (h : Hd) (ty : Ty) (d a : Opnd) (b : SrcB) (c : Opnd)
  /-- SMOV_IMM (R372). -/
  | smovImm (h : Hd) (ty : Ty) (d : Opnd) (i : Imm)
  /-- SADD_IMM (R372). -/
  | saddImm (h : Hd) (ty : Ty) (d a : Opnd) (i : Imm)
  /-- SSUB_IMM (R372). -/
  | ssubImm (h : Hd) (ty : Ty) (d a : Opnd) (i : Imm)
  /-- SMUL_IMM (R372). -/
  | smulImm (h : Hd) (ty : Ty) (d a : Opnd) (i : Imm)
  /-- SDIV_IMM (R372). -/
  | sdivImm (h : Hd) (ty : Ty) (d a : Opnd) (i : Imm)
  /-- SMIN_IMM (R372). -/
  | sminImm (h : Hd) (ty : Ty) (d a : Opnd) (i : Imm)
  /-- SMAX_IMM (R372). -/
  | smaxImm (h : Hd) (ty : Ty) (d a : Opnd) (i : Imm)
  /-- SAND_IMM (R372). -/
  | sandImm (h : Hd) (ty : Ty) (d a : Opnd) (i : Imm)
  /-- SOR_IMM (R372). -/
  | sorImm (h : Hd) (ty : Ty) (d a : Opnd) (i : Imm)
  /-- SXOR_IMM (R372). -/
  | sxorImm (h : Hd) (ty : Ty) (d a : Opnd) (i : Imm)
  /-- SSHL_IMM (R372). -/
  | sshlImm (h : Hd) (ty : Ty) (d a : Opnd) (i : Imm)
  /-- SSHR_IMM (R372). -/
  | sshrImm (h : Hd) (ty : Ty) (d a : Opnd) (i : Imm)
  /-- SPOPC (R372). -/
  | spopc (h : Hd) (ty : Ty) (d a : Opnd)
  /-- SCLZ (R372). -/
  | sclz (h : Hd) (ty : Ty) (d a : Opnd)
  /-- SBFE_IMM (R373). -/
  | sbfeImm (h : Hd) (ty : Ty) (d a : Opnd) (i : Imm)
  /-- VMOV (R393). -/
  | vmov (h : Hd) (ty : Ty) (d a : Opnd)
  /-- VADD (R391). -/
  | vadd (h : Hd) (ty : Ty) (r : Rnd) (d a : Opnd) (b : SrcB)
  /-- VSUB (R391). -/
  | vsub (h : Hd) (ty : Ty) (r : Rnd) (d a : Opnd) (b : SrcB)
  /-- VMUL (R391). -/
  | vmul (h : Hd) (ty : Ty) (r : Rnd) (d a : Opnd) (b : SrcB)
  /-- VMAD (R391). -/
  | vmad (h : Hd) (ty : Ty) (r : Rnd) (d a : Opnd) (b : SrcB) (c : Opnd)
  /-- VDIV (R391). -/
  | vdiv (h : Hd) (ty : Ty) (r : Rnd) (d a : Opnd) (b : SrcB)
  /-- VMIN (R391, R393). -/
  | vmin (h : Hd) (ty : Ty) (d a : Opnd) (b : SrcB)
  /-- VMAX (R391, R393). -/
  | vmax (h : Hd) (ty : Ty) (d a : Opnd) (b : SrcB)
  /-- VAND (R391, R393). -/
  | vand (h : Hd) (ty : Ty) (d a : Opnd) (b : SrcB)
  /-- VOR (R391, R393). -/
  | vor (h : Hd) (ty : Ty) (d a : Opnd) (b : SrcB)
  /-- VXOR (R391, R393). -/
  | vxor (h : Hd) (ty : Ty) (d a : Opnd) (b : SrcB)
  /-- VSHL (R391, R393). -/
  | vshl (h : Hd) (ty : Ty) (d a : Opnd) (b : SrcB)
  /-- VSHR (R391, R393). -/
  | vshr (h : Hd) (ty : Ty) (d a : Opnd) (b : SrcB)
  /-- VBFE (R391, R393). -/
  | vbfe (h : Hd) (ty : Ty) (d a : Opnd) (b : SrcB)
  /-- VBFI (R393). -/
  | vbfi (h : Hd) (ty : Ty) (d a : Opnd) (b : SrcB) (c : Opnd)
  /-- VSEL (R393). -/
  | vsel (h : Hd) (ty : Ty) (d a : Opnd) (b : SrcB) (c : Opnd)
  /-- VCMP (R393). -/
  | vcmp (h : Hd) (c : CmpOp) (ty : Ty) (d a : Opnd) (b : SrcB)
  /-- VABS (R391, R393). -/
  | vabs (h : Hd) (ty : Ty) (d a : Opnd)
  /-- VNEG (R391, R393). -/
  | vneg (h : Hd) (ty : Ty) (d a : Opnd)
  /-- VPOPC (R391, R393). -/
  | vpopc (h : Hd) (ty : Ty) (d a : Opnd)
  /-- VCLZ (R391, R393). -/
  | vclz (h : Hd) (ty : Ty) (d a : Opnd)
  /-- VCLASS (R391, R393). -/
  | vclass (h : Hd) (ty : Ty) (d a : Opnd)
  /-- VCVT (R151). -/
  | vcvt (h : Hd) (ty src : Ty) (r : Rnd) (sat : Bool) (d a b : Opnd)
  /-- VRCP (R392). -/
  | vrcp (h : Hd) (ty : Ty) (r : Rnd) (d a : Opnd)
  /-- VRSQ (R392). -/
  | vrsq (h : Hd) (ty : Ty) (r : Rnd) (d a : Opnd)
  /-- VSQRT (R392). -/
  | vsqrt (h : Hd) (ty : Ty) (r : Rnd) (d a : Opnd)
  /-- VEXP2 (R392). -/
  | vexp2 (h : Hd) (ty : Ty) (r : Rnd) (d a : Opnd)
  /-- VLOG2 (R392). -/
  | vlog2 (h : Hd) (ty : Ty) (r : Rnd) (d a : Opnd)
  /-- VSIN (R392). -/
  | vsin (h : Hd) (ty : Ty) (r : Rnd) (d a : Opnd)
  /-- VCOS (R392). -/
  | vcos (h : Hd) (ty : Ty) (r : Rnd) (d a : Opnd)
  /-- VRND (R155). -/
  | vrnd (h : Hd) (d a : Opnd)
  /-- VMOV_SB (R393). -/
  | vmovSb (h : Hd) (ty : Ty) (d a : Opnd)
  /-- VADD_SB (R391). -/
  | vaddSb (h : Hd) (ty : Ty) (r : Rnd) (d a : Opnd) (b : SrcB)
  /-- VSUB_SB (R391). -/
  | vsubSb (h : Hd) (ty : Ty) (r : Rnd) (d a : Opnd) (b : SrcB)
  /-- VMUL_SB (R391). -/
  | vmulSb (h : Hd) (ty : Ty) (r : Rnd) (d a : Opnd) (b : SrcB)
  /-- VMAD_SB (R391). -/
  | vmadSb (h : Hd) (ty : Ty) (r : Rnd) (d a : Opnd) (b : SrcB) (c : Opnd)
  /-- VDIV_SB (R391). -/
  | vdivSb (h : Hd) (ty : Ty) (r : Rnd) (d a : Opnd) (b : SrcB)
  /-- VMIN_SB (R391, R393). -/
  | vminSb (h : Hd) (ty : Ty) (d a : Opnd) (b : SrcB)
  /-- VMAX_SB (R391, R393). -/
  | vmaxSb (h : Hd) (ty : Ty) (d a : Opnd) (b : SrcB)
  /-- VAND_SB (R391, R393). -/
  | vandSb (h : Hd) (ty : Ty) (d a : Opnd) (b : SrcB)
  /-- VOR_SB (R391, R393). -/
  | vorSb (h : Hd) (ty : Ty) (d a : Opnd) (b : SrcB)
  /-- VXOR_SB (R391, R393). -/
  | vxorSb (h : Hd) (ty : Ty) (d a : Opnd) (b : SrcB)
  /-- VSHL_SB (R391, R393). -/
  | vshlSb (h : Hd) (ty : Ty) (d a : Opnd) (b : SrcB)
  /-- VSHR_SB (R391, R393). -/
  | vshrSb (h : Hd) (ty : Ty) (d a : Opnd) (b : SrcB)
  /-- VBFE_SB (R391, R393). -/
  | vbfeSb (h : Hd) (ty : Ty) (d a : Opnd) (b : SrcB)
  /-- VBFI_SB (R393). -/
  | vbfiSb (h : Hd) (ty : Ty) (d a : Opnd) (b : SrcB) (c : Opnd)
  /-- VSEL_SB (R393). -/
  | vselSb (h : Hd) (ty : Ty) (d a : Opnd) (b : SrcB) (c : Opnd)
  /-- VCMP_SB (R393). -/
  | vcmpSb (h : Hd) (c : CmpOp) (ty : Ty) (d a : Opnd) (b : SrcB)
  /-- VMOV_IMM (R393). -/
  | vmovImm (h : Hd) (ty : Ty) (d : Opnd) (i : Imm)
  /-- VADD_IMM (R391). -/
  | vaddImm (h : Hd) (ty : Ty) (d a : Opnd) (i : Imm)
  /-- VMIN_IMM (R391). -/
  | vminImm (h : Hd) (ty : Ty) (d a : Opnd) (i : Imm)
  /-- VMAX_IMM (R391). -/
  | vmaxImm (h : Hd) (ty : Ty) (d a : Opnd) (i : Imm)
  /-- VAND_IMM (R391). -/
  | vandImm (h : Hd) (ty : Ty) (d a : Opnd) (i : Imm)
  /-- VOR_IMM (R391). -/
  | vorImm (h : Hd) (ty : Ty) (d a : Opnd) (i : Imm)
  /-- VXOR_IMM (R391). -/
  | vxorImm (h : Hd) (ty : Ty) (d a : Opnd) (i : Imm)
  /-- XSEL (R399). -/
  | xsel (h : Hd) (ty : Ty) (d a b : Opnd)
  /-- XRED (R398). -/
  | xred (h : Hd) (o : RedOp) (ty : Ty) (d a : Opnd)
  /-- XSCAN (R292). -/
  | xscan (h : Hd) (o : RedOp) (seg ex : Bool) (ty : Ty) (d a b : Opnd)
  /-- XGET (R397). -/
  | xget (h : Hd) (ty : Ty) (d a b : Opnd)
  /-- XGET_IMM (R397). -/
  | xgetImm (h : Hd) (d a : RegNo) (lane : BitVec 9)
  /-- XSEL_SB (R399). -/
  | xselSb (h : Hd) (ty : Ty) (d a b : Opnd)
  /-- VSHL_IMM (R391). -/
  | vshlImm (h : Hd) (ty : Ty) (d a : Opnd) (i : Imm)
  /-- VSHR_IMM (R391). -/
  | vshrImm (h : Hd) (ty : Ty) (d a : Opnd) (i : Imm)
  /-- LD_VA (R355, R357). -/
  | ldVA (h : Hd) (m : MemAttr) (ty : Ty) (d a : Opnd) (b : SrcB)
  /-- LD_SA (R355, R357). -/
  | ldSA (h : Hd) (m : MemAttr) (ty : Ty) (d a : Opnd) (b : SrcB)
  /-- LDL (R358). -/
  | ldl (h : Hd) (m : MemAttr) (a : Opnd) (b : SrcB)
  /-- LDS (R359). -/
  | lds (h : Hd) (m : MemAttr) (ty : Ty) (d a : Opnd) (b : SrcB)
  /-- ST_VA (R378, R379). -/
  | stVA (h : Hd) (m : MemAttr) (ty : Ty) (d a : Opnd) (b : SrcB)
  /-- ST_SA (R378, R379). -/
  | stSA (h : Hd) (m : MemAttr) (ty : Ty) (d a : Opnd) (b : SrcB)
  /-- STS (R378, R379). -/
  | sts (h : Hd) (m : MemAttr) (ty : Ty) (d a : Opnd) (b : SrcB)
  /-- LD_SA_VB (R355, R357). -/
  | ldSAVB (h : Hd) (m : MemAttr) (ty : Ty) (d a b : Opnd)
  /-- ATOM_V (R320, R321). -/
  | atomV (h : Hd) (o : AtomOp) (m : MemAttr) (ty : Ty) (d a b c : Opnd)
  /-- ATOM_S (R320, R321). -/
  | atomS (h : Hd) (o : AtomOp) (m : MemAttr) (ty : Ty) (d a b c : Opnd)
  /-- RATOM_V (R365, R366). -/
  | ratomV (h : Hd) (o : AtomOp) (m : MemAttr) (ty : Ty) (d a b c : Opnd)
  /-- RATOM_S (R365, R366). -/
  | ratomS (h : Hd) (o : AtomOp) (m : MemAttr) (ty : Ty) (d a b c : Opnd)
  /-- FLUSH (R202). -/
  | flush (h : Hd) (mode : FlushMode) (scope : Scope)
  /-- ICINV (R351). -/
  | icinv (h : Hd) (lb : Bool)
  /-- TLBINV (R387). -/
  | tlbinv (h : Hd) (page : Bool) (scope : Scope) (a : RegNo)
  /-- CPY (R334, R335). -/
  | cpy (h : Hd) (mode : CopyMode) (d a : RegNo)
  /-- CPY_TID (R334, R335). -/
  | cpyTid (h : Hd) (mode : CopyMode) (d a : RegNo) (tid : Tid)
  /-- KICK (R187, R354). -/
  | kick (h : Hd) (a b : RegNo)
  /-- MMA (R219, R220). -/
  | mma (h : Hd) (ty : Ty) (acc : AccNo) (a : Opnd) (tid : Tid) (asc : Bool) (c : Opnd)
  /-- MMAS (R219, R231). -/
  | mmas (h : Hd) (t : Bool) (ty : Ty) (acc : AccNo) (a : Opnd) (tid : Tid) (ps : PSlotNo) (asc : Bool) (c : Opnd)
  /-- MRD_V (R223-R225). -/
  | mrdV (h : Hd) (ty : Ty) (cmp tick : Bool) (d : Opnd) (acc : AccNo) (b : SrcB)
  /-- MRD_S (R223-R225). -/
  | mrdS (h : Hd) (ty : Ty) (space : Space) (cmp tick : Bool) (a : Opnd) (acc : AccNo) (b : SrcB)
  /-- MCLR (R213). -/
  | mclr (h : Hd) (acc : AccNo)
  /-- MWB (R216). -/
  | mwb (h : Hd) (tid : Tid) (a : RegNo)
  /-- MWB_LAYER (R216). -/
  | mwbLayer (h : Hd) (tid : Tid) (a b : RegNo)
  /-- TDEF (R383-R385). -/
  | tdef (h : Hd) (tid : Tid) (a : RegNo)
  /-- TDEF_GET (R386). -/
  | tdefGet (h : Hd) (tid : Tid) (a : RegNo)
  /-- PLOAD (R229). -/
  | pload (h : Hd) (ps : PSlotNo) (a : Opnd)
  /-- PGEN_V (R232). -/
  | pgenV (h : Hd) (t : Bool) (d : Opnd) (ps : PSlotNo) (a : Opnd)
  /-- PGEN_S (R232). -/
  | pgenS (h : Hd) (t : Bool) (d : Opnd) (ps : PSlotNo) (a : Opnd)
  /-- GINW_SMP (R245). -/
  | ginwSmp (h : Hd) (d a b : Opnd)
  /-- GINW_EDGE (R245). -/
  | ginwEdge (h : Hd) (d a b : Opnd)
  /-- GINW_RAY (R245). -/
  | ginwRay (h : Hd) (d a b : Opnd)
  /-- GRAS_S (R249, R250). -/
  | grasS (h : Hd) (vtid : Tid) (a : RegNo)
  /-- GRAS_V (R249, R250). -/
  | grasV (h : Hd) (vtid : Tid) (a : RegNo)
  /-- GREP (R251). -/
  | grep (h : Hd) (d a : RegNo) (vtid : Tid)
  /-- GQRY_V (R254). -/
  | gqryV (h : Hd) (mode : QMode) (d a : Opnd) (tid : Tid)
  /-- GQRY_S (R254). -/
  | gqryS (h : Hd) (mode : QMode) (d a : Opnd) (tid : Tid)
  /-- GPOP_V (R257). -/
  | gpopV (h : Hd) (d a : Opnd)
  /-- GPOP_S (R257). -/
  | gpopS (h : Hd) (d a : Opnd)
  /-- GBLD_VTX (R253). -/
  | gbldVtx (h : Hd) (commit : Bool) (tid : Tid) (a b : RegNo)
  /-- GBLD_TRI (R253). -/
  | gbldTri (h : Hd) (commit : Bool) (tid : Tid) (a b : RegNo)
  /-- GPATCH (R258). -/
  | gpatch (h : Hd) (d a : RegNo) (tid : Tid)
  /-- SRD (R376). -/
  | srd (h : Hd) (d : RegNo) (reg : Byte)
  /-- SWR (R377). -/
  | swr (h : Hd) (reg : Byte) (a : RegNo)
  /-- SRD_PAIR (R376). -/
  | srdPair (h : Hd) (d : RegNo) (reg : Byte)
  /-- SWR_PAIR (R377). -/
  | swrPair (h : Hd) (reg : Byte) (a : RegNo)
  deriving DecidableEq, Repr

end Sys2Proof
end

