-- ==== Sys2Proof/Machine/Codes.lean ====
section
/-!
DEFINITION. The codes of the encoding tables: types (R65, R67), scopes, orders, spaces (R68-R70), the M sets (R94), the
rounding set (R95), the special registers (R105), and which types each mnemonic accepts.
-/
namespace Sys2Proof.Machine

open Sys2Proof

/-- The type of a six-bit code (R67). -/
def tyOf (c : BitVec 6) : Option Ty :=
  [Ty.b32, .i8, .i16, .i32, .i64, .n8, .n16, .n32, .n64, .f16, .bf16, .f32, .f64, .e4m3, .e5m2, .cb8, .e8m0][c.toNat]?

/-- The six-bit code of a type (R67). -/
def tyCode : Ty → BitVec 6
  | .b32 => 0x00 | .i8 => 0x01 | .i16 => 0x02 | .i32 => 0x03 | .i64 => 0x04 | .n8 => 0x05 | .n16 => 0x06 | .n32 => 0x07
  | .n64 => 0x08 | .f16 => 0x09 | .bf16 => 0x0A | .f32 => 0x0B | .f64 => 0x0C | .e4m3 => 0x0D | .e5m2 => 0x0E
  | .cb8 => 0x0F | .e8m0 => 0x10

/-- The width of a type in bits per element (R19). -/
def tyBits : Ty → Nat
  | .cb8 => 2
  | .i8 | .n8 | .e4m3 | .e5m2 | .e8m0 => 8
  | .i16 | .n16 | .f16 | .bf16 => 16
  | .b32 | .i32 | .n32 | .f32 => 32
  | .i64 | .n64 | .f64 => 64

/-- Is a type a floating type (R136)? -/
def tyFloat : Ty → Bool
  | .f16 | .bf16 | .f32 | .f64 | .e4m3 | .e5m2 => true
  | _ => false

/-- Is a type a signed integer type (letter i)? -/
def tySigned : Ty → Bool
  | .i8 | .i16 | .i32 | .i64 => true
  | _ => false

/-- The number of registers that hold a value of a type (R102). -/
def tyRegs (t : Ty) : Nat := if tyBits t = 64 then 2 else 1

/-- The common list that M selects a type from (R65). -/
def mTy : BitVec 3 → Ty
  | 0 => .f32 | 1 => .i32 | 2 => .n32 | 3 => .b32 | 4 => .f16 | 5 => .bf16 | 6 => .f64 | _ => .i64

/-- The code of a type in the common list of R65, where it stands there. -/
def tyM : Ty → Option (BitVec 3)
  | .f32 => some 0 | .i32 => some 1 | .n32 => some 2 | .b32 => some 3 | .f16 => some 4 | .bf16 => some 5
  | .f64 => some 6 | .i64 => some 7
  | _ => none

/-- SCOPE (R68). -/
def scopeOf : BitVec 3 → Option Scope
  | 0 => some .dev | 1 => some .group | 2 => some .gang | 3 => some .core | 4 => some .sys | 5 => some .pod
  | _ => none

def scopeCode : Scope → BitVec 3
  | .dev => 0 | .group => 1 | .gang => 2 | .core => 3 | .sys => 4 | .pod => 5

/-- ORDER with SC (R69). -/
def orderOf : BitVec 2 → Bool → Option Order
  | 0, false => some .rlx | 1, false => some .acq | 2, false => some .rel
  | 3, false => some .ar | 3, true => some .sc
  | _, _ => none

def orderCode : Order → BitVec 2
  | .rlx => 0 | .acq => 1 | .rel => 2 | .ar => 3 | .sc => 3

def orderSc : Order → Bool
  | .sc => true
  | _ => false

/-- SPACE (R70). -/
def spaceOf : BitVec 3 → Option Space
  | 0 => some .gv | 1 => some .sp | 2 => some .ws | 3 => some .qw | 4 => some .rm
  | _ => none

def spaceCode : Space → BitVec 3
  | .gv => 0 | .sp => 1 | .ws => 2 | .qw => 3 | .rm => 4

/-- The cmp set (R94). -/
def cmpOf : BitVec 3 → CmpOp
  | 0 => .eq | 1 => .ne | 2 => .lt | 3 => .le | 4 => .gt | 5 => .ge | 6 => .uno | _ => .ord

def cmpCode : CmpOp → BitVec 3
  | .eq => 0 | .ne => 1 | .lt => 2 | .le => 3 | .gt => 4 | .ge => 5 | .uno => 6 | .ord => 7

/-- The aop set (R94). -/
def aopOf : BitVec 3 → AtomOp
  | 0 => .add | 1 => .min | 2 => .max | 3 => .and | 4 => .or | 5 => .xor | 6 => .exch | _ => .cas

def aopCode : AtomOp → BitVec 3
  | .add => 0 | .min => 1 | .max => 2 | .and => 3 | .or => 4 | .xor => 5 | .exch => 6 | .cas => 7

/-- The red set (R94). -/
def redOf : BitVec 3 → Option RedOp
  | 0 => some .add | 1 => some .min | 2 => some .max | 3 => some .and | 4 => some .or | 5 => some .xor
  | _ => none

def redCode : RedOp → BitVec 3
  | .add => 0 | .min => 1 | .max => 2 | .and => 3 | .or => 4 | .xor => 5

/-- The cmode set (R94). -/
def cmodeOf : BitVec 3 → Option CopyMode
  | 0 => some .lin | 1 => some .s2d | 2 => some .gat | 3 => some .sca | 4 => some .red | 5 => some .xch
  | _ => none

def cmodeCode : CopyMode → BitVec 3
  | .lin => 0 | .s2d => 1 | .gat => 2 | .sca => 3 | .red => 4 | .xch => 5

/-- The qmode set (R94). -/
def qmodeOf : BitVec 3 → Option QMode
  | 0 => some .near | 1 => some .any | 2 => some .rad | 3 => some .knn | 4 => some .key
  | _ => none

def qmodeCode : QMode → BitVec 3
  | .near => 0 | .any => 1 | .rad => 2 | .knn => 3 | .key => 4

/-- The fl set (R94). -/
def flOf : BitVec 3 → Option FlushMode
  | 0 => some .wb | 1 => some .inv | 2 => some .wbi
  | _ => none

def flCode : FlushMode → BitVec 3
  | .wb => 0 | .inv => 1 | .wbi => 2

/-- The rounding set of OPF [60:58] (R95). -/
def rndOf : BitVec 3 → Option Rnd
  | 0 => some .ne | 1 => some .tz | 2 => some .up | 3 => some .dn | 4 => some .sto
  | _ => none

def rndCode : Rnd → BitVec 3
  | .ne => 0 | .tz => 1 | .up => 2 | .dn => 3 | .sto => 4

/-- The counter classes of WAIT (R96). -/
def clsOf : BitVec 6 → Option WaitClass
  | 0 => some .loads | 1 => some .stores | 2 => some .copies | 3 => some .tiles
  | _ => none

def clsCode : WaitClass → BitVec 6
  | .loads => 0 | .stores => 1 | .copies => 2 | .tiles => 3

/-! ## Which types an opcode accepts -/

/-- b32 and the 32- and 64-bit integer types. -/
def tysInt : List Ty := [.b32, .i32, .n32, .i64, .n64]
/-- The types of SMOV and SSEL, XGET and XSEL (R371, R397, R399). -/
def tysMove : List Ty := [.b32, .i32, .n32, .f32, .i64, .n64, .f64]
/-- The types of vector arithmetic (R389). -/
def tysNum : List Ty := [.b32, .i32, .n32, .i64, .n64, .f16, .bf16, .f32, .f64]
/-- The types of VABS and VNEG (R389). -/
def tysSign : List Ty := [.i32, .i64, .f16, .bf16, .f32, .f64]
/-- The types of the functions of R392 (R389). -/
def tysFun : List Ty := [.f16, .bf16, .f32, .f64]
/-- The types of VCLASS (R389), and of MRD (R223). -/
def tysClass : List Ty := [.f16, .bf16, .f32, .f64, .e4m3, .e5m2]
/-- The types of VCVT (R151). -/
def tysCvt : List Ty := [.i32, .n32, .i64, .n64, .f16, .bf16, .f32, .f64, .e4m3, .e5m2]
/-- The types of a TI scalar opcode (R88). -/
def tysTiS : List Ty := [.i32, .n32, .b32]
/-- The types of a TI vector opcode (R89). -/
def tysTiV : List Ty := [.i32, .n32, .b32, .i64, .n64]
/-- The types of loads and stores (R356, R378). -/
def tysMem : List Ty :=
  [.i8, .i16, .i32, .i64, .n8, .n16, .n32, .n64, .b32, .f16, .bf16, .f32, .f64, .e4m3, .e5m2]
/-- The types of the A operand of MMA and MMAS (R218). -/
def tysMma : List Ty := [.f16, .bf16, .e4m3, .e5m2]
/-- The types of a compacting MRD to registers (R224). -/
def tysMrdCmpV : List Ty := [.f16, .bf16, .e4m3, .e5m2]
/-- The types of a compacting MRD to memory (R224). -/
def tysMrdCmpS : List Ty := [.f32, .f16, .bf16, .e4m3, .e5m2]

/-- The types that an atomic operation accepts (R320). -/
def tysAtom : AtomOp → List Ty
  | .add => [.i32, .n32, .i64, .n64, .f32]
  | .min | .max => [.i32, .n32, .i64, .n64]
  | .and | .or | .xor => [.b32, .i32, .n32, .i64, .n64]
  | .exch | .cas => [.b32, .i32, .n32, .i64, .n64, .f32]

/-- The types that a reduction accepts (R292). -/
def tysRed : RedOp → List Ty
  | .add | .min | .max => [.i32, .n32, .i64, .n64, .f32, .f64]
  | .and | .or | .xor => [.b32, .i32, .n32, .i64, .n64]

/-- A 64-bit literal fits a type (R72); every floating type counts as an f type (notes/assumptions/104.md). -/
def litFits (t : Ty) (v : DWord) : Bool :=
  let w := tyBits t
  w = 64 || (v >>> w) = 0 || ((tySigned t || tyFloat t) && (v.sshiftRight (w - 1)) = BitVec.allOnes 64)

/-- The special registers (R105): number, width and whether SWR may write. -/
def sregWidth (n : Byte) : Option Nat :=
  if n ≤ 0x04 then some 32
  else if n = 0x05 ∨ n = 0x06 then some 64
  else if n = 0x07 ∨ n = 0x08 then some 32
  else if n = 0x09 ∨ n = 0x10 then some 64
  else if n = 0x11 then some 32
  else if n = 0x12 ∨ n = 0x13 then some 64
  else if 0x20 ≤ n ∧ n ≤ 0x3F then some 32
  else none

/-- SWR may write a special register (R105). -/
def sregRW (n : Byte) : Bool := n = 0x07 || n = 0x08 || n = 0x10 || n = 0x11 || n = 0x12

/-- The number of words of an instruction (R60). -/
def lenWords : Len → Nat
  | .l0 => 1 | .l1 => 3 | .l2 => 3 | .l3 => 5

end Sys2Proof.Machine
end

