-- ==== Sys2Proof/Machine/Bytes.lean ====
section
/-!
DEFINITION. Numbers as bits and bytes (R13), and the canonical list of bytes that holds memory.
-/
namespace Sys2Proof.Machine

open Sys2Proof

/-! ## Bits and bytes -/

/-- A natural number from bytes, lowest first (R13). -/
def leNat : List Byte → Nat
  | [] => 0
  | b :: r => b.toNat + 256 * leNat r

/-- The n bytes of a natural number, lowest first (R13). -/
def leBytes (n : Nat) (v : Nat) : List Byte := (List.range n).map fun i => BitVec.ofNat 8 (v >>> (8 * i))

/-- The 64-bit words that bytes hold, lowest byte first; what is left of fewer than 8 is dropped. -/
def dwordsOf : List Byte → List DWord
  | a :: b :: c :: d :: e :: f :: g :: h :: r => BitVec.ofNat 64 (leNat [a, b, c, d, e, f, g, h]) :: dwordsOf r
  | _ => []

/-- Bits [hi:lo] of a number. -/
def bitsOf (v hi lo : Nat) : Nat := (v >>> lo) % 2 ^ (hi + 1 - lo)

/-- Bit i of a number. -/
def bitOf (v i : Nat) : Bool := v.testBit i

/-- A number of w bits read as signed. -/
def sgn (w v : Nat) : Int := if v < 2 ^ (w - 1) then v else (v : Int) - 2 ^ w

/-- The low w bits of an integer. -/
def lowBits (w : Nat) (v : Int) : Nat := (v % (2 ^ w : Nat)).toNat

/-! ## The canonical list of bytes

Addresses rise strictly, and no listed byte is zero, which is what an unlisted address reads as (notes/assumptions/1.md). -/

/-- The byte at an address. -/
def cellGet : List Host.Cell → Nat → Byte
  | [], _ => 0
  | (k, v) :: r, a => if k = a then v else if a < k then 0 else cellGet r a

/-- The list with a byte written. -/
def cellPut : List Host.Cell → Nat → Byte → List Host.Cell
  | [], a, v => if v = 0 then [] else [(a, v)]
  | (k, w) :: r, a, v =>
    if a < k then (if v = 0 then (k, w) :: r else (a, v) :: (k, w) :: r)
    else if a = k then (if v = 0 then r else (a, v) :: r)
    else (k, w) :: cellPut r a v

/-- The list with bytes written from an address on. -/
def cellsPut (m : List Host.Cell) (a : Nat) : List Byte → List Host.Cell
  | [] => m
  | v :: r => cellsPut (cellPut m a v) (a + 1) r

/-- The list with bytes written from an address on, where a condition holds. -/
def cellsPutIf (p : Nat → Bool) (m : List Host.Cell) (a : Nat) : List Byte → List Host.Cell
  | [] => m
  | v :: r => cellsPutIf p (if p a then cellPut m a v else m) (a + 1) r

/-- The n bytes from an address on. -/
def cellsGet (m : List Host.Cell) (a n : Nat) : List Byte := (List.range n).map fun i => cellGet m (a + i)

/-- Every address listed lies above a bound. -/
def cellsAbove (b : Nat) : List Host.Cell → Bool
  | [] => true
  | (k, _) :: r => decide (b < k) && cellsAbove b r

/-- The canonical form. -/
def cellsWf : List Host.Cell → Bool
  | [] => true
  | (k, v) :: r => decide (v ≠ 0) && cellsAbove k r && cellsWf r

/-- The canonical form of memory. -/
abbrev Memory.wf (m : List Host.Cell) : Bool := cellsWf m

/-- An explicit table of bytes: what an address was given, where it was given anything. -/
def tabGet : List Host.Cell → Nat → Option Byte
  | [], _ => none
  | (k, v) :: r, a => if k = a then some v else tabGet r a

/-- The table with a byte given. -/
def tabPut : List Host.Cell → Nat → Byte → List Host.Cell
  | [], a, v => [(a, v)]
  | (k, w) :: r, a, v => if k = a then (a, v) :: r else (k, w) :: tabPut r a v

end Sys2Proof.Machine
end

