-- ==== Sys2Proof/Machine/Compress.lean ====
section
/-!
DEFINITION. The encodings of a compressed line (R176, R177): which of them represent a line exactly, the one that the
controller takes, and the sectors that it keeps.
-/
namespace Sys2Proof.Machine

open Sys2Proof

/-- The elements of w bytes of a line (R176). -/
def lineElems (w : Nat) (bs : List Byte) : List Nat := (List.range (128 / w)).map fun k => leNat ((bs.drop (w * k)).take w)

/-- What lies between an element of w bytes and the base, modulo 2^(8w). -/
def deltaOf (w base x : Nat) : Nat := (x + 2 ^ (8 * w) - base) % 2 ^ (8 * w)

/-- A delta of d bytes, its sign extended to w bytes (R176). -/
def sextDelta (w d v : Nat) : Nat := lowBits (8 * w) (sgn (8 * d) (v % 2 ^ (8 * d)))

/-- Every element of w bytes differs from the first by what d signed bytes hold (R176). -/
def deltasFit (w d : Nat) (bs : List Byte) : Bool :=
  let es := lineElems w bs
  es.all fun x => let v := deltaOf w (es.headD 0) x; sextDelta w d v == v

/-- The widths of element and delta of a base-and-delta encoding (R176). -/
def tagWidths : Nat → Option (Nat × Nat)
  | 3 => some (8, 1)
  | 4 => some (8, 2)
  | 5 => some (4, 1)
  | 6 => some (4, 2)
  | _ => none

/-- An encoding represents a line exactly (R176). Tags from 7 up are reserved. -/
def tagFits (tag : Nat) (bs : List Byte) : Bool :=
  match tag, tagWidths tag with
  | 0, _ => true
  | 1, _ => bs.all (· == 0)
  | 2, _ => (lineElems 8 bs).all fun x => x == (lineElems 8 bs).headD 0
  | _, some (w, d) => deltasFit w d bs
  | _, none => false

/-- The sectors of an encoding (R176). -/
def tagSectors : Nat → Nat
  | 1 | 2 | 3 => 1
  | 4 | 5 => 2
  | 6 => 3
  | _ => 4

/-- The encoding with the fewest sectors that represents a line exactly, the lowest tag of several (R177). -/
def bestTag (bs : List Byte) : Nat :=
  [1, 2, 3, 4, 5, 6].foldl (fun best t => if tagFits t bs && decide (tagSectors t < tagSectors best) then t else best) 0

/-- The sectors of 32 bytes in which an encoding keeps a line; bytes that its content leaves over are zero (R176). -/
def packLine (tag : Nat) (bs : List Byte) : List Byte :=
  let content : List Byte := match tag, tagWidths tag with
    | 1, _ => []
    | 2, _ => bs.take 8
    | _, some (w, d) =>
      let es := lineElems w bs
      bs.take w ++ (es.map fun x => leBytes d (deltaOf w (es.headD 0) x % 2 ^ (8 * d))).flatten
    | _, none => bs
  (content ++ List.replicate 128 0).take (32 * tagSectors tag)

/-- The line that sectors hold in an encoding (R176, R178). -/
def unpackLine (tag : Nat) (sectors : List Byte) : List Byte :=
  match tag, tagWidths tag with
  | 1, _ => List.replicate 128 0
  | 2, _ => (List.replicate 16 (sectors.take 8)).flatten
  | _, some (w, d) =>
    let base := leNat (sectors.take w)
    ((List.range (128 / w)).map fun k =>
      leBytes w ((base + sextDelta w d (leNat ((sectors.drop (w + d * k)).take d))) % 2 ^ (8 * w))).flatten
  | _, none => sectors

/-- A tag that the table of R176 reserves. -/
def tagReserved (tag : Nat) : Bool := decide (7 ≤ tag)

end Sys2Proof.Machine
end

