-- ==== Sys2Proof/Config.lean ====
section
/-!
DEFINITION. What the spec fixes for every module, and the free values: constants without a body, so that nothing can be
proved of the value they take (notes/assumptions/5.md says where each is used).
-/
namespace Sys2Proof.Config

/-- Cores of a module, in 40 clusters of 8 (R1, R20). -/
def numCores : Nat := 320
/-- Clusters of a module (R1). -/
def numClusters : Nat := 40
/-- Resident groups of one scheduler (R11, R37). -/
def groupsPerSched : Nat := 10
/-- Slots of one scheduler (R9, R37). -/
def slotsPerSched : Nat := 320
/-- Accumulator tiles of one core (R37). -/
def tilesPerCore : Nat := 40
/-- Scratchpad bytes of one core (R9). -/
def scratchBytes : Nat := 262144
/-- Places of a gang's command list (R285). -/
def cmdPlaces : Nat := 256
/-- Longest run, in instructions (R11, R52). -/
def runLength : Nat := 24
/-- Instructions of a loop body that the loop buffer holds (R127). -/
def loopBuffer : Nat := 256
/-- Words of an instruction cache of 64 KiB (R9). -/
def icacheWords : Nat := 16384
/-- Entries of a core's TLB (R9). -/
def tlbEntries : Nat := 2048
/-- Lanes of a group (R11). -/
def lanes : Nat := 96

/-- A choice the spec leaves open among several outcomes it lists (R23): the n-th choice made, free. -/
opaque freeNat : Nat → Nat
/-- A yes-or-no choice the spec leaves open: the n-th one made, free. -/
opaque freeBool : Nat → Bool
/-- Which of the two neighbouring values a function of R392 rounds to where the bounds computed by this model do not
decide it: free (arguments: which function, the operand's bits). -/
opaque hardRound : Nat → DWord → Bool
/-- ECDSA P-384 verification under the key whose digest is fused (R3): image digest, signature, key digest. -/
opaque ecdsaVerify : BitVec 384 → BitVec 768 → BitVec 384 → Bool
/-- The signature of an SPDM answer under the fused identity key: key, version, and the measurements (R314). -/
opaque spdmSign : BitVec 384 → Byte → BitVec 384 → DWord → DWord → BitVec 768
/-- What hides a number of a dispatch trace, whose format is private to the device (R59): free, of the numbers before it, the
latest first (notes/assumptions/15.md). -/
opaque traceKey : List DWord → DWord
/-- The capacity of a queue whose LOG2CAP has none of the values that R42 gives, 21 to 31: free (notes/assumptions/89.md). -/
opaque queueCap : Nat → Nat

end Sys2Proof.Config
end

