-- ==== Sys2Proof/Machine/State.lean ====
section
/-!
DEFINITION. The state of an LZ9 module as plain data: everything the spec gives the machine (INVENTORY.md, heading State,
lists it with the rule that names each piece), and `State.reset`, the module right after module reset.
-/
namespace Sys2Proof.Machine

open Sys2Proof

/-! ## Why a step can stop -/

/-- The machine's own stops. Every trap of R269 is a next state, not one of these. -/
inductive Fault where
  /-- Raised by the meaning of an instruction of the opcode map when no agent issues (no run is in progress, or its split
  is gone). `step` never asks for a meaning then. Safe: the machine stops where the spec describes nothing. -/
  | noIssuer
  deriving DecidableEq, Repr

/-- Why an instruction has no meaning. -/
inductive Refusal where
  /-- Raised by an arm of `exec` whose instruction has no meaning yet. Safe. -/
  | notModelled (mnemonic : String)
  deriving DecidableEq, Repr

/-! ## Traps -/

/-- The causes of R269. -/
inductive Cause where
  | illegal | convergence | regbounds | page | prot | align | spillfault | windowfull | promise | noninv | spoverflow
  | poison | bkpt | soft | fpexc
  deriving DecidableEq, Repr

/-- A trap that a split or front has raised and not yet entered: cause, ACCESS (R267), the address that TRAPPC and TRAPADDR
receive, the TRAP code, and the split numbers that SIBL names. -/
structure TrapInfo where
  cause  : Cause
  access : BitVec 4
  pc     : DWord
  addr   : DWord
  code   : Byte
  sibl   : BitVec 4
  deriving DecidableEq, Repr

/-! ## The Plaza (R194) -/

/-- A scalar register by its home: word i of the mask of a split, or the scalar half of an absolute slot (R101, R106). -/
inductive SReg where
  | mask (split i : Nat)
  | slot (n : Nat)
  deriving DecidableEq, Repr

/-- Where the value of a load or atomic goes: nowhere, a lane of a vector register, or a scalar register; the second
register is used by 64-bit types (R102). -/
inductive Dest where
  | none
  | vec (lo hi lane : Nat)
  | scal (lo hi : SReg)
  deriving DecidableEq, Repr

/-- What a queue entry is (R194, R197): a load, a store, an atomic (both halves), the step of a BBI or BBA at its barrier
(R324), a DQPOP that waits for its decision (R342), or a fence mark. A mark carries what its step also does: an Export, an Import, a catch-up of the core's views (R201,
R202). -/
inductive EntryKind where
  | load
  | store
  | atomic (op : AtomOp) (x y : DWord)
  | barrier (arrive : Bool) (count : Nat)
  | pop
  | mark (exp imp catchup : Bool)
  deriving DecidableEq, Repr

/-- One entry of the queues of a group or front, in issue order. `pos` is the queue position, shared by the lanes of one
instruction (R204); `key` and `n` name the bytes in `State.mem`; `fence` is the release set bound of the latest fence that
makes a later store cumulative (R200). `whole` names the lines that all lanes of the store instruction write whole (R181); `told` says that
a lane of the same compare-and-swap has failed and demoted its split (R322). The
store queue holds the stores, atomics and marks; the load queue the loads, atomics and marks (R194). -/
structure Entry where
  pos    : Nat
  split  : Nat
  kind   : EntryKind
  key    : Nat
  n      : Nat
  data   : List Byte
  ty     : Ty
  dest   : Dest
  order  : Order
  scope  : Scope
  poll   : Bool
  cls    : Option WaitClass
  fence  : Nat
  isFence : Bool
  whole  : List Nat
  told   : Bool := false
  deriving DecidableEq, Repr

/-- A store performed at the homes of memory: its number in the order of steps, its bytes, and the bound of its
release set (0 when it is not cumulative): every store numbered below the bound is in the set (R200). -/
structure HomeStore where
  seq   : Nat
  cells : List Host.Cell
  rel   : Nat
  deriving DecidableEq, Repr

/-- A core's view (R194): for each byte the latest store numbered at most `floor`, or the store a mark names where that is
later. -/
structure View where
  floor : Nat
  marks : List (Nat × Nat)
  deriving DecidableEq, Repr

/-! ## Splits and groups -/

/-- A hardware loop level (R126, R282): counter, body start, end; the words of its body that the loop buffer has captured
(R127); whether it runs from them, waits for its body to be captured, or is marked for discard. -/
structure Level where
  ctr     : BitVec 2
  start   : DWord
  last    : DWord
  buf     : List (Nat × List Word)
  bufOn   : Bool
  armed   : Bool
  discard : Bool
  deriving DecidableEq, Repr

/-- What a BLOCKED split waits for (R29): `len` is the length of the blocking instruction in words, `arrived` numbers the
waiters in the order in which they came, and d, a, b are the registers that a DEQ or DQPOP names. -/
inductive Wait where
  | none
  | counter (cls : WaitClass) (n len : Nat)
  | sync (phase : Nat)
  | barrier (off : Nat)
  | deq (arrived q d b : Nat)
  | dqpop (arrived d a : Nat) (j : Bool)
  | sleep (till : Nat)
  | wakeat (till : Nat)
  deriving DecidableEq, Repr

/-- What holds a split at its instruction: it wants a window at a base (R110, R111); it holds a reservation for want of room
or of settled queues (R44, R346); its fence mark has been placed (R201); a KICK has records left to enter (R354); an MRD
with tickets has rows left to append (R225); its MMA has looked up a weight-buffer entry that is LOADING (R217); it was
created to raise PROT at its first instruction (R274); or it is BLOCKED at an instruction that is evaluated afresh at its next
issue (R278; notes/assumptions/98.md). -/
inductive Hold where
  | none
  | window (want : Nat)
  | fence
  | prot
  | again
  | kick (left : List (BitVec 512))
  | tick (op : Nat)
  | mma (entry : Nat)
  | reserve (q : Nat) (recs : List (List Byte)) (dest : Option (SReg × SReg))
  deriving DecidableEq, Repr

inductive SplitState where
  | ready | issuing | blocked | trapped | sleeping | held
  deriving DecidableEq, Repr

/-- A live split (R26, R29, R101, R266, R267, R282). `noFuse` is the VMAX that does not fuse at its next issue outside a
handler, `noFuseIn` the one that does not in its handler (R157); `pos` is
the queue position of the release that created it (R118), or of the instruction whose reservation it holds (R346). -/
structure Split where
  no        : Nat
  pc        : DWord
  base      : Nat
  owned     : Mask
  mask      : Mask
  lc        : Vector Word 3
  levels    : List Level
  state     : SplitState
  prior     : SplitState
  wait      : Wait
  hold      : Hold
  demoted   : Bool
  stamp     : Nat
  trapCause : Word
  trapPc    : DWord
  trapAddr  : DWord
  inHandler : Bool
  entryMask : Mask
  entryBase : Nat
  trap      : Option TrapInfo
  noFuse    : Option DWord
  noFuseIn  : Option DWord
  heldBy    : Option Nat
  pos       : Nat
  deriving DecidableEq, Repr

inductive StackKind where
  | branch | call | trap
  deriving DecidableEq, Repr

/-- A reconvergence-stack entry (R125, R272); `bad` says that its image was restored with a reserved field that is not
zero. -/
structure StackEntry where
  kind  : StackKind
  rpcv  : Bool
  rpc   : DWord
  jpc   : DWord
  jmask : Mask
  jbase : Nat
  amask : Mask
  abase : Nat
  dmask : Mask
  bad   : Bool
  deriving DecidableEq, Repr

/-- A ring position of a group's allotment (R107): the absolute slot it holds, its vector and scalar halves, whether the spill
area holds a clean copy (R112), and, since the slot is spillable, the queue position at which it became so with the release set
bound of the latest fence before that position (R118, R200). -/
structure RingSlot where
  abs   : Option Nat
  vec   : VReg
  scal  : Word
  clean : Bool
  since : Option (Nat × Nat)
  deriving DecidableEq, Repr

/-- The state of a weight-buffer entry; an EMPTY one is not listed (R214). -/
inductive WState where
  | loading | ready
  deriving DecidableEq, Repr

/-- A weight-buffer entry of the context `owner` (R214, R288): its number, tag, the tensor entry and pattern program as the
MWB read them, its stored elements and scales, and of a load the bytes fetched so far, the issuer that it owes, whether a
fault has paused it, and whether a TDEF empties it at its end (R385). -/
structure WEntry where
  owner  : Nat
  no     : Nat
  st     : WState
  tid    : Tid
  image  : BitVec 256
  r0     : Nat
  c0     : Nat
  layer  : Nat
  pslot  : Nat
  gen    : Word
  prog   : BitVec 256
  elems  : List Byte
  scales : List Byte
  age    : Nat
  cursor : Nat
  issuer : QId
  pc     : DWord
  paused : Bool
  doomed : Bool
  deriving DecidableEq, Repr

/-- A pattern slot (R229, R288). -/
structure PSlot where
  owner  : Nat
  loaded : Bool
  image  : BitVec 256
  gen    : Word
  inv    : Bool
  deriving DecidableEq, Repr

/-- One root of a GRAS, with the geometry tensor's entry as the GRAS read it (R249). -/
structure Root where
  node : Nat
  cull : BitVec 2
  inst : BitVec 12
  gtid : Tid
  image : BitVec 256
  deriving DecidableEq, Repr

/-- What the rasteriser still has to do (R250): visit a node, or commit a sample. -/
inductive RasterTask where
  | visit (r : Root) (node : Nat) (x y z : Int) (lev : Option Nat)
  | commit (px py depth : Nat) (ident : DWord)
  deriving DecidableEq, Repr

/-- A tile operation of a group in progress (R212, R229, R349, R362, R385). Registers it reads are captured at issue; stores
to memory are listed as pieces (offset, key, bytes) or as keys with their bytes. -/
inductive TileKind where
  | mma (acc : Nat) (t : Bool) (aty : Ty) (a : List VReg) (asc : Option VReg) (w : WEntry)
  | mrdV (acc : Nat) (ty : Ty) (c0 ncol : Nat) (dests : List Nat) (lanes : Mask)
  | mrdS (acc : Nat) (ty : Ty) (c0 ncol : Nat) (lines : List (Nat × Nat × Nat))
  | mclr (acc : Nat)
  | mrdRec (writes : List (Nat × List Byte)) (flags : BitVec 5)
  | mrdTick (acc : Nat) (ty : Ty) (ctr : Nat) (dst : List (Nat × Nat × Nat)) (bound : Nat) (rows : List Nat)
      (writes : List (Nat × List Byte)) (put : Nat) (dropped : Bool)
  | pload (slot : Nat) (image : BitVec 256) (installed : Bool)
  | publish (tid : Tid) (old : Option (BitVec 256))
  | tdef (tid : Tid) (image : BitVec 256) (written : Bool)
  | gras (vtid : Tid) (image : BitVec 256) (roots : List Root) (work : List RasterTask)
      (prims samples passed badNode poisonNode drops : Nat)
  | grep (image : BitVec 256) (dest : Nat) (todo : List Nat) (a : List VReg) (rejects : Nat)
  | gbld (tri commit : Bool) (tid : Tid) (image : BitVec 256) (off : Nat) (lanes : List Nat) (a : List VReg) (taken : Bool)
  | gpatch (tid : Tid) (image : BitVec 256) (dest : Nat) (todo : List Nat) (exts : List Nat) (a : List VReg)
  deriving DecidableEq, Repr

structure TileOp where
  id    : Nat
  pos   : Nat
  kind  : TileKind
  deriving DecidableEq, Repr

/-- A query result: identifier and key (R257). -/
structure QResult where
  ident : DWord
  key   : DWord
  deriving DecidableEq, Repr

/-- A node that a query has yet to visit (R255): its origin as its parent gives it, the LEVEL a child must have, and whether
the box test would skip it, so that only hits of rays are taken from it. -/
structure QTask where
  node  : Nat
  x     : Int
  y     : Int
  z     : Int
  lev   : Option Nat
  quiet : Bool
  deriving DecidableEq, Repr

/-- A result that a walk has found, with the value by which its mode orders results (R255). -/
structure QHit where
  ident : DWord
  key   : DWord
  ord   : Rat
  deriving DecidableEq, Repr

/-- A query slot that has held a query (R254, R282). `owed` says that the tiles counter counts its round; `walk` and `found`
are the walk of the round in progress. -/
structure QSlot where
  slot      : Nat
  active    : Bool
  ready     : Bool
  mode      : QMode
  qrec      : List Word
  image     : BitVec 256
  status    : Byte
  results   : List QResult
  delivered : Nat
  owed      : Bool
  walk      : List QTask
  found     : List QHit
  deriving DecidableEq, Repr

/-- An accumulator tile: rows of pairs (S, C), as bit patterns of f32 (R211). -/
abbrev Tile := List (List (Word × Word))

/-- A group, or the front of a core as a group of one split without a mask (R26, R49, R101). The first part is loaded when
the gang is placed. `stack` has its topmost entry first; `spilled` of the bottom entries lie in the spill area (R124);
`out` names the window slots whose contents lie in the spill area only (R109, R112); `past` holds the contents that slots of the
group have held and hold no longer (R109). -/
structure Group where
  isFront  : Bool
  ctx      : Nat
  job      : Nat
  gang     : Nat
  worker   : Nat
  idx      : Nat
  lcore    : Nat
  host     : Nat
  sched    : Nat
  slot0    : Nat
  span     : Nat
  allot    : Nat
  acct     : Nat
  spBase   : Nat
  spSize   : Nat
  laneBase : Word
  args     : Vector Word 32
  -- registers
  globals  : Vector (VReg × Word) 8
  ring     : List RingSlot
  past     : List (VReg × Word)
  x        : Vector Word 4
  loads    : Nat
  stores   : Nat
  copies   : Nat
  tiles    : Nat
  acc      : List Tile
  tbase    : DWord
  fpmode   : Word
  fpflags  : Word
  -- divergence
  splits   : List Split
  stack    : List StackEntry
  spilled  : Nat
  out      : List Nat
  -- traffic
  queue    : List Entry
  nextPos  : Nat
  fence    : Nat
  ops      : List TileOp
  nextOp   : Nat
  queries  : List QSlot
  -- scheduling
  arrived  : Option Nat
  lastRun  : Nat
  retired  : Bool
  deriving DecidableEq, Repr

/-! ## Gangs, jobs, contexts -/

/-- A request of the copy engine (R182). -/
structure CopyReq where
  mode    : CopyMode
  src     : DWord
  sspace  : Space
  dst     : DWord
  dspace  : Space
  rows    : Nat
  len     : Nat
  sstride : Word
  dstride : Word
  idx     : DWord
  ispace  : Space
  seq     : DWord
  bboff   : Nat
  peer    : Nat
  bben    : Bool
  esize   : Nat
  rty     : Ty
  rop     : RedOp
  raw     : BitVec 512
  deriving DecidableEq, Repr

/-- A command of a gang's command list (R285). `again` says that it has been re-issued (R286), `via` is the tensor entry from
which its destination was computed (R193, R334); `landed` names the lines at their homes, `counted` those that have
arrived. -/
structure CopyCmd where
  id       : Nat
  gang     : Nat
  issuer   : QId
  fromCpy  : Bool
  req      : CopyReq
  headSkip : Nat
  accepted : Bool
  again    : Bool
  via      : Option (Tid × BitVec 256)
  pos      : Nat
  pc       : DWord
  landed   : List Nat
  counted  : List Nat
  paused   : Bool
  promise  : Option Nat
  promised : Bool
  deriving DecidableEq, Repr

inductive GangState where
  | pending | resident | evicted | retired
  deriving DecidableEq, Repr

/-- A gang (R24, R31). `stage` is 1 and 2 while it is evicted (R278), 3 while its restoration goes on (R286, R291); `evictor` is
the pending gang on whose account it has been evicted (R38, R290). -/
structure Gang where
  uid     : Nat
  job     : Nat
  worker  : Nat
  lcore   : Nat
  host    : Nat
  state   : GangState
  placed  : Bool
  age     : Nat
  spBase  : Nat
  spSize  : Nat
  groups  : List Group
  cmds    : List CopyCmd
  phase   : Nat
  stage   : Nat
  saveOff : Nat
  listSeq : Nat
  held    : Bool
  evictor : Option Nat
  deriving DecidableEq, Repr

/-- The state of a job (R32); a `stopped` one issues no further run, and completes behind what it has left to perform (R47, R59,
R304). -/
inductive JobState where
  | queued | waiting | active | quiescent | stopped | complete
  deriving DecidableEq, Repr

/-- A job: the fields of its launch record and descriptor, and its progress (R32-R36, R59, R184). -/
structure Job where
  uid       : Nat
  ctx       : Nat
  lseq      : DWord
  cidx      : Nat
  prio      : Nat
  det       : Bool
  replay    : Bool
  deps      : List (Nat × DWord)
  args      : Vector Word 32
  traceSz   : Nat
  traceAddr : DWord
  qmask     : DWord
  wpc       : Nat
  ccount    : Nat
  cfirst    : Nat
  spUnits   : Nat
  gdelay    : Nat
  acct      : Nat
  span      : Nat
  allot     : Nat
  gangN     : Nat
  spill     : DWord
  wentry    : DWord
  fentry    : DWord
  state     : JobState
  status    : Byte
  acqSeq    : Nat
  redNext   : List (Nat × Nat)
  trace     : List (List Nat)
  expected  : List (List Nat)
  deriving DecidableEq, Repr

/-- The gatherer's state for one queue of a context (R44, R45). -/
structure Gather where
  q         : Nat
  delivered : List Nat
  hold      : Option (DWord × Nat)
  seenTail  : Nat
  deriving DecidableEq, Repr

/-- A resident context (R297); `aborted` numbers the launch records that an ABORT has met before they were read (R32, R304). -/
structure Context where
  id         : Nat
  ttroot     : DWord
  seed       : DWord
  savePool   : DWord
  saveSz     : Nat
  qaBase     : Nat
  qaSize     : Nat
  wsBase     : Nat
  wsSize     : Nat
  nmBase     : Nat
  nmSize     : Nat
  fragMode   : Bool
  poisonTrap : Bool
  fixed      : Bool
  podTag     : Word
  tensors    : List (Nat × BitVec 256)
  faultSeq   : Nat
  heldFaults : List (BitVec 512)
  sleepers   : List (Nat × FaultSrc)
  areas      : List (Nat × Nat)
  gathers    : List Gather
  aborted    : List Nat
  deriving DecidableEq, Repr

/-! ## Cores and the module -/

/-- A decision and the job whose front pushed it (R51, R340). -/
structure Decision where
  job : Nat
  val : DWord
  deriving DecidableEq, Repr

/-- A cached translation: context, page base, page size, the leaf entry (R166). -/
structure TlbEntry where
  ctx  : Nat
  va   : Nat
  size : Nat
  pte  : DWord
  deriving DecidableEq, Repr

/-- A valid entry of a translation table that names a further table, as a walk cache holds it (R166): context, shift of the
level, the index bits above it, the entry. -/
structure WalkEntry where
  ctx : Nat
  sh  : Nat
  tag : Nat
  pte : DWord
  deriving DecidableEq, Repr

/-- The scalar front of a core (R49). -/
structure Front where
  job   : Nat
  group : Group
  ended : Bool
  deriving DecidableEq, Repr

/-- A core, by its logical index (R20, R36). -/
structure Core where
  idx      : Nat
  dq       : List Decision
  dqWaits  : Nat
  wbuf     : List WEntry
  pslots   : List (Nat × PSlot)
  away     : List (Nat × Nat)
  saved    : List (Nat × List WEntry × List (Nat × PSlot) × List Decision)
  promise  : Nat
  view     : View
  tlb      : List TlbEntry
  walks    : List WalkEntry
  icache   : List (Nat × Word)
  runTime  : Vector Nat 5
  front    : Option Front
  deriving DecidableEq, Repr

/-- A cluster's clock (R309-R312). -/
structure Cluster where
  idx       : Nat
  fixed     : Bool
  cycle     : Nat
  mhz       : Nat
  stretched : Nat
  deriving DecidableEq, Repr

/-- An event counter that the host has written (R313). -/
structure EvCounter where
  cluster : Nat
  k       : Nat
  enable  : Bool
  allCtx  : Bool
  ctx     : Nat
  source  : Byte
  count   : DWord
  deriving DecidableEq, Repr

/-- A page migration in progress (R179, R305): its descriptor, the page, the key of its leaf entry, the keys of the first byte
of the page that it leaves and of the page that it fills, NEWPTE, and the lines that have moved. -/
structure Migration where
  id      : Nat
  ctx     : Nat
  desc    : Nat
  va      : Nat
  size    : Nat
  pteKey  : Nat
  src     : Nat
  dst     : Nat
  newPte  : DWord
  moved   : List Nat
  deriving DecidableEq, Repr

/-- A resident context of a peer module: device id, PODTAG, root of its translation table (R161, R308). -/
structure PeerCtx where
  dev    : Nat
  tag    : Word
  ttroot : DWord
  deriving DecidableEq, Repr

/-- An SPDM answer: version, measurements and signature (R314). -/
structure SpdmAnswer where
  link   : Bool
  version : Byte
  digest : BitVec 384
  config : DWord
  attach : DWord
  sig    : BitVec 768
  deriving DecidableEq, Repr

/-- The binding of a context to a TDISP interface: its link and IDE stream, and whether the interface is in RUN (R315). -/
structure Binding where
  ctx    : Nat
  link   : Bool
  stream : Nat
  run    : Bool
  deriving DecidableEq, Repr

/-- A run in progress (R52, R54): who issues, on which scheduler, how many instructions have issued, whether the run is
stalled in place, and the words that had been fetched when an ICINV of the run issued (R351). -/
structure Run where
  agent   : Agent
  core    : Nat
  sched   : Nat
  count   : Nat
  stalled : Bool
  ahead   : List (Nat × List Word)
  deriving DecidableEq, Repr

/-- A turn that the environment or the Plaza's free choice has in store (the model's own; notes/assumptions/4.md): a device
event, clock cycles, the head run's next instruction, or another run becoming the head run. -/
inductive Turn where
  | event (e : Instr)
  | tick (n : Nat)
  | issue
  | switch (i : Nat)
  deriving DecidableEq, Repr

/-- The module. -/
structure State where
  -- firmware, links, control page
  booted    : Bool
  flash     : FwImage
  measured  : BitVec 384
  fwVersion : Word
  fuseKey   : BitVec 384
  fuseMin   : Word
  fuseCfg   : DWord
  idKey     : BitVec 384
  linkUp    : BitVec 2
  linkAtomics : BitVec 2
  devid     : BitVec 10
  hifVer    : Byte
  wsDrop    : Bool
  routes    : List (Nat × BitVec 16)
  gulVer    : List (Nat × Nat)
  ctxcmd    : Word
  ctxPend   : Bool
  mailbox   : BitVec 1024
  evCounters : List EvCounter
  spdm      : Option SpdmAnswer
  tdisp     : List Binding
  hostData  : List Byte
  podSent   : List (Nat × Nat × List Byte)
  podReply  : List (Option (List Byte))
  peers     : List PeerCtx
  -- clocks
  fcount    : Nat
  lastBubble : Option Nat
  clusters  : List Cluster
  -- memory and the Plaza
  mem       : List Host.Cell
  memInit   : List Host.Cell
  homes     : List HomeStore
  nextSeq   : Nat
  hostCopy  : List Host.Cell
  pending   : List (List Host.Cell)
  poisoned  : List Nat
  tags      : List (Nat × Nat)
  -- work
  contexts  : List Context
  jobs      : List Job
  gangs     : List Gang
  cores     : List Core
  migrations : List Migration
  nextUid   : Nat
  -- the model's own
  runs      : List Run
  agenda    : List Turn
  choices   : Nat
  deriving DecidableEq, Repr

/-! ## Values at reset -/

/-- A vector register of zeros. -/
def VReg.zero : VReg := Vector.replicate 96 0

/-- The firmware image that stands in the flash at reset (notes/assumptions/16.md). -/
def shippedImage : FwImage := { digest := 0, sig := 0, version := 0 }

/-- The module right after module reset, its shipped image booted: no link trained, not attached, no context resident, no
run in progress, every memory byte as unwritten (R3, R295, R297, R312; notes/assumptions/1.md, 2.md, 16.md). -/
def State.reset : State where
  booted := true
  flash := shippedImage
  measured := shippedImage.digest
  fwVersion := shippedImage.version
  fuseKey := 0
  fuseMin := 0
  fuseCfg := 0
  idKey := 0
  linkUp := 0
  linkAtomics := 0
  devid := 0
  hifVer := 0
  wsDrop := false
  routes := []
  gulVer := []
  ctxcmd := 0
  ctxPend := false
  mailbox := 0
  evCounters := []
  spdm := none
  tdisp := []
  hostData := []
  podSent := []
  podReply := []
  peers := []
  fcount := 0
  lastBubble := none
  clusters := []
  mem := []
  memInit := []
  homes := []
  nextSeq := 1
  hostCopy := []
  pending := []
  poisoned := []
  tags := []
  contexts := []
  jobs := []
  gangs := []
  cores := []
  migrations := []
  nextUid := 0
  runs := []
  agenda := []
  choices := 0

end Sys2Proof.Machine
end

