-- ==== Sys2Proof/Machine/Mem.lean ====
section
/-!
DEFINITION. Memory: which byte each address names, the homes and views of the Plaza (R194-R197), compressed and poisoned
lines (R175-R181), pages in migration (R179), and translation (R158, R163-R166).
-/
namespace Sys2Proof.Machine

open Sys2Proof

/-! ## Keys: one number for each byte of every memory (R158, R195) -/

/-- A byte of the Quay window. -/
def quayKey (off : Nat) : Nat := 2 ^ 60 + off
/-- A byte of the weight store. -/
def wsKey (off : Nat) : Nat := 2 ^ 61 + off
/-- A byte of the scratchpad of a core. -/
def spKey (core off : Nat) : Nat := 2 ^ 62 + core * 2 ^ 20 + off
/-- A byte of host memory. -/
def hostKey (a : Nat) : Nat := 2 ^ 64 + a
/-- A byte of the device memory of a peer module. -/
def peerKey (dev a : Nat) : Nat := 2 ^ 70 + dev * 2 ^ 60 + a
/-- A byte of the host memory that a peer module maps. -/
def peerHostKey (dev a : Nat) : Nat := peerKey dev (2 ^ 56 + a)
/-- A byte of host memory. -/
def isHost (key : Nat) : Bool := decide (2 ^ 64 ≤ key) && decide (key < 2 ^ 70)
/-- Viewed memory: device memory (R195). -/
def viewed (key : Nat) : Bool := decide (key < 2 ^ 60)
/-- Near memory that can be addressed: 1.5 GiB (R7, R163). -/
def isNear (a : Nat) : Bool := decide (a < 0x60000000)
/-- Device memory that exists: addressable near memory and GDDR (R7, R294). -/
def deviceExists (a : Nat) : Bool := isNear a || (decide (0x1000000000 ≤ a) && decide (a ≤ 0x2FFFFFFFFF))
/-- GDDR (R294). -/
def isGddr (a : Nat) : Bool := decide (0x1000000000 ≤ a) && decide (a ≤ 0x2FFFFFFFFF)
/-- A byte that a store reaches: the rest of the device address range drops writes (R294). -/
def stored (key : Nat) : Bool := !viewed key || deviceExists key
/-- The device address that a key names, in this module or a peer (R161). -/
def deviceAddr (key : Nat) : Nat := if key < 2 ^ 70 then key else (key - 2 ^ 70) % 2 ^ 60
/-- A byte of GDDR of this module or a peer. -/
def inGddr (key : Nat) : Bool := isGddr (deviceAddr key)
/-- The 128-byte line of a key (R180). -/
def lineOf (key : Nat) : Nat := key / 128

/-! ## Lists with a key -/

/-- The first entry that satisfies a condition, replaced; or the entry added. -/
def upsert {α : Type} (p : α → Bool) (x : α) : List α → List α
  | [] => [x]
  | y :: r => if p y then x :: r else y :: upsert p x r

/-- The first entry that satisfies a condition, replaced where there is one. -/
def replaceFirst {α : Type} (p : α → Bool) (x : α) : List α → List α
  | [] => []
  | y :: r => if p y then x :: r else y :: replaceFirst p x r

/-! ## Contexts, jobs, cores, clusters -/

/-- A resident context. -/
def State.ctx? (s : State) (c : Nat) : Option Context := s.contexts.find? fun x => x.id == c
/-- A job. -/
def State.job? (s : State) (j : Nat) : Option Job := s.jobs.find? fun x => x.uid == j
/-- A gang. -/
def State.gang? (s : State) (g : Nat) : Option Gang := s.gangs.find? fun x => x.uid == g

/-- A context of zeros: what the lookup of a context that is not resident yields. -/
def Context.blank (c : Nat) : Context :=
  { id := c, ttroot := 0, seed := 0, savePool := 0, saveSz := 0, qaBase := 0, qaSize := 0, wsBase := 0, wsSize := 0
    nmBase := 0, nmSize := 0, fragMode := false, poisonTrap := false, fixed := false, podTag := 0, tensors := []
    faultSeq := 0, heldFaults := [], sleepers := [], areas := [], gathers := [], aborted := [] }

/-- The record of a context. -/
def State.ctx (s : State) (c : Nat) : Context := (s.ctx? c).getD (Context.blank c)

/-- A core that nothing has touched since reset. -/
def Core.blank (i : Nat) : Core :=
  { idx := i, dq := [], dqWaits := 0, wbuf := [], pslots := [], away := [], saved := [], promise := 0
    view := { floor := 0, marks := [] }, tlb := [], walks := [], icache := [], runTime := Vector.replicate 5 0, front := none }

/-- A core (R20); cores that nothing has touched since reset are not listed. -/
def State.core (s : State) (i : Nat) : Core := (s.cores.find? fun x => x.idx == i).getD (Core.blank i)

/-- A core replaced. -/
def State.setCore (s : State) (c : Core) : State := { s with cores := upsert (fun x => x.idx == c.idx) c s.cores }

/-- A context replaced. -/
def State.setCtx (s : State) (c : Context) : State :=
  { s with contexts := replaceFirst (fun x => x.id == c.id) c s.contexts }

/-- A job replaced. -/
def State.setJob (s : State) (j : Job) : State := { s with jobs := replaceFirst (fun x => x.uid == j.uid) j s.jobs }

/-- A gang replaced. -/
def State.setGang (s : State) (g : Gang) : State := { s with gangs := replaceFirst (fun x => x.uid == g.uid) g s.gangs }

/-- The n-th free choice (R23; notes/assumptions/5.md). -/
def State.pick (s : State) : State × Nat := ({ s with choices := s.choices + 1 }, Config.freeNat s.choices)
/-- A free choice between two outcomes. -/
def State.toss (s : State) : State × Bool := ({ s with choices := s.choices + 1 }, Config.freeBool s.choices)

/-! ## Event counters (R313) -/

/-- n events of a source happen on a cluster, for a context where they have one: the counters that count them advance. -/
def State.count (s : State) (cluster : Nat) (ctx : Option Nat) (source n : Nat) : State :=
  { s with evCounters := s.evCounters.map fun c =>
      if c.enable && c.cluster == cluster && c.source.toNat == source && (c.allCtx || ctx == some c.ctx) then
        { c with count := c.count + BitVec.ofNat 64 n }
      else c }

/-! ## Pages (R165) -/

/-- A translated page: its virtual address, size, physical address and TARGET, its protection, whether its lines may be held
compressed, the module that PEER names, and the key of its first byte where that module is another one (R165). -/
structure Page where
  va     : Nat
  size   : Nat
  pa     : Nat
  key    : Nat
  w      : Bool
  x      : Bool
  cmpr   : Bool
  target : Nat
  peer   : Nat
  deriving DecidableEq, Repr

/-- The page that a leaf maps (R165). -/
def pageOf (va size : Nat) (pte : DWord) : Page :=
  let p := pte.toNat
  let pa := bitsOf p 51 8 * 256
  let t := bitsOf p 5 4
  let dev := bitsOf p 61 52
  { va := va, size := size, pa := pa, w := bitOf p 2, x := bitOf p 3, cmpr := bitOf p 6, target := t, peer := dev
    key := if t = 0 then pa else if t = 1 then hostKey pa else peerKey dev pa }

/-- The key of a byte of a page: in this module's own memory where PEER names this module (R165, R195). -/
def State.keyAt (s : State) (p : Page) (off : Nat) : Nat :=
  if p.target = 2 ∧ p.peer = s.devid.toNat then p.pa + off else p.key + off

/-- The levels of the table: shift of the index, index bits, page size of a leaf where a leaf may stand (R164). -/
def levels : List (Nat × Nat × Option Nat) :=
  [(41, 15, none), (26, 15, some 26), (21, 5, some 21), (15, 6, some 15)]

/-- An entry that keeps the format of R165 at a level; a page that a peer holds in its GDDR is GDDR-backed too, and an entry with
PEER not zero where TARGET is not 10 is malformed (R165, R179; notes/assumptions/86.md). -/
def pteOk (pte : Nat) (leafBits : Option Nat) (last : Bool) : Bool :=
  let leaf := bitOf pte 1
  let target := bitsOf pte 5 4
  let pa := bitsOf pte 51 8 * 256
  bitsOf pte 63 62 == 0 && !bitOf pte 7 && target != 3 && (target == 2 || bitsOf pte 61 52 == 0) &&
  (match leaf, leafBits with
   | true, none => false
   | true, some b => pa % 2 ^ b == 0
   | false, _ => !last) &&
  (!bitOf pte 6 || ((target == 0 || target == 2) && isGddr pa))

/-- The pages that a context maps, from its tables: (first virtual address, page). -/
def tableLeaves (rd : Nat → Nat) (m : List Host.Cell) : List (Nat × Nat × Option Nat) → Nat → Nat → List Page
  | [], _, _ => []
  | (sh, ib, lb) :: r, table, va0 =>
    let lo := table
    let hi := table + 8 * 2 ^ ib
    let slots := ((m.filter fun c => decide (lo ≤ c.1) && decide (c.1 < hi)).map fun c => (c.1 - lo) / 8).eraseDups
    (slots.map fun i =>
      let pte := rd (table + 8 * i)
      let va := va0 + i * 2 ^ sh
      if !bitOf pte 0 || !pteOk pte lb r.isEmpty then []
      else if bitOf pte 1 then
        match lb with
        | some b => [pageOf va (2 ^ b) (BitVec.ofNat 64 pte)]
        | none => []
      else tableLeaves rd m r (bitsOf pte 51 8 * 256) va).flatten

/-! ## Migrations in progress (R179) -/

/-- The byte at the destination of a migration that is written with a byte at its source: that of a line that has moved
(R179). -/
def Migration.twin (m : Migration) (key : Nat) : Option Nat :=
  if decide (m.src ≤ key) && decide (key < m.src + m.size) && m.moved.contains ((key - m.src) / 128) then
    some (m.dst + (key - m.src))
  else none

/-- Lines, and beside them their copies where they are moved lines of a page in flight: what is written together (R179). -/
def State.alike (s : State) (lines : List Nat) : List Nat :=
  lines ++ (s.migrations.map fun m => lines.filterMap fun l => (m.twin (l * 128)).map lineOf).flatten

/-- A byte of the n bytes at a key lies in a line of a page in flight that has not moved: a write or an atomic stalls (R179). -/
def State.inFlightAt (s : State) (key n : Nat) : Bool :=
  s.migrations.any fun m =>
    (List.range n).any fun i =>
      decide (m.src ≤ key + i) && decide (key + i < m.src + m.size) && !m.moved.contains ((key + i - m.src) / 128)

/-- A reserved byte of the Quay area of a resident context: a write to it is discarded (R300). -/
def State.quayHole (s : State) (key : Nat) : Bool :=
  s.contexts.any fun c =>
    let b := quayKey (c.qaBase * 4096)
    (decide (b + 0x200 ≤ key) && decide (key < b + 0x600)) || (decide (b + 0xE00 ≤ key) && decide (key < b + 0x1000))

/-! ## Homes, views and poison -/

/-- The marker bytes that a poisoned line reads as (R180). -/
def markerByte (key : Nat) : Byte := BitVec.ofNat 8 (0xFFF8DEAD >>> (8 * (key % 4)))

/-- The tag that the metadata region holds for a line; a line without one is held as it is stored (R175, R176). -/
def State.tagOf (s : State) (line : Nat) : Nat := ((s.tags.find? fun t => t.1 == line).map (·.2)).getD 0

/-- The line of a key is poisoned: it is marked, or its tag is a reserved one (R176, R180). -/
def State.poisonAt (s : State) (key : Nat) : Bool :=
  s.poisoned.contains (lineOf key) || tagReserved (s.tagOf (lineOf key))

/-- The first poisoned byte among the n bytes at a key. -/
def State.firstPoison (s : State) (key n : Nat) : Option Nat :=
  ((List.range n).map (key + ·)).find? fun k => s.poisonAt k

/-- The bytes at their home, a poisoned line as the marker (R180, R194). -/
def State.readHome (s : State) (key n : Nat) : List Byte :=
  (List.range n).map fun i => if s.poisonAt (key + i) then markerByte (key + i) else cellGet s.mem (key + i)

/-- A number of n bytes read at a home. -/
def State.homeNat (s : State) (key n : Nat) : Nat := leNat (s.readHome key n)

/-- A store covers a byte. -/
def HomeStore.covers (h : HomeStore) (key : Nat) : Bool := h.cells.any fun c => c.1 == key

/-- The latest store numbered at most a bound that covers a byte. -/
def latestStore (hs : List HomeStore) (key bound : Nat) : Option HomeStore :=
  hs.find? fun h => decide (h.seq ≤ bound) && h.covers key

/-- What a store wrote to a byte. -/
def HomeStore.byte (h : HomeStore) (key : Nat) : Byte := ((h.cells.find? fun c => c.1 == key).map (·.2)).getD 0

/-- The bound of a view at a byte: the latest store it may show there. -/
def View.bound (v : View) (key : Nat) : Nat :=
  max v.floor (((v.marks.find? fun m => m.1 == key).map (·.2)).getD 0)

/-- A view set to a store at a byte, where that moves the view later (R197). -/
def View.mark (v : View) (key seq : Nat) : View :=
  if seq ≤ v.bound key then v else { v with marks := upsert (fun m => m.1 == key) (key, seq) v.marks }

/-- A view set to a store over its bytes of viewed memory, and to its release set where it is cumulative (R197). -/
def View.see (v : View) (h : HomeStore) : View :=
  let v1 := h.cells.foldl (fun v x => if viewed x.1 then v.mark x.1 h.seq else v) v
  { v1 with floor := max v1.floor (h.rel - 1) }

/-- A view with every store numbered below a bound (R200). -/
def View.raise (v : View) (rel : Nat) : View := { v with floor := max v.floor (rel - 1) }

/-- The byte as a core's view has it: the store the view has reached, or the initial value (R194). -/
def State.viewByte (s : State) (core key : Nat) : Byte :=
  match latestStore s.homes key ((s.core core).view.bound key) with
  | some h => h.byte key
  | none => (tabGet s.memInit key).getD (cellGet s.mem key)

/-- The bytes as a core's view has them; a poisoned line reads as the marker. -/
def State.readView (s : State) (core key n : Nat) : List Byte :=
  (List.range n).map fun i => if s.poisonAt (key + i) then markerByte (key + i) else s.viewByte core (key + i)

/-- The view of a core set to a store over its bytes, and to its release set where it is cumulative (R197). -/
def State.propagate (s : State) (core : Nat) (h : HomeStore) : State :=
  let c := s.core core
  s.setCore { c with view := c.view.see h }

/-- The view of a core set, for each of some bytes, to the store that a read at the home finds there: to all bytes of that store
together, and to its release set (R196, R197, R198). -/
def State.viewAt (s : State) (core : Nat) (keys : List Nat) : State :=
  let c := s.core core
  let v := keys.foldl (fun v k =>
    match latestStore s.homes k s.nextSeq with
    | some h => v.see h
    | none => v) c.view
  s.setCore { c with view := v }

/-- The view of a core set for each of n bytes from one on. -/
def State.viewHome (s : State) (core key n : Nat) : State := s.viewAt core ((List.range n).map (key + ·))

/-- Every view of a core set to the latest store at each home (R201). -/
def State.catchUp (s : State) (core : Nat) : State :=
  let c := s.core core
  s.setCore { c with view := { floor := s.nextSeq - 1, marks := [] } }

/-- The lines of a list of bytes that a store writes whole. -/
def wholeLines (key : Nat) (n : Nat) : List Nat :=
  ((List.range (n / 128 + 2)).map (key / 128 + ·)).filter fun l =>
    decide (key ≤ l * 128) && decide (l * 128 + 128 ≤ key + n)

/-- A completion counter has reached a value: the COUNT of the slot of an index (R33, R41). -/
def State.depHolds (s : State) (ctx idx : Nat) (v : DWord) : Bool :=
  decide (v.toNat ≤ leNat (s.readHome (quayKey ((s.ctx ctx).qaBase * 4096 + 16 * idx)) 8))

/-- WAITING jobs whose dependences hold become ACTIVE (R32, R41). -/
def State.recheck (s : State) : State :=
  { s with jobs := s.jobs.map fun j =>
      if j.state = .waiting && j.deps.all (fun d => s.depHolds j.ctx d.1 d.2) then { j with state := .active } else j }

/-! ## Stores at their homes -/

/-- A line of GDDR, of this module or of a peer, that a page of some resident context, or the page that a migration fills, allows
to be held compressed (R175, R177, R179). -/
def State.compressible (s : State) (key : Nat) : Bool :=
  inGddr key &&
  ((s.migrations.any fun m => bitOf m.newPte.toNat 6 && decide (m.dst ≤ key) && decide (key < m.dst + m.size)) ||
   s.contexts.any fun c =>
    (tableLeaves (fun a => s.homeNat a 8) s.mem levels c.ttroot.toNat 0).any fun p =>
      p.cmpr && decide (s.keyAt p 0 ≤ key) && decide (key < s.keyAt p 0 + p.size))

/-- A line stored in an encoding. -/
def State.setTag (s : State) (line tag : Nat) : State :=
  { s with tags := if tag = 0 then s.tags.filter fun t => t.1 != line else upsert (fun t => t.1 == line) (line, tag) s.tags }

/-- The lines of n bytes at a key. -/
def linesOf (key n : Nat) : List Nat := if n = 0 then [] else (List.range (lineOf (key + n - 1) + 1 - lineOf key)).map (lineOf key + ·)

/-- The controller stores the lines of n written bytes anew: a line that may be held compressed in its best encoding (R177,
R178), another as it is; a line that a reserved tag poisons keeps its tag (R176, R181). -/
def State.recompress (s : State) (key n : Nat) : State :=
  if !inGddr key then s else
  (linesOf key n).foldl (fun s l =>
    if tagReserved (s.tagOf l) then s
    else s.setTag l (if s.compressible (l * 128) then bestTag (cellsGet s.mem (l * 128) 128) else 0)) s

/-- Bytes put in place outside every coherence order: every view and the host have them from now on. -/
def State.rawPut (s : State) (key : Nat) (bytes : List Byte) : State :=
  if !stored key then s else
  let out (c : Host.Cell) : Bool := decide (c.1 < key) || decide (key + bytes.length ≤ c.1)
  { s with mem := cellsPut s.mem key bytes, memInit := s.memInit.filter out, hostCopy := s.hostCopy.filter out
           homes := s.homes.map fun (h : HomeStore) => { h with cells := h.cells.filter out } }

/-- Bytes stored at the source of a migration are written at its destination too, where their line has moved, and stored there in
their encoding (R177, R178, R179). -/
def State.mirror (s : State) (key : Nat) (bytes : List Byte) : State :=
  s.migrations.foldl (fun s m =>
    let s1 := (List.range bytes.length).foldl (fun s i => match m.twin (key + i) with
      | some k => s.rawPut k [bytes.getD i 0]
      | none => s) s
    ((linesOf key bytes.length).filterMap fun l => m.twin (l * 128)).foldl (fun s k => s.recompress k 1) s1) s

/-- A store appended to the coherence order of its bytes (R194). -/
def State.append (s : State) (h : HomeStore) : State := { s with homes := h :: s.homes, nextSeq := s.nextSeq + 1 }

/-- Lines that a store has written whole are poisoned no longer, nor their copies in a page in flight (R179, R181). -/
def State.clearPoison (s : State) (lines : List Nat) : State :=
  let lines := s.alike lines
  { s with poisoned := s.poisoned.filter fun l => !lines.contains l
           tags := s.tags.filter fun t => !(lines.contains t.1 && tagReserved t.2) }

/-- Bytes stored at their home as one step: appended to the coherence order (R194, R196, R197), the view of the issuing core
set, the mark of a poisoned line cleared where the store writes it whole (R181), lines stored in their encoding (R177, R178).
`rel` is the bound of the release set. -/
def State.storeHome (s : State) (core : Option Nat) (key : Nat) (bytes : List Byte) (rel : Nat) : State :=
  if bytes.isEmpty || !stored key then s else
  let s1 := (s.clearPoison (wholeLines key bytes.length)).mirror key bytes
  let h : HomeStore :=
    { seq := s.nextSeq, cells := (List.range bytes.length).map fun i => (key + i, bytes.getD i 0), rel := rel }
  if viewed key then
    let init := h.cells.foldl (fun t c => match tabGet t c.1 with
      | some _ => t
      | none => tabPut t c.1 (cellGet s1.mem c.1)) s1.memInit
    let s2 := ({ s1 with mem := cellsPut s1.mem key bytes, memInit := init } : State).append h
    let s3 := s2.recompress key bytes.length
    match core with
    | some c => s3.propagate c { h with rel := 0 }
    | none => s3
  else
    let s2 := s1.append h
    if key / 2 ^ 60 = 1 then ({ s2 with mem := cellsPutIf (fun k => !s.quayHole k) s1.mem key bytes } : State).recheck
    else { s2 with mem := cellsPut s1.mem key bytes }

/-- A line marked poisoned (R180, R181). -/
def State.poison (s : State) (key : Nat) : State :=
  if s.poisonAt key then s else { s with poisoned := lineOf key :: s.poisoned }

/-- A line that a copy has written from a poisoned one marked, and its copy in a page in flight (R179, R181). -/
def State.poisonLine (s : State) (line : Nat) : State := (s.alike [line]).foldl (fun s l => s.poison (l * 128)) s

/-- A number of n bytes stored at a home by no core. -/
def State.storeNat (s : State) (key n v : Nat) : State := s.storeHome none key (leBytes n v) 0

/-! ## Translation (R164-R166) -/

/-- What a walk finds: a page, or PAGE. -/
inductive Walk where
  | page (base size : Nat) (pte : DWord)
  | fault
  deriving DecidableEq, Repr

/-- The walk from a table, at the homes that `rd` reads (R164, R165). Tables stand in device memory. -/
def walkFrom (rd : Nat → Nat) (va : Nat) : List (Nat × Nat × Option Nat) → Nat → Walk
  | [], _ => .fault
  | (sh, ib, lb) :: r, table =>
    let at' := table + 8 * ((va >>> sh) % 2 ^ ib)
    if !deviceExists at' then .fault else
    let pte := rd at'
    if !bitOf pte 0 then .fault
    else if !pteOk pte lb r.isEmpty then .fault
    else if bitOf pte 1 then
      match lb with
      | some b => .page ((va >>> b) <<< b) (2 ^ b) (BitVec.ofNat 64 pte)
      | none => .fault
    else walkFrom rd va r (bitsOf pte 51 8 * 256)

/-- The walk of the tables of a context of this module. -/
def State.walk (s : State) (root va : Nat) : Walk := walkFrom (fun a => s.homeNat a 8) va levels root

/-- The walk of the tables of a context of a peer module. -/
def State.walkPeer (s : State) (dev root va : Nat) : Walk := walkFrom (fun a => s.homeNat (peerKey dev a) 8) va levels root

/-- A table entry read by a walker: a device-scope acquire load at its home (R164). -/
def State.readPte (s : State) (core at' : Nat) : State × Nat := (s.viewHome core at' 8, s.homeNat at' 8)

/-- A valid entry that names a further table, put into a walk cache that holds none for its place (R166). -/
def State.cacheWalk (s : State) (core : Nat) (e : WalkEntry) : State :=
  let c := s.core core
  if c.walks.any fun x => x.ctx == e.ctx && x.sh == e.sh && x.tag == e.tag then s
  else s.setCore { c with walks := e :: c.walks }

/-- The walk of a core's walker from a table on (R164-R166). Where its walk cache holds another entry than the table does,
either is used, whole. -/
def State.walkVia (s : State) (core ctx va : Nat) : List (Nat × Nat × Option Nat) → Nat → State × Walk
  | [], _ => (s, .fault)
  | (sh, ib, lb) :: r, table =>
    let at' := table + 8 * ((va >>> sh) % 2 ^ ib)
    if !deviceExists at' then (s, .fault) else
    let old := (s.core core).walks.find? fun x => x.ctx == ctx && x.sh == sh && x.tag == va >>> sh
    let (s1, cached) : State × Option Nat := match old with
      | none => (s, none)
      | some e => if e.pte.toNat = s.homeNat at' 8 then (s, none) else
        let (s1, o) := s.toss
        (s1, if o then some e.pte.toNat else none)
    let (s2, pte) := match cached with
      | some v => (s1, v)
      | none => s1.readPte core at'
    if !bitOf pte 0 then (s2, .fault)
    else if !pteOk pte lb r.isEmpty then (s2, .fault)
    else if bitOf pte 1 then
      match lb with
      | some b => (s2, .page ((va >>> b) <<< b) (2 ^ b) (BitVec.ofNat 64 pte))
      | none => (s2, .fault)
    else
      (s2.cacheWalk core ⟨ctx, sh, va >>> sh, BitVec.ofNat 64 pte⟩).walkVia core ctx va r (bitsOf pte 51 8 * 256)

/-- A translation put into a TLB; where it is full, some entry leaves (R9). -/
def State.cacheTlb (s : State) (core : Nat) (e : TlbEntry) : State :=
  let c := s.core core
  if c.tlb.length < Config.tlbEntries then s.setCore { c with tlb := e :: c.tlb } else
  let (s1, n) := s.pick
  s1.setCore { s1.core core with tlb := e :: c.tlb.eraseIdx (n % Config.tlbEntries) }

/-- A translation that the TLB does not give: the walk, counted (R313); a page found is cached where `keep` says so. -/
def State.miss (s : State) (core ctx va : Nat) (keep : Bool) : State × Option Page :=
  let s1 := (s.count (core / 8) (some ctx) 7 1).count (core / 8) (some ctx) 8 1
  match s1.walkVia core ctx va levels (s.ctx ctx).ttroot.toNat with
  | (s2, .fault) => (s2, none)
  | (s2, .page b z pte) =>
    (if keep then s2.cacheTlb core { ctx := ctx, va := b, size := z, pte := pte } else s2, some (pageOf b z pte))

/-- The translation of an address of a context on a core: a cached entry and a fresh walk, where they differ, are both
allowed (R166; notes/assumptions/6.md). -/
def State.translate (s : State) (core ctx va : Nat) : State × Option Page :=
  match (s.core core).tlb.find? fun e => e.ctx == ctx && decide (e.va ≤ va) && decide (va < e.va + e.size) with
  | none => s.miss core ctx va true
  | some e =>
    if s.walk (s.ctx ctx).ttroot.toNat va = .page e.va e.size e.pte then (s, some (pageOf e.va e.size e.pte)) else
    let (s1, old) := s.toss
    if old then (s1, some (pageOf e.va e.size e.pte)) else s1.miss core ctx va false

/-- Bytes that a context may reach at a device address: near memory of its own allotment, and no save pool (R163, R279,
R317; notes/assumptions/87.md). -/
def State.ownMemory (s : State) (ctx a n : Nat) : Bool :=
  let c := s.ctx ctx
  let own : Bool := decide (2 ^ 31 ≤ a) ||
    (decide (c.nmBase * 2 ^ 21 ≤ a) && decide (a + n ≤ (c.nmBase + c.nmSize) * 2 ^ 21))
  own && s.contexts.all fun x => decide (a + n ≤ x.savePool.toNat) || decide (x.savePool.toNat + x.saveSz * 4096 ≤ a)

/-- The device id of a pod access names a module that the link map reaches, which may be this one (R161, R307). -/
def State.reaches (s : State) (id : Word) : Bool :=
  decide (id < 1024) &&
    (id.setWidth 10 == s.devid || s.routes.any fun r => r.1 == id.toNat && r.2 != 0)

/-- An access of a context to n bytes of a page may be made: the memory is its own, or the link map reaches the module that
holds the page (R163, R307, R317; notes/assumptions/31.md, 87.md). -/
def State.pageOpen (s : State) (ctx : Nat) (p : Page) (off n : Nat) : Bool :=
  if p.target = 1 then true
  else if p.target = 2 ∧ p.peer ≠ s.devid.toNat then s.reaches (BitVec.ofNat 32 p.peer)
  else s.ownMemory ctx (p.pa + off) n

/-- The pages of device memory that a context maps: its viewed memory (R197). -/
def State.ctxPages (s : State) (ctx : Nat) : List Page :=
  (tableLeaves (fun a => s.homeNat a 8) s.mem levels (s.ctx ctx).ttroot.toNat 0).filter fun p => p.target == 0

/-- A byte of viewed memory of a context. -/
def inPages (ps : List Page) (key : Nat) : Bool := ps.any fun p => decide (p.key ≤ key) && decide (key < p.key + p.size)

/-! ## Export and Import (R197, R207) -/

/-- Export: the host copy of every byte of viewed memory of the context takes the latest value at the home. -/
def State.exportStep (s : State) (ctx : Nat) : State :=
  let ps := s.ctxPages ctx
  let keys := ((s.homes.map fun h => h.cells.map (·.1)).flatten.eraseDups).filter fun k => inPages ps k
  { s with hostCopy := keys.foldl (fun t k => tabPut t k (cellGet s.mem k)) s.hostCopy }

/-- Import: every pending host write, in the order in which it landed, is appended at its home; the host copy keeps what the
host wrote (notes/assumptions/85.md). -/
def State.importStep (s : State) (core : Option Nat) : State :=
  s.pending.foldl (fun s w =>
    match w with
    | [] => s
    | c :: _ => s.storeHome core c.1 (w.map (·.2)) 0)
    { s with pending := [], hostCopy := s.pending.flatten.foldl (fun t c => tabPut t c.1 c.2) s.hostCopy }

/-- A host write that has not been imported would write a line of a page in flight that has not moved: an Import step waits
(R179). -/
def State.importStalls (s : State) : Bool := s.pending.any fun w => w.any fun c => s.inFlightAt c.1 1

/-- The byte that a host read of viewed memory returns: the latest pending write, else the exported value, else the initial
value (R194, R207). -/
def State.hostByte (s : State) (key : Nat) : Byte :=
  match s.pending.reverse.findSome? fun w => (w.find? fun c => c.1 == key).map (·.2) with
  | some b => b
  | none => (tabGet s.hostCopy key).getD ((tabGet s.memInit key).getD (cellGet s.mem key))

end Sys2Proof.Machine
end

