-- ==== Sys2Proof/Machine/Float.lean ====
section
/-!
DEFINITION. Floating-point values and arithmetic (R135-R154, R391, R392): every result is the exact value rounded once, with
the flags of R146. Values are bit patterns as natural numbers.
-/
namespace Sys2Proof.Machine

open Sys2Proof

/-- A floating format (R135): width, fraction bits, bias, and whether it is e4m3, which has no infinity. -/
structure Fmt where
  width : Nat
  mb    : Nat
  bias  : Nat
  e4m3  : Bool
  deriving DecidableEq, Repr

/-- The format of a type (R135); types that are no floating types have none and yield that of f32. -/
def fmtOf : Ty → Fmt
  | .f64 => ⟨64, 52, 1023, false⟩
  | .f16 => ⟨16, 10, 15, false⟩
  | .bf16 => ⟨16, 7, 127, false⟩
  | .e5m2 => ⟨8, 2, 15, false⟩
  | .e4m3 => ⟨8, 3, 7, true⟩
  | _ => ⟨32, 23, 127, false⟩

/-- The flags of one lane: IV, DZ, OF, UF, NX in bits 4 to 0 (R146). -/
abbrev FFlags := BitVec 5
def fIV : FFlags := 16
def fDZ : FFlags := 8
def fOF : FFlags := 4
def fUF : FFlags := 2
def fNX : FFlags := 1

/-- A value: NaN, infinity, or (−1)^neg × m × 2^e. -/
inductive FVal where
  | nan
  | inf (neg : Bool)
  | fin (neg : Bool) (m : Nat) (e : Int)
  deriving DecidableEq, Repr

def Fmt.signBit (f : Fmt) : Nat := 2 ^ (f.width - 1)
/-- The exponent field of all ones, in place (R135). -/
def Fmt.expMask (f : Fmt) : Nat := 2 ^ (f.width - 1) - 2 ^ f.mb
/-- The largest finite magnitude as a bit pattern (R135). -/
def Fmt.maxFin (f : Fmt) : Nat := if f.e4m3 then 0x7E else f.expMask - 1
/-- What an infinite magnitude is: infinity, or NaN in e4m3 (R144, R152). -/
def Fmt.infBits (f : Fmt) : Nat := if f.e4m3 then 0x7F else f.expMask
/-- The default NaN (R137). -/
def Fmt.defNan (f : Fmt) : Nat := if f.e4m3 then 0x7F else f.expMask + 2 ^ (f.mb - 1)
/-- A sign bit in place. -/
def Fmt.sgnBit (f : Fmt) (neg : Bool) : Nat := if neg then f.signBit else 0

def Fmt.neg (f : Fmt) (v : Nat) : Bool := decide (v % 2 ^ f.width ≥ f.signBit)
/-- The magnitude of a bit pattern. -/
def Fmt.mag (f : Fmt) (v : Nat) : Nat := v % f.signBit
def Fmt.isNan (f : Fmt) (v : Nat) : Bool := if f.e4m3 then f.mag v == 0x7F else decide (f.mag v > f.expMask)
def Fmt.isInf (f : Fmt) (v : Nat) : Bool := !f.e4m3 && f.mag v == f.expMask
/-- A signalling NaN: quiet bit 0; no e4m3 NaN is one (R137). -/
def Fmt.isSnan (f : Fmt) (v : Nat) : Bool := f.isNan v && !f.e4m3 && !(f.mag v).testBit (f.mb - 1)
/-- A NaN with its quiet bit set (R138). -/
def Fmt.quiet (f : Fmt) (v : Nat) : Nat :=
  if f.e4m3 || (f.mag v).testBit (f.mb - 1) then v % 2 ^ f.width else v % 2 ^ f.width + 2 ^ (f.mb - 1)
def Fmt.isSub (f : Fmt) (v : Nat) : Bool := decide (0 < f.mag v) && decide (f.mag v < 2 ^ f.mb)
def Fmt.isZero (f : Fmt) (v : Nat) : Bool := f.mag v == 0

/-- The value of a bit pattern (R135). -/
def Fmt.val (f : Fmt) (v : Nat) : FVal :=
  if f.isNan v then .nan
  else if f.isInf v then .inf (f.neg v)
  else
    let e := f.mag v / 2 ^ f.mb
    let fr := f.mag v % 2 ^ f.mb
    if e = 0 then .fin (f.neg v) fr (1 - (f.bias : Int) - f.mb)
    else .fin (f.neg v) (fr + 2 ^ f.mb) (e - f.bias - f.mb)

/-- The low bits of a natural number, and whether any is set, at a rounding: m × 2^e to the multiple of 2^q below, with the
remainder, and one step up where the rounding says so (R143, R154). The result is the multiple and whether it is exact. -/
def roundAt (rnd : Rnd) (neg : Bool) (m : Nat) (e q : Int) (r : Nat) : Nat × Bool :=
  if q ≤ e then (m <<< (e - q).toNat, true)
  else
    let sh := (q - e).toNat
    let lo := m >>> sh
    let rem := m % 2 ^ sh
    let up := match rnd with
      | .ne => decide (2 * rem > 2 ^ sh) || (decide (2 * rem = 2 ^ sh) && lo % 2 == 1)
      | .tz => false
      | .up => decide (rem > 0) && !neg
      | .dn => decide (rem > 0) && neg
      | .sto => decide (r * 2 ^ sh < rem * 2 ^ 32)
    (if up then lo + 1 else lo, rem == 0)

/-- How a rounding is performed: the rounding, FZOUT, `.sat`, and the random word of a lane. -/
structure RndMode where
  rnd : Rnd
  fz  : Bool
  sat : Bool
  r   : Nat
  deriving DecidableEq, Repr

/-- Nearest-even without flushing. -/
def rne : RndMode := ⟨.ne, false, false, 0⟩

/-- An overflow (R144). -/
def overflowBits (f : Fmt) (md : RndMode) (neg : Bool) : Nat :=
  f.sgnBit neg + (if md.sat then f.maxFin else
    match md.rnd with
    | .ne | .sto => f.infBits
    | .tz => f.maxFin
    | .up => if neg then f.maxFin else f.infBits
    | .dn => if neg then f.infBits else f.maxFin)

/-- A non-zero value m × 2^e, or with `sticky` one strictly between m × 2^e and (m + 1) × 2^e, rounded once into a format
(R143-R147). With `sticky`, m has at least three bits more than the format's precision. -/
def roundBits (f : Fmt) (md : RndMode) (neg : Bool) (m0 : Nat) (e0 : Int) (sticky : Bool) : Nat × FFlags :=
  let m := if sticky then 4 * m0 + 1 else m0
  let e := if sticky then e0 - 2 else e0
  if m = 0 then (f.sgnBit neg, 0) else
  let top : Int := e + Nat.log2 m
  let emin : Int := 1 - (f.bias : Int)
  let q := max top emin - f.mb
  let (n, exact) := roundAt md.rnd neg m e q md.r
  let bits := n + ((q - (emin - f.mb)).toNat <<< f.mb)
  let nUnb := (roundAt md.rnd neg m e (top - f.mb) md.r).1
  let tiny := decide (top < emin) && !(top + 1 == emin && nUnb == 2 ^ (f.mb + 1))
  if bits > f.maxFin then (overflowBits f md neg, fOF ||| fNX)
  else if tiny && md.fz then (f.sgnBit neg, fUF ||| fNX)
  else (f.sgnBit neg + bits, if exact then 0 else if tiny then fUF ||| fNX else fNX)

/-- A subnormal input read as zero under FZIN (R147). -/
def flushIn (f : Fmt) (fzin : Bool) (v : Nat) : Nat :=
  if fzin && f.isSub v then f.sgnBit (f.neg v) else v % 2 ^ f.width

/-- The result where an operand is a NaN (R138). -/
def nanResult (f : Fmt) (ops : List Nat) : Option (Nat × FFlags) :=
  match ops.find? f.isNan with
  | some v => some (f.quiet v, if ops.any f.isSnan then fIV else 0)
  | none => none

/-- An invalid operation (R138). -/
def invalid (f : Fmt) : Nat × FFlags := (f.defNan, fIV)

/-- The sign of an exact zero sum (R143). -/
def zeroSum (f : Fmt) (rnd : Rnd) (n1 n2 bothZero : Bool) : Nat :=
  if bothZero && n1 == n2 then f.sgnBit n1 else f.sgnBit (rnd == .dn)

/-- The exact sum of two finite values, rounded (R143). -/
def sumFin (f : Fmt) (md : RndMode) (n1 : Bool) (m1 : Nat) (e1 : Int) (n2 : Bool) (m2 : Nat) (e2 : Int) : Nat × FFlags :=
  let e := min e1 e2
  let a : Int := (m1 <<< (e1 - e).toNat : Nat)
  let b : Int := (m2 <<< (e2 - e).toNat : Nat)
  let v := (if n1 then -a else a) + (if n2 then -b else b)
  if v = 0 then (zeroSum f md.rnd n1 n2 (m1 == 0 && m2 == 0), 0)
  else roundBits f md (decide (v < 0)) v.natAbs e false

/-- Addition of values (R138, R143). -/
def addVal (f : Fmt) (md : RndMode) : FVal → FVal → Nat × FFlags
  | .inf n1, .inf n2 => if n1 == n2 then (f.sgnBit n1 + f.infBits, 0) else invalid f
  | .inf n1, _ => (f.sgnBit n1 + f.infBits, 0)
  | _, .inf n2 => (f.sgnBit n2 + f.infBits, 0)
  | .fin n1 m1 e1, .fin n2 m2 e2 => sumFin f md n1 m1 e1 n2 m2 e2
  | _, _ => (f.defNan, 0)

/-- The exact product of two values, 0 × ∞ being none. -/
def mulVal : FVal → FVal → Option FVal
  | .inf n1, .inf n2 => some (.inf (n1 != n2))
  | .inf n1, .fin n2 m _ => if m = 0 then none else some (.inf (n1 != n2))
  | .fin n1 m _, .inf n2 => if m = 0 then none else some (.inf (n1 != n2))
  | .fin n1 m1 e1, .fin n2 m2 e2 => some (.fin (n1 != n2) (m1 * m2) (e1 + e2))
  | _, _ => none

/-- A negated value. -/
def negVal : FVal → FVal
  | .nan => .nan
  | .inf n => .inf !n
  | .fin n m e => .fin (!n) m e

/-- Addition (R391). -/
def fAdd (f : Fmt) (md : RndMode) (fzin : Bool) (a0 b0 : Nat) : Nat × FFlags :=
  let a := flushIn f fzin a0; let b := flushIn f fzin b0
  match nanResult f [a, b] with
  | some x => x
  | none => addVal f md (f.val a) (f.val b)

/-- Subtraction (R391). -/
def fSub (f : Fmt) (md : RndMode) (fzin : Bool) (a0 b0 : Nat) : Nat × FFlags :=
  let a := flushIn f fzin a0; let b := flushIn f fzin b0
  match nanResult f [a, b] with
  | some x => x
  | none => addVal f md (f.val a) (negVal (f.val b))

/-- A value rounded, an exact zero keeping its sign. -/
def roundVal (f : Fmt) (md : RndMode) : FVal → Nat × FFlags
  | .nan => (f.defNan, 0)
  | .inf n => (f.sgnBit n + f.infBits, 0)
  | .fin n m e => if m = 0 then (f.sgnBit n, 0) else roundBits f md n m e false

/-- Multiplication (R391). -/
def fMul (f : Fmt) (md : RndMode) (fzin : Bool) (a0 b0 : Nat) : Nat × FFlags :=
  let a := flushIn f fzin a0; let b := flushIn f fzin b0
  match nanResult f [a, b] with
  | some x => x
  | none => match mulVal (f.val a) (f.val b) with
    | none => invalid f
    | some v => roundVal f md v

/-- a × b + c, rounded once (R391). -/
def fMad (f : Fmt) (md : RndMode) (fzin : Bool) (a0 b0 c0 : Nat) : Nat × FFlags :=
  let a := flushIn f fzin a0; let b := flushIn f fzin b0; let c := flushIn f fzin c0
  match nanResult f [a, b, c] with
  | some x => x
  | none => match mulVal (f.val a) (f.val b) with
    | none => invalid f
    | some v => addVal f md v (f.val c)

/-- The quotient of two non-zero finite magnitudes, rounded. -/
def divFin (f : Fmt) (md : RndMode) (neg : Bool) (m1 : Nat) (e1 : Int) (m2 : Nat) (e2 : Int) : Nat × FFlags :=
  let k := f.mb + 8 + Nat.log2 m2 + 1
  let n := m1 <<< k
  roundBits f md neg (n / m2) (e1 - e2 - k) (n % m2 != 0)

/-- Division (R391). -/
def fDiv (f : Fmt) (md : RndMode) (fzin : Bool) (a0 b0 : Nat) : Nat × FFlags :=
  let a := flushIn f fzin a0; let b := flushIn f fzin b0
  match nanResult f [a, b] with
  | some x => x
  | none => match f.val a, f.val b with
    | .inf _, .inf _ => invalid f
    | .inf n1, .fin n2 _ _ => (f.sgnBit (n1 != n2) + f.infBits, 0)
    | .fin n1 _ _, .inf n2 => (f.sgnBit (n1 != n2), 0)
    | .fin n1 m1 e1, .fin n2 m2 e2 =>
      if m2 = 0 then (if m1 = 0 then invalid f else (f.sgnBit (n1 != n2) + f.infBits, fDZ))
      else if m1 = 0 then (f.sgnBit (n1 != n2), 0)
      else divFin f md (n1 != n2) m1 e1 m2 e2
    | _, _ => invalid f

/-- The order of two values that are no NaN: −1, 0 or 1. -/
def cmpVal : FVal → FVal → Int
  | .inf n1, .inf n2 => if n1 == n2 then 0 else if n1 then -1 else 1
  | .inf n1, _ => if n1 then -1 else 1
  | _, .inf n2 => if n2 then 1 else -1
  | .fin n1 m1 e1, .fin n2 m2 e2 =>
    let e := min e1 e2
    let a : Int := (m1 <<< (e1 - e).toNat : Nat)
    let b : Int := (m2 <<< (e2 - e).toNat : Nat)
    let d := (if n1 then -a else a) - (if n2 then -b else b)
    if d < 0 then -1 else if d = 0 then 0 else 1
  | _, _ => 0

/-- Minimum or maximum (R138, R391): one of the operands exactly. -/
def fMinMax (f : Fmt) (isMax fzin : Bool) (a0 b0 : Nat) : Nat × FFlags :=
  let a := flushIn f fzin a0; let b := flushIn f fzin b0
  let iv : FFlags := if f.isSnan a || f.isSnan b then fIV else 0
  match f.isNan a, f.isNan b with
  | true, true => (f.quiet a, iv)
  | true, false => (b, iv)
  | false, true => (a, iv)
  | false, false =>
    let c := cmpVal (f.val a) (f.val b)
    if c = 0 then
      (if f.isZero a && f.isZero b then f.sgnBit (if isMax then f.neg a && f.neg b else f.neg a || f.neg b) else a, 0)
    else if (decide (c < 0)) != isMax then (a, 0) else (b, 0)

/-- Comparison (R138, R393). -/
def fCmp (f : Fmt) (op : CmpOp) (fzin : Bool) (a0 b0 : Nat) : Bool × FFlags :=
  let a := flushIn f fzin a0; let b := flushIn f fzin b0
  if f.isNan a || f.isNan b then
    let sn : FFlags := if f.isSnan a || f.isSnan b then fIV else 0
    match op with
    | .eq => (false, sn) | .ne => (true, sn) | .uno => (true, sn) | .ord => (false, sn)
    | _ => (false, fIV)
  else
    let c := cmpVal (f.val a) (f.val b)
    (match op with
      | .eq => c == 0 | .ne => c != 0 | .lt => decide (c < 0) | .le => decide (c ≤ 0) | .gt => decide (c > 0)
      | .ge => decide (c ≥ 0) | .uno => false | .ord => true, 0)

/-! ## The functions of R392 -/

/-- The integer square root by bits, from bit i down. -/
def isqrtFrom : Nat → Nat → Nat → Nat
  | 0, n, r => if (r + 1) * (r + 1) ≤ n then r + 1 else r
  | i + 1, n, r => isqrtFrom i n (if (r + 2 ^ (i + 1)) * (r + 2 ^ (i + 1)) ≤ n then r + 2 ^ (i + 1) else r)
/-- The integer square root. -/
def isqrt (n : Nat) : Nat := isqrtFrom (Nat.log2 n / 2 + 1) n 0

/-- The reciprocal (R392). -/
def fRcp (f : Fmt) (md : RndMode) (fzin : Bool) (a0 : Nat) : Nat × FFlags :=
  let a := flushIn f fzin a0
  match nanResult f [a] with
  | some x => x
  | none => match f.val a with
    | .inf n => (f.sgnBit n, 0)
    | .fin n m e => if m = 0 then (f.sgnBit n + f.infBits, fDZ) else divFin f md n 1 0 m e
    | .nan => invalid f

/-- The square root (R392). -/
def fSqrt (f : Fmt) (md : RndMode) (fzin : Bool) (a0 : Nat) : Nat × FFlags :=
  let a := flushIn f fzin a0
  match nanResult f [a] with
  | some x => x
  | none => match f.val a with
    | .inf true => invalid f
    | .inf false => (f.infBits, 0)
    | .fin n m e =>
      if m = 0 then (f.sgnBit n, 0) else if n then invalid f else
      let k := 2 * (f.mb + 8) + (e % 2).toNat
      let x := m <<< k
      let r := isqrt x
      roundBits f md false r ((e - k) / 2) (r * r != x)
    | .nan => invalid f

/-- The reciprocal of the square root (R392). -/
def fRsq (f : Fmt) (md : RndMode) (fzin : Bool) (a0 : Nat) : Nat × FFlags :=
  let a := flushIn f fzin a0
  match nanResult f [a] with
  | some x => x
  | none => match f.val a with
    | .inf true => invalid f
    | .inf false => (0, 0)
    | .fin n m e =>
      if m = 0 then (f.sgnBit n + f.infBits, fDZ) else if n then invalid f else
      let m1 := if e % 2 = 0 then m else 2 * m
      let e1 := if e % 2 = 0 then e else e - 1
      let k := f.mb + 8 + Nat.log2 m1 + 1
      let q := isqrt (2 ^ (2 * k) / m1)
      roundBits f md false q (-(k : Int) - e1 / 2) (q * q * m1 != 2 ^ (2 * k))
    | .nan => invalid f

/-- Fraction bits of the fixed-point bounds below. -/
def fxBits : Nat := 320
/-- ln 2 and π, the integers below them times 2^320. -/
def fxLn2 : Nat := 0xb17217f7d1cf79abc9e3b39803f2f6af40f343267298b62d8a0d175b8baafa2be7b876206debac98
def fxPi : Nat := 0x3243f6a8885a308d313198a2e03707344a4093822299f31d0082efa98ec4e6c89452821e638d01377

/-- A value that lies strictly between lo × 2^e and hi × 2^e, hi − lo > 1, rounded: where both ends round alike that is the
result; where they do not, a free choice between the two (notes/assumptions/8.md). `key` names the function and operand. -/
def roundBetween (f : Fmt) (md : RndMode) (neg : Bool) (lo hi : Nat) (e : Int) (key : Nat) (a : Nat) : Nat × FFlags :=
  let x := roundBits f md neg lo e true
  let y := roundBits f md neg (hi - 1) e true
  if x = y then x else if Config.hardRound key (BitVec.ofNat 64 a) then y else x

/-- The terms of the exponential series from term t on, in fixed point: the sum of x^k / k!. -/
def expSeries : Nat → Nat → Nat → Nat → Nat
  | 0, _, _, _ => 0
  | n + 1, k, t, x => t + expSeries n (k + 1) (t * x / ((k + 1) * 2 ^ fxBits)) x

/-- Twice-stepped alternating series of the sine: the sum of (−1)^k x^(2k+1) / (2k+1)!, as (positive part, negative part). -/
def sinSeries : Nat → Nat → Nat → Nat → Bool → Nat × Nat
  | 0, _, _, _, _ => (0, 0)
  | n + 1, k, t, x, pos =>
    let (p, q) := sinSeries n (k + 2) (t * x / 2 ^ fxBits * x / ((k + 1) * (k + 2) * 2 ^ fxBits)) x (!pos)
    if pos then (p + t, q) else (p, q + t)

/-- The terms of z^(2k) / (2k + 1), z = p / d, in fixed point. -/
def atanhSeries : Nat → Nat → Nat → Nat → Nat → Nat
  | 0, _, _, _, _ => 0
  | n + 1, k, t, p, d => t / k + atanhSeries n (k + 2) (t * p * p / (d * d)) p d

/-- 2^A (R392). -/
def fExp2 (f : Fmt) (md : RndMode) (fzin : Bool) (a0 : Nat) : Nat × FFlags :=
  let a := flushIn f fzin a0
  match nanResult f [a] with
  | some x => x
  | none => match f.val a with
    | .inf true => (0, 0)
    | .inf false => (f.infBits, 0)
    | .fin n m e =>
      let one := f.bias <<< f.mb
      if m = 0 then (one, 0)
      else if (Nat.log2 m : Int) + e > 20 then
        roundBits f md false 1 (if n then -(2 ^ 20) else 2 ^ 20) false
      else if e ≥ 0 then
        let v : Int := (m <<< e.toNat : Nat)
        roundBits f md false 1 (if n then -v else v) false
      else
        let den := 2 ^ (-e).toNat
        if m % den = 0 then roundBits f md false 1 (if n then -(m / den : Nat) else (m / den : Nat)) false
        else if (Nat.log2 m : Int) + e < -((f.mb : Int) + 10) then
          -- 1 plus or minus less than a quarter of the last place
          if n then roundBits f md false (2 ^ (f.mb + 8) - 1) (-((f.mb : Int) + 8)) true
          else roundBits f md false (2 ^ (f.mb + 8)) (-((f.mb : Int) + 8)) true
        else
          let s : Int := if n then -(m : Int) else m
          let k := s / (den : Int)
          let fr := (s - k * den).toNat
          let x := fr * fxLn2 / den
          let sum := expSeries 80 0 (2 ^ fxBits) x
          roundBetween f md false sum (sum + 1024) (k - fxBits) 0 a
    | .nan => invalid f

/-- log2 A (R392). -/
def fLog2 (f : Fmt) (md : RndMode) (fzin : Bool) (a0 : Nat) : Nat × FFlags :=
  let a := flushIn f fzin a0
  match nanResult f [a] with
  | some x => x
  | none => match f.val a with
    | .inf true => invalid f
    | .inf false => (f.infBits, 0)
    | .fin n m e =>
      if m = 0 then (f.sgnBit true + f.infBits, fDZ) else if n then invalid f else
      let t := Nat.log2 m
      if m = 2 ^ t then
        let v : Int := e + t
        if v = 0 then (0, 0) else roundBits f md (decide (v < 0)) v.natAbs 0 false
      else
        -- A = (m / 2^t') × 2^(e + t'), with m / 2^t' between 1/√2 and √2
        let t1 := if m * m > 2 ^ (2 * t + 1) then t + 1 else t
        let ex : Int := e + t1
        let up := decide (m > 2 ^ t1)
        let p := if up then m - 2 ^ t1 else 2 ^ t1 - m
        let d := m + 2 ^ t1
        let s := atanhSeries 140 1 (2 ^ fxBits) p d
        -- |log2 (m / 2^t1)| = 2 (p / d) s / ln 2
        let g := fxBits + 64
        let lo := 2 * p * s * 2 ^ g / (d * (fxLn2 + 1))
        let hi := 2 * p * (s + 1024) * 2 ^ g / (d * fxLn2) + 2
        let q : Int := -(g : Int)
        if ex = 0 then roundBetween f md (!up) lo hi q 1 a
        else
          let whole := ex.natAbs * 2 ^ g
          if (decide (ex > 0)) == up then roundBetween f md (decide (ex < 0)) (whole + lo) (whole + hi) q 1 a
          else roundBetween f md (decide (ex < 0)) (whole - hi) (whole - lo) q 1 a
    | .nan => invalid f

/-- sin (π n / d) for 0 < n / d < 1/2, rounded with a sign. -/
def sinPi (f : Fmt) (md : RndMode) (neg : Bool) (n d : Nat) (key a : Nat) : Nat × FFlags :=
  if Nat.log2 n + 80 < Nat.log2 d then
    -- π r (1 − 2^−120) < sin π r < π r
    let g := Nat.log2 d + 200
    let hi := n * (fxPi + 1) * 2 ^ g / (d * 2 ^ fxBits) + 1
    let lo := n * fxPi * 2 ^ g / (d * 2 ^ fxBits)
    roundBetween f md neg (lo - lo / 2 ^ 120 - 1) hi (-(g : Int)) key a
  else
    let x := n * fxPi / d
    let (p, q) := sinSeries 45 1 x x true
    let v := p - q
    roundBetween f md neg (v - 1024) (min (v + 1024) (2 ^ fxBits)) (-(fxBits : Int)) key a

/-- sin (π n / d) for n / d reduced to [0, 2), never a multiple of 1/2. -/
def sinPi2 (f : Fmt) (md : RndMode) (neg : Bool) (n d : Nat) (key a : Nat) : Nat × FFlags :=
  let (neg1, n1) := if n ≥ d then (!neg, n - d) else (neg, n)
  let n2 := if 2 * n1 > d then d - n1 else n1
  sinPi f md neg1 n2 d key a

/-- ±1 in a format. -/
def oneBits (f : Fmt) (neg : Bool) : Nat := f.sgnBit neg + (f.bias <<< f.mb)

/-- sin (π A) (R392). -/
def fSin (f : Fmt) (md : RndMode) (fzin : Bool) (a0 : Nat) : Nat × FFlags :=
  let a := flushIn f fzin a0
  match nanResult f [a] with
  | some x => x
  | none => match f.val a with
    | .inf _ => invalid f
    | .fin n m e =>
      if m = 0 || decide (e ≥ 0) then (f.sgnBit n, 0) else
      let d := 2 ^ (-e).toNat
      if m % d = 0 then (f.sgnBit n, 0)
      else
        let r := m % (2 * d)
        if 2 * r % d = 0 then (oneBits f (n != decide (r > d)), 0)
        else sinPi2 f md n r d 2 a
    | .nan => invalid f

/-- cos (π A) (R392). -/
def fCos (f : Fmt) (md : RndMode) (fzin : Bool) (a0 : Nat) : Nat × FFlags :=
  let a := flushIn f fzin a0
  match nanResult f [a] with
  | some x => x
  | none => match f.val a with
    | .inf _ => invalid f
    | .fin _ m e =>
      if m = 0 then (oneBits f false, 0) else
      let d := 2 ^ (-e).toNat
      let mm := if e ≥ 0 then m <<< e.toNat else m
      if mm % d = 0 then (oneBits f (mm / d % 2 == 1), 0)
      else if 2 * mm % d = 0 then (0, 0)
      else
        -- cos π x = sin π (x + 1/2)
        sinPi2 f md false ((2 * mm + d) % (4 * d)) (2 * d) 3 a
    | .nan => invalid f

/-! ## Classes and conversions -/

/-- The class code of R139. -/
def fClass (f : Fmt) (v : Nat) : Nat :=
  if f.isSnan v then 1
  else if f.isNan v then 2
  else if f.isInf v then (if f.neg v then 4 else 512)
  else if f.isZero v then (if f.neg v then 32 else 64)
  else if f.isSub v then (if f.neg v then 16 else 128)
  else (if f.neg v then 8 else 256)

/-- A NaN moved between formats (R153). -/
def cvtNan (src dst : Fmt) (v : Nat) : Nat :=
  let s := dst.sgnBit (src.neg v)
  if dst.e4m3 then s + 0x7F else
  let fr := src.mag v % 2 ^ src.mb
  let fr1 := if dst.mb ≥ src.mb then fr <<< (dst.mb - src.mb) else fr >>> (src.mb - dst.mb)
  s + dst.expMask + (if fr1 = 0 then 1 else fr1)

/-- Float to float (R152): between different types of one width as to a narrower one (notes/assumptions/119.md), to the own type the
bits as they are, of an infinity with `.sat` too (notes/assumptions/120.md). -/
def cvtFF (src dst : Fmt) (md : RndMode) (v : Nat) : Nat × FFlags :=
  if src = dst then (v % 2 ^ src.width, 0)
  else match src.val v with
    | .nan => (cvtNan src dst v, 0)
    | .inf n =>
      if md.sat then (dst.sgnBit n + dst.maxFin, fOF ||| fNX)
      else (dst.sgnBit n + dst.infBits, if dst.e4m3 then fOF ||| fNX else 0)
    | .fin n m e => if m = 0 then (dst.sgnBit n, 0) else roundBits dst md n m e false

/-- The least and greatest value of an integer type. -/
def intMin (t : Ty) : Int := if tySigned t then -(2 ^ (tyBits t - 1)) else 0
def intMax (t : Ty) : Int := if tySigned t then 2 ^ (tyBits t - 1) - 1 else 2 ^ (tyBits t) - 1
/-- An integer clamped to a type. -/
def clampInt (t : Ty) (v : Int) : Int := max (intMin t) (min v (intMax t))

/-- Float to integer (R152). -/
def cvtFI (src : Fmt) (t : Ty) (md : RndMode) (v : Nat) : Nat × FFlags :=
  let w := tyBits t
  let oor : FFlags := if md.sat then fNX else fIV
  match src.val v with
  | .nan => (0, if md.sat then 0 else fIV)
  | .inf n => (lowBits w (if n then intMin t else intMax t), oor)
  | .fin n m e =>
    let (k, exact) := roundAt md.rnd n m e 0 0
    let x : Int := if n then -(k : Int) else k
    if x < intMin t ∨ intMax t < x then (lowBits w (clampInt t x), oor)
    else (lowBits w x, if exact then 0 else fNX)

/-- The value of an integer type. -/
def intVal (t : Ty) (v : Nat) : Int :=
  let w := tyBits t
  if tySigned t then sgn w (v % 2 ^ w) else (v % 2 ^ w : Nat)

/-- Integer to float (R152). -/
def cvtIF (t : Ty) (dst : Fmt) (md : RndMode) (v : Nat) : Nat × FFlags :=
  let x := intVal t v
  if x = 0 then (0, 0) else roundBits dst md (decide (x < 0)) x.natAbs 0 false

/-- Integer to integer (R152); to a wider integer of the other signedness `.sat` clamps (notes/assumptions/105.md). -/
def cvtII (src dst : Ty) (sat : Bool) (v : Nat) : Nat × FFlags :=
  let x := intVal src v
  (lowBits (tyBits dst) (if sat then clampInt dst x else x), 0)

/-- VCVT of one value (R151-R154). -/
def convert (dst src : Ty) (md : RndMode) (v : Nat) : Nat × FFlags :=
  match tyFloat src, tyFloat dst with
  | true, true => cvtFF (fmtOf src) (fmtOf dst) md v
  | true, false => cvtFI (fmtOf src) dst md v
  | false, true => cvtIF src (fmtOf dst) md v
  | false, false => cvtII src dst md.sat v

end Sys2Proof.Machine
end

