-- ==== Sys2Proof/Machine/Ops.lean ====
section
/-!
DEFINITION. The named operations over groups, registers, queues and runs: who issues, how registers are read and written
(R101-R108), how an instruction ends (R29, R52, R126), accesses and their checks (R158-R168), queue entries (R194-R204),
Sillage transfers (R109-R118), and taking a trap (R266-R274).
-/
namespace Sys2Proof.Machine

open Sys2Proof

/-! ## Lanes -/

/-- A vector register from its lanes. -/
def vtab (f : Nat → Word) : VReg := Vector.ofFn fun i => f i.val
/-- A lane of a vector register. -/
def lane (v : VReg) (i : Nat) : Word := v.toArray.toList.getD i 0
/-- The lanes of a mask, ascending. -/
def lanesOf (m : Mask) : List Nat := (List.range 96).filter fun i => m.getLsbD i
/-- The mask of a list of lanes. -/
def maskOf (l : List Nat) : Mask := l.foldl (fun m i => m ||| BitVec.twoPow 96 i) 0
/-- The scalars of a Vector by number; zero beyond its end. -/
def word {n : Nat} (v : Vector Word n) (i : Nat) : Word := v.toArray.toList.getD i 0

/-! ## Groups, fronts and splits in the state -/

/-- The queues' owner of an agent (R194). -/
def qidOf : Agent → QId
  | .split g i _ => .group g i
  | .front c => .front c

/-- The split number of an agent; the front's only split is number 0. -/
def splitNoOf : Agent → Nat
  | .split _ _ n => n
  | .front _ => 0

/-- A group, or a front's own group record. -/
def State.group? (s : State) : QId → Option Group
  | .group g i => (s.gang? g).bind fun x => x.groups.find? fun y => y.idx == i
  | .front c => (s.core c).front.map (·.group)

/-- A group replaced. -/
def State.setGroup (s : State) (q : QId) (x : Group) : State :=
  match q with
  | .group g _ =>
    match s.gang? g with
    | some y => s.setGang { y with groups := replaceFirst (fun z => z.idx == x.idx) x y.groups }
    | none => s
  | .front c =>
    match (s.core c).front with
    | some f => s.setCore { s.core c with front := some { f with group := x } }
    | none => s

/-- A live split by its number (R266). -/
def Group.split? (g : Group) (n : Nat) : Option Split := g.splits.find? fun k => k.no == n
/-- A split replaced. -/
def Group.setSplit (g : Group) (k : Split) : Group :=
  { g with splits := replaceFirst (fun x => x.no == k.no) k g.splits }
/-- A split taken out. -/
def Group.dropSplit (g : Group) (n : Nat) : Group := { g with splits := g.splits.filter fun k => !(k.no == n) }

/-- The job of a group. -/
def State.jobOf (s : State) (g : Group) : Option Job := s.job? g.job

/-- The run time of the scheduler of a group (R55). -/
def State.now (s : State) (g : Group) : Nat := ((s.core g.host).runTime.toArray.toList).getD g.sched 0

/-- A cluster (R309); clusters that no clock has advanced since reset are not listed. -/
def State.cluster (s : State) (i : Nat) : Cluster :=
  (s.clusters.find? fun c => c.idx == i).getD { idx := i, fixed := false, cycle := 0, mhz := 800, stretched := 0 }

/-- CYCLE as a core reads it: FCOUNT in a fixed-timing cluster, the cluster's own count otherwise (R312). -/
def State.cycle (s : State) (core : Nat) : Nat :=
  let c := s.cluster (core / 8)
  if c.fixed then s.fcount else c.cycle

/-! ## The instruction in progress -/

/-- The issuing agent with working copies of its group and split, the header of its instruction, and whether the
instruction is one that may fault, which ends its run (R52). -/
structure Issue where
  s  : State
  ag : Agent
  g  : Group
  k  : Split
  h  : Hd
  mf : Bool
  deriving Repr

/-- An agent with its group and split. -/
def State.issueOf (s : State) (ag : Agent) (h : Hd) : Option Issue :=
  match s.group? (qidOf ag) with
  | none => none
  | some g => (g.split? (splitNoOf ag)).map fun k => ⟨s, ag, g, k, h, false⟩

/-- The agent of the head run, with its group and split. -/
def State.issuer (s : State) (h : Hd) : Option Issue :=
  match s.runs with
  | [] => none
  | r :: _ => s.issueOf r.agent h

/-- The state with the working copies written back. -/
def Issue.commit (m : Issue) : State := m.s.setGroup (qidOf m.ag) (m.g.setSplit m.k)

/-- The instruction goes on with another state of the module. -/
def Issue.withS (m : Issue) (s : State) : Issue := { m with s := s }

/-- The address of the next instruction in sequence (R61). -/
def Issue.after (m : Issue) : DWord := m.k.pc + BitVec.ofNat 64 (4 * lenWords m.h.len)

/-- The context of the issuing agent. -/
def Issue.ctx (m : Issue) : Context := m.s.ctx m.g.ctx

/-- The active lanes of the executing split (R101); the front has no lanes. -/
def Issue.active (m : Issue) : List Nat := if m.g.isFront then [] else lanesOf m.k.mask

/-! ## Registers (R101-R107) -/

/-- An empty ring position. -/
def RingSlot.blank : RingSlot := { abs := none, vec := VReg.zero, scal := 0, clean := false, since := none }

/-- The absolute slot that register number n names at a window base (R106). -/
def absSlot (base n : Nat) : Nat := if n ≤ 7 then n else base + n

/-- The ring position of a window slot (R107). -/
def Group.pos (g : Group) (abs : Nat) : Nat := (abs - 8) % g.ring.length
/-- What a ring position holds. -/
def Group.at' (g : Group) (abs : Nat) : RingSlot := g.ring.getD (g.pos abs) RingSlot.blank

/-- The vector half of an absolute slot. -/
def Group.vec (g : Group) (abs : Nat) : VReg :=
  if abs < 8 then (g.globals.toArray.toList.getD abs (VReg.zero, 0)).1 else (g.at' abs).vec

/-- The scalar half of an absolute slot. -/
def Group.scal (g : Group) (abs : Nat) : Word :=
  if abs < 8 then (g.globals.toArray.toList.getD abs (VReg.zero, 0)).2 else (g.at' abs).scal

/-- A ring position takes other contents; what it held is a value that the group has held (R109). -/
def Group.putSlot (g : Group) (abs : Nat) (r : RingSlot) : Group :=
  { g with ring := g.ring.set (g.pos abs) r, past := ((g.at' abs).vec, (g.at' abs).scal) :: g.past }

/-- A global slot takes other contents. -/
def Group.putGlobal (g : Group) (abs : Nat) (v : VReg × Word) : Group :=
  { g with globals := g.globals.setIfInBounds abs v, past := (g.vec abs, g.scal abs) :: g.past }

/-- The vector half of an absolute slot written; a clean copy of the slot is clean no longer (R112). -/
def Group.setVec (g : Group) (abs : Nat) (v : VReg) : Group :=
  if abs < 8 then g.putGlobal abs (v, g.scal abs) else g.putSlot abs { g.at' abs with vec := v, clean := false }

/-- The scalar half of an absolute slot written. -/
def Group.setScal (g : Group) (abs : Nat) (w : Word) : Group :=
  if abs < 8 then g.putGlobal abs (g.vec abs, w) else g.putSlot abs { g.at' abs with scal := w, clean := false }

/-- The contents that slots of the group hold or have held (R109). -/
def Group.contents (g : Group) : List (VReg × Word) :=
  (g.ring.map fun r => (r.vec, r.scal)) ++ g.globals.toArray.toList ++ g.past

/-- Word i of a mask. -/
def maskWord (m : Mask) (i : Nat) : Word := m.extractLsb' (32 * i) 32
/-- A mask with word i replaced. -/
def setMaskWord (m : Mask) (i : Nat) (w : Word) : Mask :=
  (if i = 2 then w else maskWord m 2) ++ (if i = 1 then w else maskWord m 1) ++ (if i = 0 then w else maskWord m 0)

/-- The home of scalar register n of the executing split: s0 to s2 are its mask, but on the front (R101, R104). -/
def Issue.sreg (m : Issue) (n : Nat) : SReg :=
  if n ≤ 2 && !m.g.isFront then .mask m.k.no n else .slot (absSlot m.k.base n)

/-- Scalar register n (R101). -/
def Issue.sget (m : Issue) (n : Nat) : Word :=
  if n ≤ 2 && !m.g.isFront then maskWord m.k.mask n else m.g.scal (absSlot m.k.base n)

/-- Scalar register n written: a mask word is ANDed with the owned lanes (R104). -/
def Issue.sput (m : Issue) (n : Nat) (w : Word) : Issue :=
  if n ≤ 2 && !m.g.isFront then { m with k := { m.k with mask := setMaskWord m.k.mask n w &&& m.k.owned } }
  else { m with g := m.g.setScal (absSlot m.k.base n) w }

/-- A scalar pair, low half first (R102). -/
def Issue.sget2 (m : Issue) (n : Nat) : DWord := m.sget (n + 1) ++ m.sget n
/-- A scalar pair written. -/
def Issue.sput2 (m : Issue) (n : Nat) (v : DWord) : Issue :=
  (m.sput n (v.extractLsb' 0 32)).sput (n + 1) (v.extractLsb' 32 32)

/-- A scalar operand of a type: a pair for 64-bit types (R102). -/
def Issue.sval (m : Issue) (t : Ty) (n : Nat) : DWord := if tyRegs t = 2 then m.sget2 n else (m.sget n).setWidth 64
/-- A scalar operand of a type written. -/
def Issue.sputT (m : Issue) (t : Ty) (n : Nat) (v : DWord) : Issue :=
  if tyRegs t = 2 then m.sput2 n v else m.sput n (v.setWidth 32)

/-- Vector register n. -/
def Issue.vget (m : Issue) (n : Nat) : VReg := m.g.vec (absSlot m.k.base n)

/-- The lanes of a list written in vector register n; every other lane keeps its value (R101). -/
def Issue.vput (m : Issue) (n : Nat) (ls : List Nat) (f : Nat → Word) : Issue :=
  let abs := absSlot m.k.base n
  let old := m.g.vec abs
  { m with g := m.g.setVec abs (vtab fun i => if ls.contains i then f i else lane old i) }

/-- Lane i of a vector operand of a type: a pair for 64-bit types (R102). -/
def Issue.vval (m : Issue) (t : Ty) (n i : Nat) : DWord :=
  if tyRegs t = 2 then lane (m.vget (n + 1)) i ++ lane (m.vget n) i else (lane (m.vget n) i).setWidth 64

/-- The lanes of a vector operand of a type written. -/
def Issue.vputT (m : Issue) (t : Ty) (n : Nat) (ls : List Nat) (f : Nat → DWord) : Issue :=
  if tyRegs t = 2 then (m.vput n ls fun i => (f i).extractLsb' 0 32).vput (n + 1) ls fun i => (f i).extractLsb' 32 32
  else m.vput n ls fun i => (f i).setWidth 32

/-! ## Registers that a load or an operation has yet to write (R54; notes/assumptions/9.md) -/

/-- The vector slots and scalar registers that a destination names. -/
def Dest.vecs : Dest → List Nat
  | .vec lo hi _ => [lo, hi]
  | _ => []
def Dest.scals : Dest → List SReg
  | .scal lo hi => [lo, hi]
  | _ => []

/-- The vector slots that a tile operation has yet to write. -/
def TileKind.vecs : TileKind → List Nat
  | .mrdV _ _ _ _ ds _ => ds
  | .grep _ d .. => [d]
  | .gpatch _ _ d .. => [d]
  | _ => []

/-- A vector slot is yet to be written. -/
def Group.vecPending (g : Group) (abs : Nat) : Bool :=
  (g.queue.any fun e => e.dest.vecs.contains abs) || g.ops.any fun o => o.kind.vecs.contains abs

/-- An MMA or MMAS of a logical core that has looked entry `no` of a context up stalls until it is READY (R217, R385). -/
def State.wHeld (s : State) (core ctx no : Nat) : Bool :=
  s.gangs.any fun x => x.lcore == core && x.groups.any fun g => g.ctx == ctx && g.splits.any fun k => k.hold == .mma no

/-- A scalar register is yet to be written: by a load, or by a held reservation. -/
def Group.scalPending (g : Group) (r : SReg) : Bool :=
  (g.queue.any fun e => e.dest.scals.contains r) ||
  g.splits.any fun k => match k.hold with
    | .reserve _ _ (some (a, b)) => a == r || b == r
    | _ => false

/-! ## Loops (R126) -/

/-- A loop counter of a split. -/
def Split.lcGet (k : Split) (i : Nat) : Word := word k.lc i
def Split.lcSet (k : Split) (i : Nat) (w : Word) : Split := { k with lc := k.lc.setIfInBounds i w }

/-- An enclosing level without the words of an inner body that is refetched (R127). -/
def Level.refetched (l o : Level) : Level :=
  { o with buf := o.buf.filter fun x => decide (x.1 < l.start.toNat) || decide (l.last.toNat < x.1) }

/-- The split after it completes the instruction at pc and falls through to next: each level that ends there, innermost
first, counts down and goes back to its body, or is popped (R126; notes/assumptions/21.md). A level that goes back without running from the loop
buffer has its body captured next (R127). The flag says that a back edge was taken. -/
def loopEdge (k : Split) (pc next : DWord) : List Level → Split × Bool
  | [] => ({ k with pc := next, levels := [] }, false)
  | l :: r =>
    if l.last ≠ pc then ({ k with pc := next, levels := l :: r }, false)
    else
      let n := k.lcGet l.ctr.toNat - 1
      let k' := k.lcSet l.ctr.toNat n
      if n ≠ 0 then
        let l' := if l.discard then { l with buf := [], bufOn := false, armed := true, discard := false }
                  else { l with armed := !l.bufOn }
        ({ k' with pc := l.start, levels := l' :: if l.discard then r.map l.refetched else r }, true)
      else loopEdge k' pc next r

/-- The levels left after a taken branch: from the outermost in, as far as bodies hold the target (R126). -/
def popLevels (t : DWord) (ls : List Level) : List Level :=
  (ls.reverse.takeWhile fun l => decide (l.start ≤ t) && decide (t ≤ l.last)).reverse

/-! ## Ends of runs (R52-R56) -/

/-- The head run taken away. -/
def State.dropRun (s : State) : State := { s with runs := s.runs.tail }
/-- One more instruction of the head run has issued. -/
def State.countRun (s : State) : State :=
  match s.runs with
  | [] => s
  | r :: rs => { s with runs := { r with count := r.count + 1, stalled := false } :: rs }
/-- Instructions of the head run so far. -/
def State.runCount (s : State) : Nat := match s.runs with | [] => 0 | r :: _ => r.count

/-- A split becomes READY at a run time (R55). -/
def Split.ready (k : Split) (now : Nat) : Split := { k with state := .ready, wait := .none, stamp := now }

/-- The instruction has completed and the PC has been set: the run goes on, or ends with its split READY (R29, R52). -/
def Issue.finish (m : Issue) (ends : Bool) : State :=
  if ends || m.h.bnd || decide (m.s.runCount + 1 ≥ Config.runLength) then
    ({ m with k := m.k.ready (m.s.now m.g) }).commit.dropRun
  else m.commit.countRun

/-- An instruction completes and goes on in sequence (R52, R126). -/
def Issue.done (m : Issue) : State :=
  let e := loopEdge m.k m.k.pc m.after m.k.levels
  ({ m with k := e.1 }).finish (m.mf || e.2)

/-- A taken branch that pops the levels whose bodies do not hold the target (R52, R126). -/
def Issue.jump (m : Issue) (t : DWord) : State :=
  ({ m with k := { m.k with pc := t, levels := popLevels t m.k.levels } }).finish true

/-- A transfer of control that pops no level: CALL, CALLI, RET, RTT (R126). -/
def Issue.goto (m : Issue) (t : DWord) : State := ({ m with k := { m.k with pc := t } }).finish true

/-- The run stalls in place (R54). -/
def Issue.stall (m : Issue) : State :=
  match m.s.runs with
  | [] => m.s
  | r :: rs => { m.s with runs := { r with stalled := true } :: rs }

/-- The run stalls in place, and what the checks and transfers have left stays. -/
def Issue.stallKeep (m : Issue) : State := ({ m with s := m.commit }).stall

/-- The split blocks at its instruction (R29). -/
def Issue.block (m : Issue) (w : Wait) : State :=
  ({ m with k := { m.k with state := .blocked, wait := w } }).commit.dropRun

/-- The run ends before the instruction; the split is READY with a hold (R44, R110, R346). -/
def Issue.holdAt (m : Issue) (h : Hold) : State :=
  ({ m with k := { (m.k.ready (m.s.now m.g)) with hold := h } }).commit.dropRun

/-! ## Waking (R29) -/

/-- A split is BLOCKED, or was when a breakpoint held it (R29, R128). -/
def Split.stopped (k : Split) : Bool := k.state == .blocked || (k.state == .held && k.prior == .blocked)

/-- A BLOCKED split waits for what its instruction names; not one whose instruction is evaluated afresh (R29, R278). -/
def Split.waiting (k : Split) : Bool := k.stopped && k.hold != .again

/-- A waiting split becomes READY, or READY once it is released. -/
def Split.wake (k : Split) (now : Nat) : Split :=
  if k.state = .held then { k with prior := .ready, wait := .none, stamp := now } else k.ready now

/-- A waiting split goes on after its instruction of len words. -/
def Split.resume (k : Split) (len now : Nat) : Split :=
  ((loopEdge k k.pc (k.pc + BitVec.ofNat 64 (4 * len)) k.levels).1).wake now

/-- A counter of a group (R101). -/
def Group.counter (g : Group) : WaitClass → Nat
  | .loads => g.loads
  | .stores => g.stores
  | .copies => g.copies
  | .tiles => g.tiles
/-- A counter changed. -/
def Group.setCounter (g : Group) (c : WaitClass) (n : Nat) : Group :=
  match c with
  | .loads => { g with loads := n }
  | .stores => { g with stores := n }
  | .copies => { g with copies := n }
  | .tiles => { g with tiles := n }

/-- The splits that wait for a counter that has reached their threshold go on (R394). -/
def Group.wakeCounters (g : Group) (now : Nat) : Group :=
  { g with splits := g.splits.map fun k =>
      match k.waiting, k.wait with
      | true, .counter c n len => if g.counter c ≤ n then k.resume len now else k
      | _, _ => k }

/-- One operation of a class has completed. -/
def State.countDown (s : State) (q : QId) (c : WaitClass) : State :=
  match s.group? q with
  | none => s
  | some g => s.setGroup q ((g.setCounter c (g.counter c - 1)).wakeCounters (s.now g))

/-- PEND of the byte barrier at an offset of a region (R190). -/
def State.pend (s : State) (core base off : Nat) : Nat := s.homeNat (spKey core (base + off)) 3

/-- Splits of one group that wait in BBW on a barrier whose PEND is zero go on: each has read PEND at its home (R195, R326). -/
def State.wakeBarrierIn (s : State) (q : QId) (core base off : Nat) : State :=
  match s.group? q with
  | none => s
  | some g =>
    let waits (k : Split) : Bool := k.waiting && (match k.wait with | .barrier o => o == off | _ => false)
    if s.pend core base off ≠ 0 || !g.splits.any waits then s else
    (s.viewHome g.host (spKey core (base + off)) 3).setGroup q
      { g with splits := g.splits.map fun k => if waits k then k.resume 1 (s.now g) else k }

/-- Every waiter of a barrier of a gang looks at it again (R191, R326): the gang's groups, and the front it serves. -/
def State.wakeBarrier (s : State) (gang off : Nat) : State :=
  match s.gang? gang with
  | none => s
  | some g =>
    let s1 := g.groups.foldl (fun s x => s.wakeBarrierIn (.group gang x.idx) g.host g.spBase off) s
    match (s1.core g.lcore).front with
    | some f =>
      if f.job = g.job ∧ f.group.worker = g.worker then s1.wakeBarrierIn (.front g.lcore) g.host g.spBase off else s1
    | none => s1

/-! ## Dispatch traces (R59) -/

/-- The kinds of traced events. -/
inductive TraceKind where
  | placement | reservation | batch | decision
  deriving DecidableEq, Repr

/-- The number of a kind. -/
def TraceKind.code : TraceKind → Nat
  | .placement => 0
  | .reservation => 1
  | .batch => 2
  | .decision => 3

/-- An event of a core as a trace holds it. -/
def traceEvent (core : Nat) (k : TraceKind) (what : List Nat) : List Nat := core :: k.code :: what

/-- A trace as numbers: what names the firmware, each event behind its length, and a last 0. -/
def traceNumbers (fw : List DWord) (events : List (List Nat)) : List DWord :=
  fw ++ (events.map fun e => BitVec.ofNat 64 e.length :: e.map (BitVec.ofNat 64)).flatten ++ [0]

/-- Each number under the free key of those before it. -/
def sealTrace (past : List DWord) : List DWord → List DWord
  | [] => []
  | x :: r => (x ^^^ Config.traceKey past) :: sealTrace (x :: past) r

/-- The numbers that a sealed trace holds. -/
def openTrace (past : List DWord) : List DWord → List DWord
  | [] => []
  | y :: r => (y ^^^ Config.traceKey past) :: openTrace ((y ^^^ Config.traceKey past) :: past) r

/-- The events behind their lengths, up to a length of 0. -/
def readEvents : Nat → List DWord → List (List Nat)
  | 0, _ | _, [] => []
  | n + 1, x :: r =>
    if x = 0 then [] else (r.take x.toNat).map BitVec.toNat :: readEvents n (r.drop x.toNat)

/-- The bytes of a dispatch trace (R59; notes/assumptions/15.md). -/
def traceFile (fw : List DWord) (events : List (List Nat)) : List Byte :=
  ((sealTrace [] (traceNumbers fw events)).map fun x => leBytes 8 x.toNat).flatten

/-- The events of a recorded trace; none where another firmware version recorded it, so that the first event diverges
(R59). -/
def readTrace (fw : List DWord) (file : List Byte) : List (List Nat) :=
  let l := openTrace [] (dwordsOf file)
  if l.take fw.length = fw then readEvents l.length (l.drop fw.length) else []

/-- The firmware that runs, as a trace names it: its version and its digest (R3, R59; notes/assumptions/110.md). -/
def State.firmware (s : State) : List DWord :=
  s.fwVersion.setWidth 64 :: (List.range 6).map fun i => s.measured.extractLsb' (64 * i) 64

/-- What the trace of a deterministic job says of an event: it may happen, it waits for its turn, or the trace holds it no
longer and the job diverges. -/
inductive Traced where
  | ok (s : State)
  | later
  | diverged

/-- The worker and the agent of a group or front, as a traced event names them: the group's index, 16 for the front
(R59; notes/assumptions/15.md). -/
def Group.tracedAs (g : Group) : List Nat := [g.worker, if g.isFront then 16 else g.idx]

/-- The events of a core that a replay has still to meet; decisions bind nothing. -/
def Job.awaited (j : Job) (core : Nat) : List (List Nat) :=
  j.expected.filter fun x => x.head? == some core && x[1]? != some TraceKind.decision.code

/-- An event may still become the next one: the trace holds it, or for a reservation one by the same group of as many records on
the same queue from a later number (R59). -/
def mayCome (k : TraceKind) (core : Nat) (what : List Nat) (l : List (List Nat)) : Bool :=
  l.any fun x => x == traceEvent core k what || (k == .reservation && x.take 5 == traceEvent core k (what.take 3) &&
    x[6]? == what[4]? && decide (what.getD 3 0 ≤ x.getD 5 0))

/-- An event of a job on a core: recorded, or held against the recorded order of its core (R59). -/
def State.traced (s : State) (job core : Nat) (k : TraceKind) (what : List Nat) : Traced :=
  match s.job? job with
  | none => .ok s
  | some j =>
    let c := traceEvent core k what
    if !j.det then .ok s
    else if !j.replay then .ok (s.setJob { j with trace := j.trace ++ [c] })
    else if k = .decision then .ok s
    else if (j.awaited core).head? = some c then .ok (s.setJob { j with expected := j.expected.erase c })
    else if mayCome k core what (j.awaited core) then .later
    else .diverged

/-- An event that only a recording run notes. -/
def State.note (s : State) (job core : Nat) (k : TraceKind) (what : List Nat) : State :=
  match s.traced job core k what with
  | .ok s1 => s1
  | _ => s

/-! ## Accesses and their checks (R134, R158-R168) -/

/-- Whose spaces an access names: context, core whose TLB and view it uses, and scratchpad region. -/
structure Who where
  ctx    : Nat
  core   : Nat
  sp     : Option (Nat × Nat × Nat)
  deriving DecidableEq, Repr

/-- The gang whose scratchpad region a front uses, while it is RESIDENT on the front's core (R319). -/
def State.frontGang (s : State) (g : Group) : Option Gang :=
  s.gangs.find? fun x => x.job == g.job && x.worker == g.worker && x.lcore == g.lcore && x.state == .resident &&
    x.host == g.host

/-- The spaces of a group or front. -/
def State.who (s : State) (g : Group) : Who :=
  { ctx := g.ctx, core := g.host
    sp := if g.isFront then (s.frontGang g).map fun x => (x.host, x.spBase, x.spSize) else some (g.host, g.spBase, g.spSize) }

/-- Where an access goes: the key of its first byte, and the TARGET of its page (0 outside the global space). -/
structure Loc where
  key    : Nat
  target : Nat
  deriving DecidableEq, Repr

/-- A failed check: cause and address (R168). -/
structure Bad where
  cause : Cause
  addr  : Nat
  deriving DecidableEq, Repr

/-- The state that checks thread: translations found for an instruction are used for all its lanes (R167). -/
structure Chk where
  s    : State
  memo : List Page
  deriving Repr

/-- The page of an address, once per distinct page of an instruction (R167). -/
def Chk.page (c : Chk) (w : Who) (va : Nat) : Chk × Option Page :=
  match c.memo.find? fun p => decide (p.va ≤ va) && decide (va < p.va + p.size) with
  | some p => (c, some p)
  | none =>
    let (s, p) := c.s.translate w.core w.ctx va
    match p with
    | some p => ({ s := s, memo := p :: c.memo }, some p)
    | none => ({ c with s := s }, none)

/-- The checks of one access of n bytes after ALIGN: range, translation, protection, and POISON for a read (R158, R159,
R165, R168, R170, R180). -/
def Chk.loc (c : Chk) (w : Who) (space : Space) (addr n : Nat) (rd wr : Bool) : Chk × Except Bad Loc :=
  let poison (c : Chk) (l : Loc) : Chk × Except Bad Loc :=
    if rd && (c.s.ctx w.ctx).poisonTrap then
      match c.s.firstPoison l.key n with
      | some k => (c, .error ⟨.poison, addr + (k - l.key)⟩)
      | none => (c, .ok l)
    else (c, .ok l)
  match space with
  | .gv =>
    if addr ≥ 2 ^ 56 then (c, .error ⟨.prot, addr⟩) else
    let (c1, p) := c.page w addr
    match p with
    | none => (c1, .error ⟨.page, addr⟩)
    | some p =>
      if (wr && !p.w) || !c1.s.pageOpen w.ctx p (addr - p.va) n then (c1, .error ⟨.prot, addr⟩)
      else poison c1 ⟨c1.s.keyAt p (addr - p.va), p.target⟩
  | .sp =>
    match w.sp with
    | none => (c, .error ⟨.prot, addr⟩)
    | some (core, base, size) =>
      if addr + n > size then (c, .error ⟨.prot, addr⟩) else poison c ⟨spKey core (base + addr), 0⟩
  | .ws =>
    let x := c.s.ctx w.ctx
    if addr + n > x.wsSize * 2 ^ 21 || wr then (c, .error ⟨.prot, addr⟩)
    else poison c ⟨wsKey (x.wsBase * 2 ^ 21 + addr), 0⟩
  | .qw =>
    let x := c.s.ctx w.ctx
    if addr + n > x.qaSize * 4096 then (c, .error ⟨.prot, addr⟩)
    else poison c ⟨quayKey (x.qaBase * 4096 + addr), 0⟩
  | .rm => (c, .error ⟨.prot, addr⟩)

/-- The n bytes that a leaf of a peer module names may be reached by a context: where the leaf names this module, they lie in memory
that holds data of the context and no save pool or copy of metadata (R279, R317). -/
def State.remoteOpen (s : State) (ctx target peer pa n : Nat) : Bool :=
  target = 0 || target = 1 || peer != s.devid.toNat || s.ownMemory ctx pa n

/-- The key of a byte that a leaf of a peer module names, by its TARGET and PEER (R161, R165; notes/assumptions/96.md). -/
def State.remoteKey (s : State) (dev target peer pa : Nat) : Nat :=
  if target = 0 then peerKey dev pa
  else if target = 1 then peerHostKey dev pa
  else if peer = s.devid.toNat then pa
  else peerKey peer pa

/-- The checks of one access in the pod space after those of ALIGN and the device id (R161, R308, R366): the module's own
id is the local global space; `atomic` refuses leaves of another module with TARGET other than 00 (R169, R366;
notes/assumptions/111.md). -/
def Chk.pod (c : Chk) (w : Who) (id : Word) (addr n : Nat) (rd wr atomic : Bool) : Chk × Except Bad Loc :=
  let x := c.s.ctx w.ctx
  if addr ≥ 2 ^ 56 then (c, .error ⟨.prot, addr⟩)
  else if id.setWidth 10 = c.s.devid then c.loc w .gv addr n rd wr
  else
    match c.s.peers.find? fun p => p.dev == id.toNat && p.tag == x.podTag with
    | none => (c, .error ⟨.prot, addr⟩)
    | some p =>
      if x.podTag = 0 then (c, .error ⟨.prot, addr⟩) else
      match c.s.walkPeer id.toNat p.ttroot.toNat addr with
      | .fault => (c, .error ⟨.page, addr⟩)
      | .page b _ pte =>
        let pte := pte.toNat
        let t := bitsOf pte 5 4
        let peer := bitsOf pte 61 52
        let pa := bitsOf pte 51 8 * 256 + (addr - b)
        if (wr && !bitOf pte 2) || (atomic && t != 0) || !c.s.remoteOpen w.ctx t peer pa n then (c, .error ⟨.prot, addr⟩)
        else
          let key := c.s.remoteKey id.toNat t peer pa
          if rd && x.poisonTrap then
            match c.s.firstPoison key n with
            | some k => (c, .error ⟨.poison, addr + (k - key)⟩)
            | none => (c, .ok ⟨key, t⟩)
          else (c, .ok ⟨key, t⟩)

/-- The checks of a list of accesses in order; the first failure gives the cause (R168). -/
def Chk.all (c : Chk) (f : Chk → Nat → Chk × Except Bad Loc) : List (Nat × Nat) → Chk × Except Bad (List (Nat × Loc))
  | [] => (c, .ok [])
  | (i, a) :: r =>
    match f c a with
    | (c1, .error b) => (c1, .error b)
    | (c1, .ok l) =>
      match c1.all f r with
      | (c2, .error b) => (c2, .error b)
      | (c2, .ok ls) => (c2, .ok ((i, l) :: ls))

/-- A range of addresses of a space, checked page by page: the lowest address of each granule of 32 KiB (R334). -/
def granules (addr n : Nat) : List (Nat × Nat) :=
  if n = 0 then [] else
  (0, addr) :: ((List.range ((addr + n - 1) / 32768 - addr / 32768)).map fun i => (i + 1, (addr / 32768 + i + 1) * 32768))

/-- n bytes of a space: the key and length of each part, of the global space page by page, where a range that it does not hold
fails at its first byte (R158, R165, R293). -/
def Chk.parts (c : Chk) (w : Who) (space : Space) (addr n : Nat) (rd wr : Bool) : Chk × Except Bad (List (Nat × Nat)) :=
  let n1 := if space = .gv then min n (32768 - addr % 32768) else n
  if space = .gv && decide (2 ^ 56 < addr + n) then (c, .error ⟨.prot, addr⟩) else
  match c.loc w space addr n1 rd wr with
  | (c1, .error b) => (c1, .error b)
  | (c1, .ok l) =>
    if n1 = n then (c1, .ok [(l.key, n)]) else
    match c1.loc w space (addr + n1) (n - n1) rd wr with
    | (c2, .error b) => (c2, .error b)
    | (c2, .ok l2) => (c2, .ok [(l.key, n1), (l2.key, n - n1)])

/-- The bytes of parts at their homes. -/
def State.readParts (s : State) (ps : List (Nat × Nat)) : List Byte := (ps.map fun p => s.readHome p.1 p.2).flatten
/-- A byte of a part is poisoned. -/
def State.poisonParts (s : State) (ps : List (Nat × Nat)) : Bool := ps.any fun p => (s.firstPoison p.1 p.2).isSome
/-- A part lies in a line of a page in flight that has not moved (R179). -/
def State.flightParts (s : State) (ps : List (Nat × Nat)) : Bool := ps.any fun p => s.inFlightAt p.1 p.2

/-- Bytes stored at the homes of parts. -/
def State.storeParts (s : State) (core : Nat) (bytes : List Byte) : List (Nat × Nat) → State
  | [] => s
  | (k, n) :: r => (s.storeHome (some core) k (bytes.take n) 0).storeParts core (bytes.drop n) r

/-! ## Queue entries (R194-R204) -/

/-- A queue entry is a mark. -/
def Entry.isMark (e : Entry) : Bool := match e.kind with | .mark .. => true | _ => false
def Entry.isStore (e : Entry) : Bool := match e.kind with | .store => true | _ => false
def Entry.isLoad (e : Entry) : Bool := match e.kind with | .load => true | _ => false
def Entry.isAtomic (e : Entry) : Bool := match e.kind with | .atomic .. | .barrier .. => true | _ => false

/-- A DQPOP that waits. -/
def Entry.isPop (e : Entry) : Bool := match e.kind with | .pop => true | _ => false

/-- Two entries name a common byte. -/
def Entry.overlaps (a b : Entry) : Bool :=
  decide (a.key < b.key + b.n) && decide (b.key < a.key + a.n)

/-- An order includes acquire, or release. -/
def orderAcq : Order → Bool
  | .acq | .ar | .sc => true
  | _ => false
def orderRel : Order → Bool
  | .rel | .ar | .sc => true
  | _ => false

/-- An entry bars a later one until it leaves (R199, R201). -/
def Entry.bars (o e : Entry) : Bool :=
  match o.kind with
  | .load | .atomic .. | .barrier .. | .pop => orderAcq o.order && (!e.isMark || o.order == .ar)
  | .store => false
  | .mark .. => !e.isMark && (orderAcq o.order || !e.isLoad)

/-- An entry waits for an older one by its own order (R199, R201). -/
def Entry.waits (e o : Entry) : Bool :=
  match e.kind with
  | .load | .pop => false
  | .store | .atomic .. | .barrier .. => orderRel e.order && e.scope != .group && !o.isMark
  | .mark .. =>
    match e.order with
    | .acq => o.isLoad || o.isAtomic || o.isPop || ((e.scope == .sys || e.scope == .pod) && (o.isStore || o.isAtomic))
    | .rel | .ar => !o.isMark
    | _ => true

/-- The step of an entry may be taken beside an entry o that stands before it in its queues: an older one, or one of a lower
lane of the same instruction (R197, R204); stores to host pages are posted in lane order (R379). -/
def Entry.mayPass (e o : Entry) : Bool :=
  if o.pos < e.pos then
    !o.bars e && !e.waits o &&
    (match e.kind with
     | .load | .pop => !(e.overlaps o && !o.isStore && !o.isMark)
     | .store => !(e.overlaps o && !o.isLoad && !o.isMark)
     | .atomic .. | .barrier .. => !(e.overlaps o && !o.isMark)
     | .mark .. => true)
  else if o.pos = e.pos then
    !(e.isAtomic && o.isAtomic && e.overlaps o) && !(e.isStore && o.isStore && isHost e.key && isHost o.key)
  else true

/-- The step of the i-th entry of a queue may be taken (R197, R199, R201, R204). -/
def mayStep (q : List Entry) (i : Nat) : Bool :=
  match q[i]? with
  | none => false
  | some e => (q.take i).all fun o => e.mayPass o

/-- The bytes that a load of a queue reads: each from the youngest older store entry that covers it, else from memory. -/
def forwardByte (older : List Entry) (pos key : Nat) (mem : Byte) : Byte :=
  match older.reverse.find? fun o =>
      o.isStore && decide (o.pos < pos) && decide (o.key ≤ key) && decide (key < o.key + o.n) with
  | some o => o.data.getD (key - o.key) 0
  | none => mem

/-- The value in memory that a load of a core reads: its view of viewed memory, or the home (R195, R197, R198). -/
def State.loadBytes (s : State) (core key n : Nat) (home : Bool) : List Byte :=
  if viewed key && !home then s.readView core key n else s.readHome key n

/-- The bytes that a load reads from memory, and not from an older store of its queue. -/
def memoryBytes (older : List Entry) (pos key n : Nat) : List Nat :=
  ((List.range n).map (key + ·)).filter fun k =>
    !older.any fun o => o.isStore && decide (o.pos < pos) && decide (o.key ≤ k) && decide (k < o.key + o.n)

/-- A load of a core behind the older entries of a queue: its bytes, and the state with the core's view advanced to the
stores that it reads where it is performed at a home: of viewed memory where `home` says so, of every other memory always (R195, R197, R198). -/
def State.loadStep (s : State) (core : Nat) (older : List Entry) (pos key n : Nat) (home : Bool) : State × List Byte :=
  let mem := s.loadBytes core key n home
  let bs := (List.range n).map fun i => forwardByte older pos (key + i) (mem.getD i 0)
  let ks := memoryBytes older pos key n
  if (home || !viewed key) && !ks.isEmpty then (s.viewAt core ks, bs) else (s, bs)

/-- A relaxed load entry at the end of a queue. -/
def loadEntry (pos split key n : Nat) : Entry :=
  { pos := pos, split := split, kind := .load, key := key, n := n, data := [], ty := .b32, dest := .none, order := .rlx
    scope := .dev, poll := false, cls := none, fence := 0, isFence := false, whole := [] }

/-- A load that an instruction performs at a position of its group's queues: none while an older entry bars it. -/
def Group.loadAt (g : Group) (s : State) (pos key n : Nat) (home : Bool) : Option (State × List Byte) :=
  let older := g.queue.filter fun o => decide (o.pos < pos)
  if older.all fun o => (loadEntry pos 0 key n).mayPass o then some (s.loadStep g.host older pos key n home) else none

/-- A load that an instruction performs while it issues, behind its group's queue: none while an older entry bars it. -/
def Group.loadNow (g : Group) (s : State) (key n : Nat) (home : Bool) : Option (State × List Byte) :=
  g.loadAt s g.nextPos key n home

/-- A relaxed store entry of bytes at group scope, as Sillage makes it (R118). -/
def storeEntry (pos split key : Nat) (bytes : List Byte) (fence : Nat) : Entry :=
  { pos := pos, split := split, kind := .store, key := key, n := bytes.length, data := bytes, ty := .b32, dest := .none
    order := .rlx, scope := .group, poll := false, cls := none, fence := fence, isFence := false, whole := [] }

/-- A mark (R201). -/
def markOf (pos split fence : Nat) (o : Order) (sc : Scope) (exp imp catchup : Bool) : Entry :=
  { pos := pos, split := split, kind := .mark exp imp catchup, key := 0, n := 0, data := [], ty := .b32, dest := .none
    order := o, scope := sc, poll := false, cls := none, fence := fence, isFence := true, whole := [] }

/-- The entry of a split's DQPOP that waits: an acquire load at core scope that no step of the Plaza performs (R342). -/
def popEntry (pos split : Nat) : Entry :=
  { loadEntry pos split 0 0 with kind := .pop, order := .acq, scope := .core }

/-- A split's DQPOP waits no longer. -/
def Group.unpop (g : Group) (no : Nat) : Group :=
  { g with queue := g.queue.filter fun e => !(e.isPop && e.split == no) }

/-- The queues of a group are empty but for DQPOPs that wait (R210, R342). -/
def Group.drained (g : Group) : Bool := g.queue.all (·.isPop)

/-- Entries placed at one position at the end of a group's queues (R197). -/
def Group.enqueue (g : Group) (es : List Entry) : Group := { g with queue := g.queue ++ es, nextPos := g.nextPos + 1 }

/-- An entry placed at a position of a group's queues, ahead of every later one (R118). -/
def Group.insertEntry (g : Group) (e : Entry) : Group :=
  { g with queue := g.queue.takeWhile (fun x => decide (x.pos ≤ e.pos)) ++ e :: g.queue.dropWhile fun x => decide (x.pos ≤ e.pos)
           nextPos := max g.nextPos (e.pos + 1) }

/-- A merge acts as a fence `.ar.group` behind the accesses of the merged splits; in empty queues it leaves at once (R204). -/
def Group.mergeMark (g : Group) (no : Nat) : Group :=
  if g.queue.isEmpty then g
  else g.enqueue [{ markOf g.nextPos no g.fence .ar .group false false false with isFence := false }]

/-- The entries of a split that ends belong to no split any longer (R56, R322). -/
def Group.orphan (g : Group) (no : Nat) : Group :=
  { g with queue := g.queue.map fun e => if e.split = no then { e with split := 4 } else e }

/-! ## Windows and Sillage (R109-R118) -/

/-- The bases of parked and pending lanes. -/
def Group.parkedBases (g : Group) : List Nat :=
  (g.stack.map fun e =>
    (if e.amask ≠ 0 then [e.abase] else []) ++ (if e.kind ≠ .trap ∧ e.jmask ≠ 0 then [e.jbase] else [])).flatten
/-- The bases of live splits. -/
def Group.bases (g : Group) : List Nat := g.splits.map (·.base)

def maxOf (l : List Nat) : Nat := l.foldl max 0
def minOf : List Nat → Nat
  | [] => 0
  | x :: r => r.foldl min x

/-- A slot lies above every window; without a window every slot does (R109). -/
def Group.dead (g : Group) (bases : List Nat) (n : Nat) : Bool := bases.isEmpty || decide (maxOf bases + 7 + g.span < n)
/-- A slot lies in the window of a base. -/
def Group.inWindow (g : Group) (base n : Nat) : Bool := decide (base + 8 ≤ n) && decide (n ≤ base + 7 + g.span)
/-- R111 holds for a list of bases. -/
def Group.fits (g : Group) (bases : List Nat) : Bool :=
  bases.isEmpty || decide (g.ring.length ≥ maxOf bases - minOf bases + g.span)

/-- A slot of the ring is spillable: kept, and in no live split's window (R109). -/
def Group.spillable (g : Group) (n : Nat) : Bool :=
  !(g.bases.any fun b => g.inWindow b n) && !g.dead (g.bases ++ g.parkedBases) n

/-- The bases of the live splits, that of one split replaced (R111). -/
def Group.basesWith (g : Group) (no base : Nat) : List Nat :=
  base :: (g.splits.filter fun k => !(k.no == no)).map (·.base)

/-- A split that a release creates joins its group, at the release's position in the queues; where its base breaks R111 it is
not eligible (R111, R118). -/
def Group.addSplit (g : Group) (c : Split) : Group :=
  let c := { c with pos := g.nextPos }
  { g with splits := g.splits ++
      [if g.fits (c.base :: g.bases) || c.hold != .none then c else { c with hold := .window c.base }] }

/-- Every slot of the window of a base is resident (R110). -/
def Group.resident (g : Group) (base : Nat) : Bool :=
  g.isFront || (List.range g.span).all fun i => (g.at' (base + 8 + i)).abs == some (base + 8 + i)

/-- The spill area of a group: base address and log of its size; none when the job has none (R113). -/
def State.spillArea (s : State) (g : Group) : Option (Nat × Nat) :=
  match s.jobOf g with
  | none => none
  | some j =>
    let lg := bitsOf j.spill.toNat 5 0
    if lg = 0 then none else some (bitsOf j.spill.toNat 55 9 * 512 + (g.laneBase.toNat / 96) * 2 ^ lg, lg)

/-- The 512-byte image of a slot (R114). -/
def slotImage (v : VReg) (w : Word) : List Byte :=
  (v.toArray.toList.map fun x => leBytes 4 x.toNat).flatten ++ leBytes 4 w.toNat ++ List.replicate 124 0
/-- A slot from its image. -/
def imageSlot (bs : List Byte) : VReg × Word :=
  (vtab fun i => BitVec.ofNat 32 (leNat ((bs.drop (4 * i)).take 4)), BitVec.ofNat 32 (leNat ((bs.drop 384).take 4)))

/-- The 64-byte image of a stack entry (R125). -/
def stackImage (e : StackEntry) : List Byte :=
  leBytes 64 (e.dmask.toNat + e.amask.toNat <<< 96 + e.jmask.toNat <<< 192 + (e.rpc.toNat % 2 ^ 56) <<< 288 +
    (e.jpc.toNat % 2 ^ 56) <<< 344 + (e.jbase % 2 ^ 32) <<< 400 + (e.abase % 2 ^ 32) <<< 432 +
    (match e.kind with | .branch => 0 | .call => 1 | .trap => 2) <<< 464 + (if e.rpcv then 1 else 0) <<< 466)
/-- A stack entry from its image, `bad` when a reserved field is not zero (R125). -/
def imageStack (bs : List Byte) : StackEntry :=
  let v := leNat bs
  let kind := bitsOf v 465 464
  { kind := if kind = 0 then .branch else if kind = 1 then .call else .trap, rpcv := bitOf v 466
    rpc := BitVec.ofNat 64 (bitsOf v 343 288), jpc := BitVec.ofNat 64 (bitsOf v 399 344)
    jmask := BitVec.ofNat 96 (bitsOf v 287 192), jbase := bitsOf v 431 400
    amask := BitVec.ofNat 96 (bitsOf v 191 96), abase := bitsOf v 463 432, dmask := BitVec.ofNat 96 (bitsOf v 95 0)
    bad := bitsOf v 511 467 != 0 || kind == 3 }

/-- What a Sillage transfer meets: WINDOWFULL, SPILLFAULT at an address, or the key of its image and whether a load of it is
performed at the home (R195). -/
inductive Sill where
  | full
  | fault (addr : Nat)
  | at (key : Nat) (home : Bool)
  deriving DecidableEq, Repr

/-- Where an image in the spill area of a group lies; a read meets POISON too. A failure names the lowest address of the
image, which crosses no page (R117, R129). -/
def State.sillKey (s : State) (g : Group) (off n : Nat) (wr : Bool) : State × Sill :=
  match s.spillArea g with
  | none => (s, .full)
  | some (base, _) =>
    let (c, r) := Chk.loc { s := s, memo := [] } (s.who g) .gv (base + off) n (!wr) wr
    match r with
    | .ok l => (c.s, .at l.key (l.target == 2))
    | .error _ => (c.s, .fault (base + off))

/-- The highest window slot that is spilled, 7 when none is (R109, R112, R115). -/
def Group.highOut (g : Group) : Nat :=
  max 7 (maxOf (g.out ++ (g.ring.map fun r => match r.abs with
    | some n => if r.clean && g.spillable n then [n] else []
    | none => []).flatten))

/-- Room for the image of slot n (R115). -/
def State.slotRoom (s : State) (g : Group) (n : Nat) : Bool :=
  match s.spillArea g with
  | none => false
  | some (_, lg) => decide (512 * (n - 7) + 64 * g.spilled ≤ 2 ^ lg)

/-- The spill of a resident slot: its image stands in the group's store queue at the position of the instruction that made
the slot spillable, cumulative as a store of that position is, and its ring position is a clean copy (R112, R114, R115, R118,
R200). -/
def State.spillSlot (s : State) (g : Group) (n : Nat) : State × Except Sill Group :=
  if !s.slotRoom g n then (s, .error .full) else
  match s.sillKey g (512 * (n - 8)) 512 true with
  | (s1, .at key _) =>
    let r := g.at' n
    let p := r.since.getD (g.nextPos, g.fence)
    let e := storeEntry p.1 0 key (slotImage r.vec r.scal) p.2
    (s1.count (g.host / 8) (some g.ctx) 5 1, .ok { (g.insertEntry { e with split := 4 }) with
      ring := g.ring.set (g.pos n) { r with clean := true } })
  | (s1, x) => (s1, .error x)

/-- How many entries of the reconvergence stack the core holds (R124). -/
def Group.held (g : Group) : Nat := g.stack.length - g.spilled

/-- The lowest address of stack entry i in the spill area, which TRAPADDR receives for an entry with a reserved field that is not
zero; 0 where there is no area (R114, R125; notes/assumptions/95.md). -/
def State.entryAddr (s : State) (g : Group) (i : Nat) : Nat :=
  match s.spillArea g with
  | some (base, lg) => base + (2 ^ lg - 64 * (i + 1))
  | none => 0

/-- The spill of the lowest stack entry that the core holds (R114, R115, R124). Slots that the core holds do not rest on
images that the entry overwrites. -/
def State.spillEntry (s : State) (g : Group) : State × Except Sill Group :=
  let i := g.spilled
  match s.spillArea g, g.stack.reverse[i]? with
  | some (_, lg), some e =>
    if 2 ^ lg < 64 * (i + 1) + 512 * (g.highOut - 7) then (s, .error .full) else
    match s.sillKey g (2 ^ lg - 64 * (i + 1)) 64 true with
    | (s1, .at key _) =>
      let low (r : RingSlot) : Bool := decide (512 * (r.abs.getD 7 - 7) + 64 * (i + 1) ≤ 2 ^ lg)
      (s1, .ok { (g.enqueue [{ storeEntry g.nextPos 0 key (stackImage e) g.fence with split := 4 }]) with
        spilled := g.spilled + 1, ring := g.ring.map fun r => { r with clean := r.clean && low r } })
    | (s1, x) => (s1, .error x)
  | _, _ => (s, .error .full)

/-- How a set of transfers ended: all made; kept waiting by an older entry that bars a refill; or met a failure. -/
inductive Moved where
  | ok
  | barred
  | bad (e : Sill)
  deriving DecidableEq, Repr

/-- The refill of the topmost spilled stack entry (R117, R124, R125). -/
def State.refillEntry (s : State) (g : Group) : State × Group × Moved :=
  match g.spilled, s.spillArea g with
  | 0, _ => (s, g, .ok)
  | _, none => (s, g, .bad .full)
  | i + 1, some (_, lg) =>
    match s.sillKey g (2 ^ lg - 64 * (i + 1)) 64 false with
    | (s1, .at key home) =>
      match g.loadNow s1 key 64 home with
      | none => (s1, g, .barred)
      | some (s2, bs) =>
        let e := imageStack bs
        if e.bad then (s2, g, .bad (.fault (s.entryAddr g i)))
        else (s2, { g with stack := g.stack.set (g.stack.length - 1 - i) e, spilled := i }, .ok)
    | (s1, x) => (s1, g, .bad x)

/-- Entries that a pop has exposed come back until the core holds the 16 topmost, n of them at most (R114, R124). -/
def State.refillStack (s : State) (g : Group) : Nat → State × Group × Moved
  | 0 => (s, g, .ok)
  | n + 1 =>
    if g.spilled = 0 ∨ 16 ≤ g.held then (s, g, .ok) else
    match s.refillEntry g with
    | (s1, g1, .ok) => s1.refillStack g1 n
    | r => r

/-- The image of stack entry j in the spill area is not what the stack holds now (R114). -/
def Group.stale (g0 g : Group) (j : Nat) : Bool :=
  !(decide (j < g0.spilled) && g0.stack.reverse[j]? == g.stack.reverse[j]?)

/-- The core keeps the 16 topmost entries: lower ones leave it, a changed one by a spill, n of them at most (R114, R124). -/
def State.trimStack (s : State) (g0 g : Group) : Nat → State × Except Sill Group
  | 0 => (s, .ok g)
  | n + 1 =>
    if g.held ≤ 16 then (s, .ok g)
    else if g0.stale g g.spilled then
      match s.spillEntry g with
      | (s1, .ok g1) => s1.trimStack g0 g1 n
      | r => r
    else s.trimStack g0 { g with spilled := g.spilled + 1 } n

/-- A stack entry pushed; a push beyond 16 held spills the lowest entry held (R124). -/
def State.push (s : State) (g : Group) (e : StackEntry) : State × Except Sill Group :=
  let (s1, r) := if 16 ≤ g.held then s.spillEntry g else (s, .ok g)
  match r with
  | .ok g1 => (s1, .ok { g1 with stack := e :: g1.stack })
  | .error x => (s1, .error x)

/-- The stack of a divergence: the lowest of 16 held entries is spilled, or entries that a pop has exposed come back; the new
entry is pushed, and the core holds the 16 topmost (R122, R124, R129). -/
def State.pushDivergence (s : State) (g : Group) (e : StackEntry) : State × Group × Moved :=
  if 16 ≤ g.held then
    match s.push g e with
    | (s1, .ok g1) => (s1, g1, .ok)
    | (s1, .error x) => (s1, g, .bad x)
  else
    match s.refillStack g 16 with
    | (s1, g1, .ok) => (s1, { g1 with stack := e :: g1.stack, spilled := max g1.spilled (g1.stack.length - 15) }, .ok)
    | (s1, _, r) => (s1, g, r)

/-- A list of numbers in ascending order. -/
def insertNat (x : Nat) : List Nat → List Nat
  | [] => [x]
  | y :: r => if x ≤ y then x :: y :: r else y :: insertNat x r
def sortNat : List Nat → List Nat
  | [] => []
  | x :: r => insertNat x (sortNat r)

/-- The slots of the window of a base, ascending. -/
def Group.windowSlots (g : Group) (base : Nat) : List Nat := (List.range g.span).map (base + 8 + ·)

/-- The slots that stand where the window of a base needs room, ascending. -/
def Group.occupants (g : Group) (base : Nat) : List Nat :=
  sortNat (((g.windowSlots base).map fun n =>
    match (g.at' n).abs with
    | some a => if a = n then [] else [a]
    | none => []).flatten)

/-- A slot that must make room is yet to be written by a load or an operation. -/
def Group.windowPending (g : Group) (base : Nat) : Bool :=
  (g.occupants base).any fun a => g.vecPending a || g.scalPending (.slot a)

/-- Room made in the ring, in ascending order: dead slots (above every live base and every parked one) are discarded, clean copies
are dropped, spillable slots are spilled; a slot held by a live split stays, and bars the way (R109, R110, R112, R129). -/
def State.makeRoom (s : State) (g : Group) (live : List Nat) : List Nat → State × Group × Moved
  | [] => (s, g, .ok)
  | a :: rest =>
    if g.dead (live ++ g.parkedBases) a then s.makeRoom g live rest
    else if live.any fun b => g.inWindow b a then (s, g, .barred)
    else if (g.at' a).clean then s.makeRoom { g with out := a :: g.out } live rest
    else
      match s.spillSlot g a with
      | (s1, .ok g1) => s1.makeRoom { g1 with out := a :: g1.out } live rest
      | (s1, .error e) => (s1, g, .bad e)

/-- Contents that slots of the group have held, any of them: what a slot that was dead holds as it enters a window (R109;
notes/assumptions/7.md). -/
def State.deadContents (s : State) (g : Group) : State × VReg × Word :=
  let held := g.contents
  let (s1, n) := s.pick
  let (s2, k) := s1.pick
  (s2, (held.getD (n % held.length) (VReg.zero, 0)).1, (held.getD (k % held.length) (VReg.zero, 0)).2)

/-- The slots of a window enter the ring, ascending: spilled slots are refilled by loads at a position of the group's queues,
and a slot that was dead under the bases `old`, or is nowhere, enters with contents that the group has held (R109, R117, R118,
R129). -/
def State.fillWindow (s : State) (pos : Nat) (old : List Nat) (g : Group) : List Nat → State × Group × Moved
  | [] => (s, g, .ok)
  | n :: rest =>
    if (g.at' n).abs = some n ∧ g.dead old n = false then s.fillWindow pos old g rest
    else if g.out.contains n = true ∧ g.dead old n = false then
      match s.sillKey g (512 * (n - 8)) 512 false with
      | (s1, .at key home) =>
        match g.loadAt s1 pos key 512 home with
        | none => (s1, g, .barred)
        | some (s2, bs) =>
          let x := imageSlot bs
          (s2.count (g.host / 8) (some g.ctx) 6 1).fillWindow pos old
            { g.putSlot n { abs := some n, vec := x.1, scal := x.2, clean := true, since := none } with
              out := g.out.filter (· != n) } rest
      | (s1, e) => (s1, g, .bad e)
    else
      let x := s.deadContents g
      x.1.fillWindow pos old
        (g.putSlot n { abs := some n, vec := x.2.1, scal := x.2.2, clean := false, since := none }) rest

/-- The window of a base made resident, its refills at a position of the group's queues, with a step between the spills and the
refills, the live splits having the bases `live` (R118, R129). Where a later transfer fails, what has been spilled stays spilled beside its copy in the ring, and the rest
is as before (R117). -/
def State.window (s : State) (g : Group) (pos : Nat) (live : List Nat) (base : Nat) (mid : State → Group → State × Group × Moved) :
    State × Group × Moved :=
  match s.makeRoom g live (g.occupants base) with
  | (s1, g1, .ok) =>
    let kept (x : Group) : Group := { x with stack := g.stack, spilled := g.spilled, out := g.out }
    match mid s1 g1 with
    | (s2, g2, .ok) =>
      match s2.fillWindow pos (g.bases ++ g.parkedBases) g2 (g2.windowSlots base) with
      | (s3, g3, .ok) => (s3, g3, .ok)
      | (s3, _, r) => (s3, kept g2, r)
    | (s2, _, r) => (s2, kept g1, r)
  | (s1, g1, r) => (s1, { g1 with out := g.out }, r)

/-- No step between spills and refills. -/
def noMid (s : State) (g : Group) : State × Group × Moved := (s, g, .ok)

/-- Sillage cannot make the window of a base resident yet: a slot that must make room is yet to be written, or is held by a live
split out of range, or an older entry bars a refill (R109, R110, R111). -/
def State.windowLater (s : State) (g : Group) (pos : Nat) (live : List Nat) (base : Nat) : Bool :=
  g.windowPending base || (match s.window g pos live base noMid with
    | (_, _, .barred) => true
    | _ => false)

/-- Slots that have become dead are no longer kept; a slot that has become spillable remembers the queue position at which it
did, and the latest fence before it (R109, R118, R200). -/
def Group.discard (g : Group) : Group :=
  if g.isFront then g else
  let bs := g.bases ++ g.parkedBases
  let since (r : RingSlot) : Option (Nat × Nat) := match r.abs with
    | some n => if g.spillable n then some (r.since.getD (g.nextPos, g.fence)) else none
    | none => none
  { g with out := g.out.filter (fun n => !g.dead bs n), ring := g.ring.map fun r => { r with since := since r }
           nextPos := g.nextPos + 1 }

/-! ## Traps (R266-R274) -/

/-- The cause codes (R269). -/
def causeCode : Cause → Nat
  | .illegal => 1 | .convergence => 2 | .regbounds => 3 | .page => 4 | .prot => 5 | .align => 6 | .spillfault => 7
  | .windowfull => 8 | .promise => 9 | .noninv => 10 | .spoverflow => 11 | .poison => 12 | .bkpt => 13 | .soft => 14
  | .fpexc => 15

/-- The split numbers of the other live splits of a group (R267). -/
def Group.sibl (g : Group) (no : Nat) : BitVec 4 :=
  g.splits.foldl (fun b k => if k.no = no then b else b ||| BitVec.twoPow 4 k.no) 0

/-- TRAPCAUSE (R267). -/
def causeWord (t : TrapInfo) (no : Nat) (frag nest : Bool) : Word :=
  t.code ++ t.sibl ++ BitVec.ofNat 2 no ++ BitVec.ofBool frag ++ BitVec.ofBool nest ++ (0 : BitVec 4) ++ t.access ++
    BitVec.ofNat 8 (causeCode t.cause)

/-- The fault record of R277, but for SEQ. -/
def faultRecord (trapAddr trapPc : DWord) (laneBase worker grp agent core cidx : Nat) (cause : Word) : BitVec 512 :=
  BitVec.ofNat 512 (cause.toNat + (cidx % 2 ^ 19) <<< 128 + (core % 2 ^ 9) <<< 183 + agent <<< 202 + (grp % 16) <<< 204 +
    (worker % 2 ^ 16) <<< 208 + (laneBase % 2 ^ 32) <<< 224 + trapPc.toNat <<< 256 + trapAddr.toNat <<< 320)

/-- A fault forwarded to the host: its record, numbered, waits for room in the fault ring, and what met it sleeps (R273,
R277, R304). -/
def State.forward (s : State) (ctx : Nat) (src : FaultSrc) (fr : BitVec 512) : State :=
  let c := s.ctx ctx
  s.setCtx { c with faultSeq := c.faultSeq + 1, heldFaults := c.heldFaults ++ [fr ||| BitVec.ofNat 512 (c.faultSeq <<< 384)]
                    sleepers := c.sleepers ++ [(c.faultSeq, src)] }

/-- Every sibling of a split is HELD (R128). -/
def Group.holdSiblings (g : Group) (no : Nat) : Group :=
  { g with splits := g.splits.map fun k =>
      if k.no = no ∨ ¬(k.state = .ready ∨ k.state = .blocked) then k
      else { k with prior := k.state, state := .held, heldBy := some no } }

/-- The siblings that a breakpoint of a split holds go back to the state they held (R276). -/
def Group.releaseHeld (g : Group) (no : Nat) : Group :=
  { g with splits := g.splits.map fun k =>
      if k.state = .held ∧ k.heldBy = some no then { k with state := k.prior, heldBy := none } else k }

/-- A gang gives up its runs for an eviction (R278, R289). -/
def State.evicting (s : State) : QId → Bool
  | .group g _ => (s.gang? g).any fun x => x.state == .resident && x.held
  | .front _ => false

/-- The VMAX that does not fuse at its next issue, outside a handler or in one (R157). -/
def Split.alone (k : Split) (inHandler : Bool) : Option DWord := if inHandler then k.noFuseIn else k.noFuse
/-- Which VMAX does not fuse, outside a handler or in one. -/
def Split.setAlone (k : Split) (inHandler : Bool) (pc : Option DWord) : Split :=
  if inHandler then { k with noFuseIn := pc } else { k with noFuse := pc }

/-- The agent of a split of a group. -/
def Group.agent (q : QId) (no : Nat) : Agent :=
  match q with
  | .group g i => .split g i no
  | .front c => .front c

/-- A trap is forwarded (R273): the trap registers are written, the agent sleeps, the host receives a record. -/
def State.forwardTrap (s : State) (q : QId) (g : Group) (k : Split) (t : TrapInfo) (nest : Bool) : State :=
  let c := s.ctx g.ctx
  let w := causeWord t k.no c.fragMode nest
  let w := if g.isFront then w &&& 0xFF03FFFF else w
  let k1 := { k with state := .sleeping, wait := .none, hold := .none, trap := none, trapCause := w, trapPc := t.pc
                     trapAddr := t.addr }
  let cidx := ((s.jobOf g).map (·.cidx)).getD 0
  let fr := faultRecord t.addr t.pc (if g.isFront then 0 else g.laneBase.toNat) g.worker g.idx (if g.isFront then 1 else 0)
    g.lcore cidx w
  (s.setGroup q (g.setSplit k1)).forward g.ctx (.agent (Group.agent q k.no)) fr

/-- A trap of a split of a group goes to the host and not to a handler (R273). -/
def Group.forwards (g : Group) (k : Split) : Bool := g.isFront || k.inHandler || g.tbase == 0

/-- Every store entry has drained, every load entry has been performed, and before a handler's first instruction all four counters
read zero; a trap that goes to the host waits for the queues alone (R210; notes/assumptions/30.md). -/
def Group.entryDue (g : Group) (k : Split) : Bool := g.drained && (g.forwards k || (g.copies == 0 && g.tiles == 0))

/-- Handler entry (R272), once the group's queues are settled (R210): the trap registers are written; in stack mode a trap
entry is pushed, in fragment mode the mask and base are saved; the split runs on at TBASE. A trap on the front, inside a
handler, or without a handler is forwarded (R273); so is a push that cannot be made. TBASE is read here, when the queues have
drained, and not as the trap is raised (R130 does not say; notes/assumptions/99.md). -/
def State.takeTrap (s : State) (q : QId) (g : Group) (k : Split) (t : TrapInfo) : State :=
  if g.forwards k then s.forwardTrap q g k t k.inHandler else
  let frag := (s.ctx g.ctx).fragMode
  let k1 := { k with trap := none, trapCause := causeWord t k.no frag false, trapPc := t.pc, trapAddr := t.addr
                     inHandler := true, pc := g.tbase, hold := .none }
  if frag then
    s.setGroup q (g.setSplit ({ k1 with entryMask := k.mask, entryBase := k.base }.ready (s.now g)))
  else
    let e : StackEntry := { kind := .trap, rpcv := true, rpc := t.pc, jpc := 0, jmask := k.mask, jbase := k.base, amask := 0
                            abase := 0, dmask := k.owned, bad := false }
    match s.push g e with
    | (s1, .ok g1) => s1.setGroup q (g1.setSplit (k1.ready (s.now g)))
    | (s1, .error x) =>
      let a := match x with | .fault a => a | _ => 0
      let c : Cause := match x with | .full => .windowfull | _ => .spillfault
      s1.forwardTrap q g k { t with cause := c, access := 5, addr := BitVec.ofNat 64 a, code := 0 } true

/-- A TRAPPED split enters its handler, or its trap is forwarded, once its group's operations are over (R210, R272, R273). -/
def State.settleTrap (s : State) (ag : Agent) : State :=
  match s.group? (qidOf ag) with
  | none => s
  | some g =>
    match g.split? (splitNoOf ag) with
    | none => s
    | some k =>
      match k.trap with
      | none => s
      | some t =>
        if g.entryDue k then (s.count (g.host / 8) (some g.ctx) 0x0E 1).takeTrap (qidOf ag) g k t else s

/-- A split or front traps (R29): it is TRAPPED, and its handler is entered at once where the queues are already empty.
`pc` is what TRAPPC receives. A BKPT holds the siblings (R128). -/
def State.raiseTrap (s : State) (ag : Agent) (c : Cause) (access : BitVec 4) (pc : DWord) (addr : Nat) (code : Byte) : State :=
  match s.group? (qidOf ag) with
  | none => s
  | some g =>
    match g.split? (splitNoOf ag) with
    | none => s
    | some k =>
      let t : TrapInfo := { cause := c, access := access, pc := pc, addr := BitVec.ofNat 64 addr, code := code
                            sibl := if g.isFront then 0 else g.sibl k.no }
      let k1 := { k with state := .trapped, wait := .none, hold := .none, trap := some t }
      let g1 := (g.setSplit k1).unpop k.no
      (s.setGroup (qidOf ag) (if c = .bkpt ∧ !g.isFront then g1.holdSiblings k.no else g1)).settleTrap ag

/-- The instruction traps and ends its run (R52, R53). -/
def Issue.raiseAt (m : Issue) (c : Cause) (access : BitVec 4) (pc : DWord) (addr : Nat) (code : Byte) : State :=
  m.commit.dropRun.raiseTrap m.ag c access pc addr code

/-- A trap whose TRAPPC is the instruction (R269). -/
def Issue.raise (m : Issue) (c : Cause) (access : BitVec 4) (addr : Nat) : State := m.raiseAt c access m.k.pc addr 0

/-- A failed check raised by the instruction, with the state that the checks left. -/
def Issue.fail (m : Issue) (s : State) (b : Bad) (access : BitVec 4) : State :=
  (m.withS s).raise b.cause access b.addr

/-- A Sillage transfer that an instruction needed and could not make (R115, R117). -/
def Issue.sillFail (m : Issue) (s : State) : Sill → State
  | .full => (m.withS s).raise .windowfull (if m.g.isFront then 0 else 5) 0
  | .fault a => (m.withS s).raise .spillfault 5 a
  | .at a _ => (m.withS s).raise .spillfault 5 a

end Sys2Proof.Machine
end

