-- ==== Sys2Proof/WellFormed.lean ====
section
/-!
DEFINITION. Which instructions the opcode map admits: the lengths of each opcode (R87-R93), the types, orders, scopes and
spaces it accepts, the limits of its immediates and of the fields that are no registers (R64-R72, R94-R96). What depends
on the machine (register numbers against the span, ACC against ACCT, the executing agent) is checked by the machine.
-/
namespace Sys2Proof

open Sys2Proof.Machine

/-- Word 1 is present (R60). -/
def hasW1 : Len → Bool
  | .l1 | .l3 => true
  | _ => false

/-- The length is accepted; IND bits stand only where word 1 does; IXS is 00 when no IND bit is set (R66). -/
def hdOk (h : Hd) (lens : List Len) (inds : List Bool) : Bool :=
  decide (h.len ∈ lens) && (!inds.any id || hasW1 h.len) && (inds.any id || h.ixs == 0)

/-- A type that M selects in LEN 00 and LEN 10, and TYPE otherwise (R65, R66). -/
def tyMOk (h : Hd) (t : Ty) (ts : List Ty) : Bool :=
  decide (t ∈ ts) && (hasW1 h.len || (tyM t).isSome)

/-- A type that is the default in LEN 00 and LEN 10, and TYPE otherwise (R65). -/
def tyDOk (h : Hd) (t dflt : Ty) (ts : List Ty) : Bool :=
  decide (t ∈ ts) && (hasW1 h.len || t == dflt)

/-- The IND bit of an operand B that is a register. -/
def SrcB.ind : SrcB → Bool
  | .reg o => o.ind
  | _ => false

/-- Operand B as a register, IMM32 or a literal, each in its length (R71, R72). -/
def srcOk (h : Hd) (t : Ty) : SrcB → Bool
  | .reg _ => h.len == .l0 || h.len == .l1
  | .imm _ => h.len == .l1
  | .lit v => h.len == .l2 && litFits t v

/-- Operand B as a register only (R388). -/
def srcRegOk : SrcB → Bool
  | .reg _ => true
  | _ => false

/-- The offset of a load or store: a register, or IMM32 in LEN 01 (R355). -/
def offOk (h : Hd) : SrcB → Bool
  | .reg _ => true
  | .imm _ => h.len == .l1
  | .lit _ => false

/-- The control word of MRD: a register in LEN 01, a literal with bits [63:32] zero in LEN 11 (R72, R223). -/
def mrdSrcOk (h : Hd) : SrcB → Bool
  | .reg _ => h.len == .l1
  | .imm _ => false
  | .lit v => h.len == .l3 && v >>> 32 == 0

/-- The immediate of a TI opcode in each length (R64, R71, R72). -/
def immOk (h : Hd) (t : Ty) : Imm → Bool
  | .i9 _ => h.len == .l0
  | .i32 _ => h.len == .l1
  | .lit v => h.len == .l2 && litFits t v

/-- The value of a TI immediate (R64, R71). -/
def immInt : Imm → Int
  | .i9 v => v.toInt
  | .i32 v => v.toInt
  | .lit v => v.toInt

/-- The offset of CALL in each length (R71). -/
def callOk (h : Hd) : CallOff → Bool
  | .o15 _ => h.len == .l0
  | .o32 _ => h.len == .l1

/-- A window slide (R64). -/
def slideOk (k : RegNo) : Bool := decide (k ≤ 56)

/-- The threshold of WAIT (R96). -/
def waitOk : Imm → Bool
  | .i9 v => decide (0 ≤ v.toInt)
  | .i32 v => decide (v < 0x1000000)
  | .lit _ => false

/-- An immediate shift count (R96), a literal in its place too (notes/assumptions/35.md). -/
def shiftOk (t : Ty) (i : Imm) : Bool := decide (0 ≤ immInt i) && decide (immInt i < tyBits t)

/-- The immediate field of SBFE (R96). -/
def fieldOk : Imm → Bool
  | .i9 _ => true
  | .i32 v => v >>> 10 == 0
  | .lit _ => false

/-- uno and ord take floating types only (R94). -/
def cmpOk (c : CmpOp) (t : Ty) : Bool := tyFloat t || !(c == .uno || c == .ord)

/-- OPF [60:58] (R95): a rounding other than nearest-even stands in word 1 and requires a floating type. -/
def rndOk (h : Hd) (t : Ty) (r : Rnd) : Bool := r == .ne || (hasW1 h.len && tyFloat t && r != .sto)

/-- An operand that the form does not name is zero (R86). -/
def unusedOk (used : Bool) (o : Opnd) : Bool := used || (o.n == 0 && !o.ind)

/-- The roundings of VCVT, and its operand B (R96, R151). -/
def cvtOk (t src : Ty) (r : Rnd) (b : Opnd) : Bool :=
  (r == .ne || tyFloat t || tyFloat src) && (r != .sto || tyFloat t) && unusedOk (r == .sto) b

/-- Operand C of an atomic: cas only, which LEN 00 does not hold (R320). -/
def casOk (h : Hd) (o : AtomOp) (c : Opnd) : Bool := unusedOk (o == .cas) c && (o != .cas || h.len != .l0)

/-- The memory attributes that an opcode accepts; LEN 00 holds none (R66, R69, R159). -/
def memOk (h : Hd) (m : MemAttr) (poll : Bool) (os : List Order) (ss : List Space) : Bool :=
  (poll || !m.poll) && decide (m.order ∈ os) && decide (m.space ∈ ss) &&
    (hasW1 h.len || (!m.poll && m.order == .rlx && m.scope == .dev && m.space == .gv))

/-- The scopes that an opcode accepts; LEN 00 is at device scope (R68). -/
def scopeOk (h : Hd) (c : Scope) (cs : List Scope) : Bool := decide (c ∈ cs) && (hasW1 h.len || c == .dev)

/-- An accumulator tile (R71). -/
def accOk (a : AccNo) : Bool := decide (a ≤ 4)

/-- tick needs cmp; with cmp, operand B is a register (R95, R224). -/
def mrdOk (cmp tick : Bool) (b : SrcB) : Bool := (cmp || !tick) && (!cmp || srcRegOk b)

/-- Is an instruction one that the opcode map admits? A device event is none: no program holds it. -/
def Instr.wf : Instr → Bool
  | .bra h _ => hdOk h [.l0] []
  | .brc h a off => hdOk h [.l0, .l1] [a.ind] && immOk h .i32 off
  | .brz h a off => hdOk h [.l0, .l1] [a.ind] && immOk h .i32 off
  | .brd h a off => hdOk h [.l0, .l1] [a.ind] && immOk h .i32 off
  | .jmpiS h _ => hdOk h [.l0] []
  | .jmpiV h _ => hdOk h [.l0] []
  | .call h k off => hdOk h [.l0, .l1] [] && slideOk k && callOk h off
  | .calliS h k _ => hdOk h [.l0] [] && slideOk k
  | .calliV h k _ => hdOk h [.l0] [] && slideOk k
  | .ret h => hdOk h [.l0] []
  | .recv h => hdOk h [.l0] []
  | .rtt h => hdOk h [.l0] []
  | .loop h lc a off => hdOk h [.l0, .l1] [a.ind] && decide (lc ≤ 2) && immOk h .i32 off && decide (1 ≤ immInt off)
  | .nop h => hdOk h [.l0] []
  | .endI h => hdOk h [.l0] []
  | .fence h order _ => hdOk h [.l1] [] && decide (order ≠ .rlx)
  | .trap h _ => hdOk h [.l0] []
  | .bkpt h => hdOk h [.l0] []
  | .wait h _ n => hdOk h [.l0, .l1] [] && immOk h .i32 n && waitOk n
  | .sleep h _ => hdOk h [.l0] []
  | .wakeat h _ => hdOk h [.l0] []
  | .sync h => hdOk h [.l0] []
  | .publish h _ => hdOk h [.l1] []
  | .deq h _ _ _ => hdOk h [.l0] []
  | .enq h _ _ _ _ => hdOk h [.l0] []
  | .dqpop h _ _ _ => hdOk h [.l0] []
  | .dqpush h _ => hdOk h [.l0] []
  | .emit h _ _ => hdOk h [.l0] []
  | .bbi h _ _ => hdOk h [.l0] []
  | .bba h _ _ => hdOk h [.l0] []
  | .bbw h _ => hdOk h [.l0] []
  | .smov h ty d a => hdOk h [.l0, .l1] [d.ind, a.ind] && tyMOk h ty tysMove
  | .sadd h ty d a b => hdOk h [.l0, .l1, .l2] [d.ind, a.ind, b.ind] && tyMOk h ty tysInt && srcOk h ty b
  | .ssub h ty d a b => hdOk h [.l0, .l1, .l2] [d.ind, a.ind, b.ind] && tyMOk h ty tysInt && srcOk h ty b
  | .smul h ty d a b => hdOk h [.l0, .l1, .l2] [d.ind, a.ind, b.ind] && tyMOk h ty tysInt && srcOk h ty b
  | .sdiv h ty d a b => hdOk h [.l0, .l1, .l2] [d.ind, a.ind, b.ind] && tyMOk h ty tysInt && srcOk h ty b
  | .smin h ty d a b => hdOk h [.l0, .l1, .l2] [d.ind, a.ind, b.ind] && tyMOk h ty tysInt && srcOk h ty b
  | .smax h ty d a b => hdOk h [.l0, .l1, .l2] [d.ind, a.ind, b.ind] && tyMOk h ty tysInt && srcOk h ty b
  | .sand h ty d a b => hdOk h [.l0, .l1, .l2] [d.ind, a.ind, b.ind] && tyMOk h ty tysInt && srcOk h ty b
  | .sor h ty d a b => hdOk h [.l0, .l1, .l2] [d.ind, a.ind, b.ind] && tyMOk h ty tysInt && srcOk h ty b
  | .sxor h ty d a b => hdOk h [.l0, .l1, .l2] [d.ind, a.ind, b.ind] && tyMOk h ty tysInt && srcOk h ty b
  | .sshl h ty d a b => hdOk h [.l0, .l1, .l2] [d.ind, a.ind, b.ind] && tyMOk h ty tysInt && srcOk h ty b
  | .sshr h ty d a b => hdOk h [.l0, .l1, .l2] [d.ind, a.ind, b.ind] && tyMOk h ty tysInt && srcOk h ty b
  | .scmp h c ty d a b => hdOk h [.l0, .l1, .l2] [d.ind, a.ind, b.ind] && tyDOk h ty .i32 tysInt && srcOk h ty b &&
      cmpOk c ty
  | .ssel h ty d a b c => hdOk h [.l1] [d.ind, a.ind, b.ind, c.ind] && tyMOk h ty tysMove && srcOk h ty b
  | .sbfe h ty d a b => hdOk h [.l0, .l1, .l2] [d.ind, a.ind, b.ind] && tyMOk h ty tysInt && srcOk h ty b
  | .sbfi h ty d a b c => hdOk h [.l1] [d.ind, a.ind, b.ind, c.ind] && tyMOk h ty tysInt && srcOk h ty b
  | .smovImm h ty d i => hdOk h [.l0, .l1, .l2] [d.ind] && tyDOk h ty .i32 tysTiS && immOk h ty i
  | .saddImm h ty d a i => hdOk h [.l0, .l1, .l2] [d.ind, a.ind] && tyDOk h ty .i32 tysTiS && immOk h ty i
  | .ssubImm h ty d a i => hdOk h [.l0, .l1, .l2] [d.ind, a.ind] && tyDOk h ty .i32 tysTiS && immOk h ty i
  | .smulImm h ty d a i => hdOk h [.l0, .l1, .l2] [d.ind, a.ind] && tyDOk h ty .i32 tysTiS && immOk h ty i
  | .sdivImm h ty d a i => hdOk h [.l0, .l1, .l2] [d.ind, a.ind] && tyDOk h ty .i32 tysTiS && immOk h ty i
  | .sminImm h ty d a i => hdOk h [.l0, .l1, .l2] [d.ind, a.ind] && tyDOk h ty .i32 tysTiS && immOk h ty i
  | .smaxImm h ty d a i => hdOk h [.l0, .l1, .l2] [d.ind, a.ind] && tyDOk h ty .i32 tysTiS && immOk h ty i
  | .sandImm h ty d a i => hdOk h [.l0, .l1, .l2] [d.ind, a.ind] && tyDOk h ty .i32 tysTiS && immOk h ty i
  | .sorImm h ty d a i => hdOk h [.l0, .l1, .l2] [d.ind, a.ind] && tyDOk h ty .i32 tysTiS && immOk h ty i
  | .sxorImm h ty d a i => hdOk h [.l0, .l1, .l2] [d.ind, a.ind] && tyDOk h ty .i32 tysTiS && immOk h ty i
  | .sshlImm h ty d a i => hdOk h [.l0, .l1, .l2] [d.ind, a.ind] && tyDOk h ty .i32 tysTiS && immOk h ty i &&
      shiftOk ty i
  | .sshrImm h ty d a i => hdOk h [.l0, .l1, .l2] [d.ind, a.ind] && tyDOk h ty .i32 tysTiS && immOk h ty i &&
      shiftOk ty i
  | .spopc h ty d a => hdOk h [.l0, .l1] [d.ind, a.ind] && tyMOk h ty tysInt
  | .sclz h ty d a => hdOk h [.l0, .l1] [d.ind, a.ind] && tyMOk h ty tysInt
  | .sbfeImm h ty d a i => hdOk h [.l0, .l1] [d.ind, a.ind] && tyDOk h ty .n32 tysTiS && immOk h ty i && fieldOk i
  | .vmov h ty d a => hdOk h [.l0, .l1] [d.ind, a.ind] && tyMOk h ty tysNum
  | .vadd h ty r d a b => hdOk h [.l0, .l1, .l2] [d.ind, a.ind, b.ind] && tyMOk h ty tysNum && srcOk h ty b &&
      rndOk h ty r
  | .vsub h ty r d a b => hdOk h [.l0, .l1, .l2] [d.ind, a.ind, b.ind] && tyMOk h ty tysNum && srcOk h ty b &&
      rndOk h ty r
  | .vmul h ty r d a b => hdOk h [.l0, .l1, .l2] [d.ind, a.ind, b.ind] && tyMOk h ty tysNum && srcOk h ty b &&
      rndOk h ty r
  | .vmad h ty r d a b c => hdOk h [.l1] [d.ind, a.ind, b.ind, c.ind] && tyMOk h ty tysNum && srcRegOk b && rndOk h ty r
  | .vdiv h ty r d a b => hdOk h [.l0, .l1, .l2] [d.ind, a.ind, b.ind] && tyMOk h ty tysNum && srcOk h ty b &&
      rndOk h ty r
  | .vmin h ty d a b => hdOk h [.l0, .l1, .l2] [d.ind, a.ind, b.ind] && tyMOk h ty tysNum && srcOk h ty b
  | .vmax h ty d a b => hdOk h [.l0, .l1, .l2] [d.ind, a.ind, b.ind] && tyMOk h ty tysNum && srcOk h ty b
  | .vand h ty d a b => hdOk h [.l0, .l1, .l2] [d.ind, a.ind, b.ind] && tyMOk h ty tysInt && srcOk h ty b
  | .vor h ty d a b => hdOk h [.l0, .l1, .l2] [d.ind, a.ind, b.ind] && tyMOk h ty tysInt && srcOk h ty b
  | .vxor h ty d a b => hdOk h [.l0, .l1, .l2] [d.ind, a.ind, b.ind] && tyMOk h ty tysInt && srcOk h ty b
  | .vshl h ty d a b => hdOk h [.l0, .l1, .l2] [d.ind, a.ind, b.ind] && tyMOk h ty tysInt && srcOk h ty b
  | .vshr h ty d a b => hdOk h [.l0, .l1, .l2] [d.ind, a.ind, b.ind] && tyMOk h ty tysInt && srcOk h ty b
  | .vbfe h ty d a b => hdOk h [.l0, .l1, .l2] [d.ind, a.ind, b.ind] && tyMOk h ty tysInt && srcOk h ty b
  | .vbfi h ty d a b c => hdOk h [.l1] [d.ind, a.ind, b.ind, c.ind] && tyMOk h ty tysInt && srcRegOk b
  | .vsel h ty d a b c => hdOk h [.l1] [d.ind, a.ind, b.ind, c.ind] && tyMOk h ty tysNum && srcRegOk b
  | .vcmp h c ty d a b => hdOk h [.l0, .l1, .l2] [d.ind, a.ind, b.ind] && tyDOk h ty .f32 tysNum && srcOk h ty b &&
      cmpOk c ty
  | .vabs h ty d a => hdOk h [.l0, .l1] [d.ind, a.ind] && tyMOk h ty tysSign
  | .vneg h ty d a => hdOk h [.l0, .l1] [d.ind, a.ind] && tyMOk h ty tysSign
  | .vpopc h ty d a => hdOk h [.l0, .l1] [d.ind, a.ind] && tyMOk h ty tysInt
  | .vclz h ty d a => hdOk h [.l0, .l1] [d.ind, a.ind] && tyMOk h ty tysInt
  | .vclass h ty d a => hdOk h [.l0, .l1] [d.ind, a.ind] && tyMOk h ty tysClass
  | .vcvt h ty src r _ d a b => hdOk h [.l1] [d.ind, a.ind, b.ind] && decide (ty ∈ tysCvt) &&
      decide (src ∈ tysCvt) && cvtOk ty src r b
  | .vrcp h ty r d a => hdOk h [.l0, .l1] [d.ind, a.ind] && tyMOk h ty tysFun && rndOk h ty r
  | .vrsq h ty r d a => hdOk h [.l0, .l1] [d.ind, a.ind] && tyMOk h ty tysFun && rndOk h ty r
  | .vsqrt h ty r d a => hdOk h [.l0, .l1] [d.ind, a.ind] && tyMOk h ty tysFun && rndOk h ty r
  | .vexp2 h ty r d a => hdOk h [.l0, .l1] [d.ind, a.ind] && tyMOk h ty tysFun && rndOk h ty r
  | .vlog2 h ty r d a => hdOk h [.l0, .l1] [d.ind, a.ind] && tyMOk h ty tysFun && rndOk h ty r
  | .vsin h ty r d a => hdOk h [.l0, .l1] [d.ind, a.ind] && tyMOk h ty tysFun && rndOk h ty r
  | .vcos h ty r d a => hdOk h [.l0, .l1] [d.ind, a.ind] && tyMOk h ty tysFun && rndOk h ty r
  | .vrnd h d a => hdOk h [.l0, .l1] [d.ind, a.ind]
  | .vmovSb h ty d a => hdOk h [.l0, .l1] [d.ind, a.ind] && tyMOk h ty tysNum
  | .vaddSb h ty r d a b => hdOk h [.l0, .l1] [d.ind, a.ind, b.ind] && tyMOk h ty tysNum && srcRegOk b && rndOk h ty r
  | .vsubSb h ty r d a b => hdOk h [.l0, .l1] [d.ind, a.ind, b.ind] && tyMOk h ty tysNum && srcRegOk b && rndOk h ty r
  | .vmulSb h ty r d a b => hdOk h [.l0, .l1] [d.ind, a.ind, b.ind] && tyMOk h ty tysNum && srcRegOk b && rndOk h ty r
  | .vmadSb h ty r d a b c => hdOk h [.l1] [d.ind, a.ind, b.ind, c.ind] && tyMOk h ty tysNum && srcRegOk b &&
      rndOk h ty r
  | .vdivSb h ty r d a b => hdOk h [.l0, .l1] [d.ind, a.ind, b.ind] && tyMOk h ty tysNum && srcRegOk b && rndOk h ty r
  | .vminSb h ty d a b => hdOk h [.l0, .l1] [d.ind, a.ind, b.ind] && tyMOk h ty tysNum && srcRegOk b
  | .vmaxSb h ty d a b => hdOk h [.l0, .l1] [d.ind, a.ind, b.ind] && tyMOk h ty tysNum && srcRegOk b
  | .vandSb h ty d a b => hdOk h [.l0, .l1] [d.ind, a.ind, b.ind] && tyMOk h ty tysInt && srcRegOk b
  | .vorSb h ty d a b => hdOk h [.l0, .l1] [d.ind, a.ind, b.ind] && tyMOk h ty tysInt && srcRegOk b
  | .vxorSb h ty d a b => hdOk h [.l0, .l1] [d.ind, a.ind, b.ind] && tyMOk h ty tysInt && srcRegOk b
  | .vshlSb h ty d a b => hdOk h [.l0, .l1] [d.ind, a.ind, b.ind] && tyMOk h ty tysInt && srcRegOk b
  | .vshrSb h ty d a b => hdOk h [.l0, .l1] [d.ind, a.ind, b.ind] && tyMOk h ty tysInt && srcRegOk b
  | .vbfeSb h ty d a b => hdOk h [.l0, .l1] [d.ind, a.ind, b.ind] && tyMOk h ty tysInt && srcRegOk b
  | .vbfiSb h ty d a b c => hdOk h [.l1] [d.ind, a.ind, b.ind, c.ind] && tyMOk h ty tysInt && srcRegOk b
  | .vselSb h ty d a b c => hdOk h [.l1] [d.ind, a.ind, b.ind, c.ind] && tyMOk h ty tysNum && srcRegOk b
  | .vcmpSb h c ty d a b => hdOk h [.l0, .l1] [d.ind, a.ind, b.ind] && tyDOk h ty .f32 tysNum && srcRegOk b &&
      cmpOk c ty
  | .vmovImm h ty d i => hdOk h [.l0, .l1, .l2] [d.ind] && tyDOk h ty .b32 tysTiV && immOk h ty i
  | .vaddImm h ty d a i => hdOk h [.l0, .l1, .l2] [d.ind, a.ind] && tyDOk h ty .i32 tysTiV && immOk h ty i
  | .vminImm h ty d a i => hdOk h [.l0, .l1, .l2] [d.ind, a.ind] && tyDOk h ty .i32 tysTiV && immOk h ty i
  | .vmaxImm h ty d a i => hdOk h [.l0, .l1, .l2] [d.ind, a.ind] && tyDOk h ty .i32 tysTiV && immOk h ty i
  | .vandImm h ty d a i => hdOk h [.l0, .l1, .l2] [d.ind, a.ind] && tyDOk h ty .b32 tysTiV && immOk h ty i
  | .vorImm h ty d a i => hdOk h [.l0, .l1, .l2] [d.ind, a.ind] && tyDOk h ty .b32 tysTiV && immOk h ty i
  | .vxorImm h ty d a i => hdOk h [.l0, .l1, .l2] [d.ind, a.ind] && tyDOk h ty .b32 tysTiV && immOk h ty i
  | .xsel h ty d a b => hdOk h [.l0, .l1] [d.ind, a.ind, b.ind] && tyMOk h ty tysMove
  | .xred h o ty d a => hdOk h [.l0, .l1] [d.ind, a.ind] && tyDOk h ty .i32 (tysRed o)
  | .xscan h o seg ex ty d a b => hdOk h [.l0, .l1] [d.ind, a.ind, b.ind] && tyDOk h ty .i32 (tysRed o) && unusedOk seg b &&
      (hasW1 h.len || !(seg || ex))
  | .xget h ty d a b => hdOk h [.l0, .l1] [d.ind, a.ind, b.ind] && tyMOk h ty tysMove
  | .xgetImm h _ _ lane => hdOk h [.l0] [] && decide (lane ≤ 95)
  | .xselSb h ty d a b => hdOk h [.l0, .l1] [d.ind, a.ind, b.ind] && tyMOk h ty tysMove
  | .vshlImm h ty d a i => hdOk h [.l0, .l1, .l2] [d.ind, a.ind] && tyDOk h ty .b32 tysTiV && immOk h ty i &&
      shiftOk ty i
  | .vshrImm h ty d a i => hdOk h [.l0, .l1, .l2] [d.ind, a.ind] && tyDOk h ty .n32 tysTiV && immOk h ty i &&
      shiftOk ty i
  | .ldVA h m ty d a b => hdOk h [.l0, .l1] [d.ind, a.ind, b.ind] && tyMOk h ty tysMem && offOk h b &&
      memOk h m true [.rlx, .acq, .sc] [.gv, .sp, .ws, .qw]
  | .ldSA h m ty d a b => hdOk h [.l0, .l1] [d.ind, a.ind, b.ind] && tyMOk h ty tysMem && offOk h b &&
      memOk h m true [.rlx, .acq, .sc] [.gv, .sp, .ws, .qw, .rm]
  | .ldl h m a b => hdOk h [.l0, .l1] [a.ind, b.ind] && offOk h b && memOk h m false [.rlx] [.gv, .sp, .ws, .qw] &&
      decide (m.scope = .dev)
  | .lds h m ty d a b => hdOk h [.l0, .l1] [d.ind, a.ind, b.ind] && tyMOk h ty tysMem && offOk h b &&
      memOk h m true [.rlx, .acq, .sc] [.gv, .sp, .ws, .qw, .rm]
  | .stVA h m ty d a b => hdOk h [.l0, .l1] [d.ind, a.ind, b.ind] && tyMOk h ty tysMem && offOk h b &&
      memOk h m false [.rlx, .rel, .sc] [.gv, .sp, .ws, .qw]
  | .stSA h m ty d a b => hdOk h [.l0, .l1] [d.ind, a.ind, b.ind] && tyMOk h ty tysMem && offOk h b &&
      memOk h m false [.rlx, .rel, .sc] [.gv, .sp, .ws, .qw, .rm]
  | .sts h m ty d a b => hdOk h [.l0, .l1] [d.ind, a.ind, b.ind] && tyMOk h ty tysMem && offOk h b &&
      memOk h m false [.rlx, .rel, .sc] [.gv, .sp, .ws, .qw, .rm]
  | .ldSAVB h m ty d a b => hdOk h [.l0, .l1] [d.ind, a.ind, b.ind] && tyMOk h ty tysMem &&
      memOk h m true [.rlx, .acq, .sc] [.gv, .sp, .ws, .qw, .rm]
  | .atomV h o m ty d a b c => hdOk h [.l0, .l1] [d.ind, a.ind, b.ind, c.ind] && tyDOk h ty .i32 (tysAtom o) &&
      memOk h m false [.rlx, .acq, .rel, .ar, .sc] [.gv, .sp, .qw] && casOk h o c
  | .atomS h o m ty d a b c => hdOk h [.l0, .l1] [d.ind, a.ind, b.ind, c.ind] && tyDOk h ty .i32 (tysAtom o) &&
      memOk h m false [.rlx, .acq, .rel, .ar, .sc] [.gv, .sp, .qw] && casOk h o c
  | .ratomV h o m ty d a b c => hdOk h [.l1] [d.ind, a.ind, b.ind, c.ind] && decide (ty ∈ (tysAtom o)) &&
      memOk h m false [.rlx, .acq, .rel, .ar, .sc] [.rm] && decide (m.scope = .pod)
  | .ratomS h o m ty d a b c => hdOk h [.l1] [d.ind, a.ind, b.ind, c.ind] && decide (ty ∈ (tysAtom o)) &&
      memOk h m false [.rlx, .acq, .rel, .ar, .sc] [.rm] && decide (m.scope = .pod)
  | .flush h _ scope => hdOk h [.l0, .l1] [] && scopeOk h scope [.dev, .sys]
  | .icinv h _ => hdOk h [.l0] []
  | .tlbinv h page scope a => hdOk h [.l0, .l1] [] && scopeOk h scope [.dev, .core] && decide (page = true ∨ a = 0)
  | .cpy h _ _ _ => hdOk h [.l0, .l1] []
  | .cpyTid h _ _ _ _ => hdOk h [.l1] []
  | .kick h _ _ => hdOk h [.l0] []
  | .mma h ty acc a _ asc c => hdOk h [.l1] [a.ind, c.ind] && decide (ty ∈ tysMma) && accOk acc && unusedOk asc c
  | .mmas h _ ty acc a _ _ asc c => hdOk h [.l1] [a.ind, c.ind] && decide (ty ∈ tysMma) && accOk acc && unusedOk asc c
  | .mrdV h ty cmp tick d acc b => hdOk h [.l1, .l3] [d.ind, b.ind] &&
      decide (ty ∈ (if cmp then tysMrdCmpV else tysClass)) && mrdSrcOk h b && accOk acc && mrdOk cmp tick b
  | .mrdS h ty space cmp tick a acc b => hdOk h [.l1, .l3] [a.ind, b.ind] &&
      decide (ty ∈ (if cmp then tysMrdCmpS else tysClass)) && mrdSrcOk h b && accOk acc && mrdOk cmp tick b &&
      decide (space = .gv ∨ space = .sp)
  | .mclr h acc => hdOk h [.l1] [] && accOk acc
  | .mwb h _ _ => hdOk h [.l1] []
  | .mwbLayer h _ _ _ => hdOk h [.l1] []
  | .tdef h _ _ => hdOk h [.l1] []
  | .tdefGet h _ _ => hdOk h [.l1] []
  | .pload h _ a => hdOk h [.l1] [a.ind]
  | .pgenV h _ d _ a => hdOk h [.l1] [d.ind, a.ind]
  | .pgenS h _ d _ a => hdOk h [.l1] [d.ind, a.ind]
  | .ginwSmp h d a b => hdOk h [.l0, .l1] [d.ind, a.ind, b.ind]
  | .ginwEdge h d a b => hdOk h [.l0, .l1] [d.ind, a.ind, b.ind]
  | .ginwRay h d a b => hdOk h [.l0, .l1] [d.ind, a.ind, b.ind]
  | .grasS h _ _ => hdOk h [.l1] []
  | .grasV h _ _ => hdOk h [.l1] []
  | .grep h _ _ _ => hdOk h [.l1] []
  | .gqryV h _ d a _ => hdOk h [.l1] [d.ind, a.ind]
  | .gqryS h _ d a _ => hdOk h [.l1] [d.ind, a.ind]
  | .gpopV h d a => hdOk h [.l0, .l1] [d.ind, a.ind]
  | .gpopS h d a => hdOk h [.l0, .l1] [d.ind, a.ind]
  | .gbldVtx h _ _ _ _ => hdOk h [.l1] []
  | .gbldTri h _ _ _ _ => hdOk h [.l1] []
  | .gpatch h _ _ _ => hdOk h [.l1] []
  | .srd h _ reg => hdOk h [.l0] [] && (sregWidth reg).isSome
  | .swr h reg _ => hdOk h [.l0] [] && (sregWidth reg).isSome
  | .srdPair h _ reg => hdOk h [.l0] [] && (sregWidth reg).isSome
  | .swrPair h reg _ => hdOk h [.l0] [] && (sregWidth reg).isSome
  | .moduleReset => false
  | .firmwareUpdate _ => false
  | .hostLinkTrain _ _ _ => false
  | .gulLinkUp _ _ _ => false
  | .hifVersionSelect _ => false
  | .wsdropClear => false
  | .registerWrite _ _ => false
  | .eventCounterWrite _ _ _ => false
  | .contextCreate => false
  | .contextDestroy _ => false
  | .ctxcmdBadOp _ => false
  | .hostRead _ _ _ _ => false
  | .hostWrite _ _ _ _ => false
  | .wsHostWrite _ _ => false
  | .launchRead _ => false
  | .gangPlace _ => false
  | .frontRelease _ => false
  | .gangResourceRelease _ => false
  | .runIssue _ _ => false
  | .fusedExpSum _ => false
  | .drain _ _ => false
  | .propagate _ _ => false
  | .loadStep _ _ => false
  | .atomicStep _ _ => false
  | .fenceMarkLeave _ _ => false
  | .engineAccept _ => false
  | .engineLine _ _ => false
  | .engineArrival _ _ => false
  | .select _ _ => false
  | .tensorTableStep _ _ => false
  | .patternInstall _ _ => false
  | .tileOpComplete _ _ => false
  | .queryRoundReady _ _ => false
  | .sampleCommit _ _ => false
  | .grasReplay _ _ => false
  | .queueReserve _ => false
  | .queueHostImport _ _ => false
  | .gatherBatch _ _ => false
  | .gatherHoldExpire _ _ => false
  | .jobEndCondition _ => false
  | .jobComplete _ => false
  | .sillageSpill _ _ => false
  | .sillageRefill _ _ => false
  | .trapEntry _ => false
  | .faultForward _ => false
  | .faultRecordAppend _ => false
  | .resume _ => false
  | .abort _ => false
  | .migrate _ => false
  | .cmdUnknown _ => false
  | .migrateLine _ _ => false
  | .migrateSwap _ => false
  | .gangEvict _ => false
  | .copyQuiesce _ => false
  | .evictSave _ => false
  | .gangRestore _ => false
  | .coreStateHandover _ _ => false
  | .coreStateRestore _ _ => false
  | .sleepExpire _ => false
  | .wakeatExpire _ => false
  | .promiseExpire _ => false
  | .wsRefreshWindow => false
  | .powerBubble => false
  | .cycleStretch _ => false
  | .clusterModeChange _ _ => false
  | .elasticClockChange _ _ => false
  | .softError _ => false
  | .spdmMessage _ => false
  | .linkBlockResend _ => false
  | .podForward _ _ => false
  | .podAccessArrival _ => false

end Sys2Proof
end

