-- ==== Sys2Proof/Machine/Operands.lean ====
section
/-!
DEFINITION. Operands and the checks at issue: which registers each instruction names (R74, R86, R102), which instructions
the front accepts (R50) and which may fault (R52, R318, R337, R361, R382), the checks of R75, and the values of operands
(R64, R71-R73).
-/
namespace Sys2Proof.Machine

open Sys2Proof

/-! ## The registers an instruction names -/

/-- A register operand of an instruction: its kind, its field, and how many consecutive registers it names. -/
structure Use where
  vec : Bool
  o   : Opnd
  n   : Nat
  deriving DecidableEq, Repr

def useV (o : Opnd) (n : Nat) : List Use := [⟨true, o, n⟩]
def useS (o : Opnd) (n : Nat) : List Use := [⟨false, o, n⟩]
/-- A field without an IND bit. -/
def plain (r : RegNo) : Opnd := ⟨r, false⟩
/-- Operand B where it is a register. -/
def useB (vec : Bool) (b : SrcB) (n : Nat) : List Use :=
  match b with
  | .reg o => [⟨vec, o, n⟩]
  | _ => []

/-- Registers of an address operand: a pair in the global space and the weight store, one register in scratchpad and Quay
window, and in the pod space a pair with the device id behind it (R159, R355). -/
def addrRegs : Space → Nat
  | .gv | .ws => 2
  | .sp | .qw => 1
  | .rm => 3

/-- D, A and B of one type. -/
def use3 (vec bvec : Bool) (t : Ty) (d a : Opnd) (b : SrcB) : List Use :=
  ⟨vec, d, tyRegs t⟩ :: ⟨vec, a, tyRegs t⟩ :: useB bvec b (tyRegs t)

/-- D and A of one type, B one register. -/
def use3c (vec bvec : Bool) (t : Ty) (d a : Opnd) (b : SrcB) : List Use :=
  ⟨vec, d, tyRegs t⟩ :: ⟨vec, a, tyRegs t⟩ :: useB bvec b 1

/-- The registers that an instruction names (R74, R86). -/
def uses : Instr → List Use
  | .bra .. => []
  | .brc _ a _ | .brz _ a _ => useS a 1
  | .brd _ a _ => useV a 1
  | .jmpiS _ a => useS (plain a) 2
  | .jmpiV _ a => useV (plain a) 2
  | .call .. => []
  | .calliS _ _ a => useS (plain a) 2
  | .calliV _ _ a => useV (plain a) 2
  | .ret _ => useS (plain 8) 2
  | .recv _ | .rtt _ => []
  | .loop _ _ a _ => useS a 1
  | .nop _ | .endI _ | .fence .. | .trap .. | .bkpt _ | .wait .. => []
  | .sleep _ a => useS (plain a) 1
  | .wakeat _ a => useS (plain a) 2
  | .sync _ | .publish .. => []
  | .deq _ d a b => useV (plain d) 14 ++ useS (plain a) 1 ++ useS (plain b) 2
  | .enq _ d a b _ => useS (plain d) 2 ++ useS (plain a) 1 ++ useS (plain b) 1
  | .dqpop _ d a _ => useS (plain d) 2 ++ useS (plain a) 1
  | .dqpush _ a => useS (plain a) 2
  | .emit _ a b => useS (plain a) 1 ++ useV (plain b) 16
  | .bbi _ a b | .bba _ a b => useS (plain a) 1 ++ useS (plain b) 1
  | .bbw _ a => useS (plain a) 1
  | .smov _ t d a => useS d (tyRegs t) ++ useS a (tyRegs t)
  | .sadd _ t d a b | .ssub _ t d a b | .smul _ t d a b | .sdiv _ t d a b | .smin _ t d a b | .smax _ t d a b
  | .sand _ t d a b | .sor _ t d a b | .sxor _ t d a b => use3 false false t d a b
  | .sshl _ t d a b | .sshr _ t d a b => use3c false false t d a b
  | .scmp _ _ t d a b => useS d 1 ++ useS a (tyRegs t) ++ useB false b (tyRegs t)
  | .ssel _ t d a b c => use3 false false t d a b ++ useS c 1
  | .sbfe _ t d a b => use3c false false t d a b
  | .sbfi _ t d a b c => use3c false false t d a b ++ useS c (tyRegs t)
  | .smovImm _ t d _ => useS d (tyRegs t)
  | .saddImm _ t d a _ | .ssubImm _ t d a _ | .smulImm _ t d a _ | .sdivImm _ t d a _ | .sminImm _ t d a _
  | .smaxImm _ t d a _ | .sandImm _ t d a _ | .sorImm _ t d a _ | .sxorImm _ t d a _ | .sshlImm _ t d a _
  | .sshrImm _ t d a _ | .sbfeImm _ t d a _ => useS d (tyRegs t) ++ useS a (tyRegs t)
  | .spopc _ t d a | .sclz _ t d a => useS d 1 ++ useS a (tyRegs t)
  | .vmov _ t d a => useV d (tyRegs t) ++ useV a (tyRegs t)
  | .vadd _ t _ d a b | .vsub _ t _ d a b | .vmul _ t _ d a b | .vdiv _ t _ d a b => use3 true true t d a b
  | .vmad _ t _ d a b c => use3 true true t d a b ++ useV c (tyRegs t)
  | .vmin _ t d a b | .vmax _ t d a b | .vand _ t d a b | .vor _ t d a b | .vxor _ t d a b => use3 true true t d a b
  | .vshl _ t d a b | .vshr _ t d a b | .vbfe _ t d a b => use3c true true t d a b
  | .vbfi _ t d a b c => use3c true true t d a b ++ useV c (tyRegs t)
  | .vsel _ t d a b c => use3 true true t d a b ++ useV c 1
  | .vcmp _ _ t d a b => useV d 1 ++ useV a (tyRegs t) ++ useB true b (tyRegs t)
  | .vabs _ t d a | .vneg _ t d a => useV d (tyRegs t) ++ useV a (tyRegs t)
  | .vpopc _ t d a | .vclz _ t d a | .vclass _ t d a => useV d 1 ++ useV a (tyRegs t)
  | .vcvt _ t src r _ d a b => useV d (tyRegs t) ++ useV a (tyRegs src) ++ (if r = .sto then useV b 1 else [])
  | .vrcp _ t _ d a | .vrsq _ t _ d a | .vsqrt _ t _ d a | .vexp2 _ t _ d a | .vlog2 _ t _ d a | .vsin _ t _ d a
  | .vcos _ t _ d a => useV d (tyRegs t) ++ useV a (tyRegs t)
  | .vrnd _ d a => useV d 1 ++ useV a 2
  | .vmovSb _ t d a => useV d (tyRegs t) ++ useS a (tyRegs t)
  | .vaddSb _ t _ d a b | .vsubSb _ t _ d a b | .vmulSb _ t _ d a b | .vdivSb _ t _ d a b => use3 true false t d a b
  | .vmadSb _ t _ d a b c => use3 true false t d a b ++ useV c (tyRegs t)
  | .vminSb _ t d a b | .vmaxSb _ t d a b | .vandSb _ t d a b | .vorSb _ t d a b | .vxorSb _ t d a b =>
    use3 true false t d a b
  | .vshlSb _ t d a b | .vshrSb _ t d a b | .vbfeSb _ t d a b => use3c true false t d a b
  | .vbfiSb _ t d a b c => use3c true false t d a b ++ useV c (tyRegs t)
  | .vselSb _ t d a b c => use3 true false t d a b ++ useV c 1
  | .vcmpSb _ _ t d a b => useV d 1 ++ useV a (tyRegs t) ++ useB false b (tyRegs t)
  | .vmovImm _ t d _ => useV d (tyRegs t)
  | .vaddImm _ t d a _ | .vminImm _ t d a _ | .vmaxImm _ t d a _ | .vandImm _ t d a _ | .vorImm _ t d a _
  | .vxorImm _ t d a _ | .vshlImm _ t d a _ | .vshrImm _ t d a _ => useV d (tyRegs t) ++ useV a (tyRegs t)
  | .xsel _ t d a b => useV d (tyRegs t) ++ useV a (tyRegs t) ++ useV b 1
  | .xselSb _ t d a b => useV d (tyRegs t) ++ useV a (tyRegs t) ++ useS b 1
  | .xred _ _ t d a => useS d (tyRegs t) ++ useV a (tyRegs t)
  | .xscan _ _ seg _ t d a b => useV d (tyRegs t) ++ useV a (tyRegs t) ++ (if seg then useV b 1 else [])
  | .xget _ t d a b => useS d (tyRegs t) ++ useV a (tyRegs t) ++ useS b 1
  | .xgetImm _ d a _ => useS (plain d) 1 ++ useV (plain a) 1
  | .ldVA _ m t d a b | .stVA _ m t d a b => useV d (tyRegs t) ++ useV a (addrRegs m.space) ++ useB false b 1
  | .ldSA _ m t d a b | .stSA _ m t d a b => useV d (tyRegs t) ++ useS a (addrRegs m.space) ++ useB false b 1
  | .ldl _ m a b => useV a (addrRegs m.space) ++ useB false b 1
  | .lds _ m t d a b | .sts _ m t d a b => useS d (tyRegs t) ++ useS a (addrRegs m.space) ++ useB false b 1
  | .ldSAVB _ m t d a b => useV d (tyRegs t) ++ useS a (addrRegs m.space) ++ useV b 1
  | .atomV _ o m t d a b c => useV d (tyRegs t) ++ useV a (addrRegs m.space) ++ useV b (tyRegs t) ++
      (if o = .cas then useV c (tyRegs t) else [])
  | .atomS _ o m t d a b c => useS d (tyRegs t) ++ useS a (addrRegs m.space) ++ useS b (tyRegs t) ++
      (if o = .cas then useS c (tyRegs t) else [])
  | .ratomV _ o _ t d a b c => useV d (tyRegs t) ++ useV a 2 ++ useV b (if o = .cas then 2 * tyRegs t else tyRegs t) ++
      useS c 1
  | .ratomS _ o _ t d a b c => useS d (tyRegs t) ++ useS a 2 ++ useS b (if o = .cas then 2 * tyRegs t else tyRegs t) ++
      useS c 1
  | .flush .. | .icinv .. => []
  | .tlbinv _ page _ a => if page then useS (plain a) 2 else []
  | .cpy _ _ d a | .cpyTid _ _ d a _ => useS (plain a) 16 ++ (if d = 0 then [] else useS (plain d) 2)
  | .kick _ a b => useS (plain a) 1 ++ useS (plain b) 1
  | .mma _ _ _ a _ asc c | .mmas _ _ _ _ a _ _ asc c => useV a 16 ++ (if asc then useV c 1 else [])
  | .mrdV _ _ cmp _ d _ b => useV d 1 ++ useB false b (if cmp then 2 else 1)
  | .mrdS _ _ space cmp _ a _ b => useS a (addrRegs space) ++ useB false b (if cmp then 2 else 1)
  | .mclr .. => []
  | .mwb _ _ a => useS (plain a) 2
  | .mwbLayer _ _ a b => useS (plain a) 1 ++ useS (plain b) 1
  | .tdef _ _ a | .tdefGet _ _ a => useS (plain a) 2
  | .pload _ _ a => useS a 2
  | .pgenV _ _ d _ a => useV d 1 ++ useS a 2
  | .pgenS _ _ d _ a => useS d 1 ++ useS a 2
  | .ginwSmp _ d a b => useV d 5 ++ useV a 4 ++ useS b 1
  | .ginwEdge _ d a b => useV d 9 ++ useV a 8 ++ useS b 1
  | .ginwRay _ d a b => useV d 9 ++ useV a 9 ++ useS b 1
  | .grasS _ _ a => useS (plain a) 2
  | .grasV _ _ a => useV (plain a) 2
  | .grep _ d a _ => useV (plain d) 1 ++ useV (plain a) 5
  | .gqryV _ _ d a _ => useV d 1 ++ useV a 12
  | .gqryS _ _ d a _ => useS d 1 ++ useS a 12
  | .gpopV _ d a => useV d 13 ++ useV a 1
  | .gpopS _ d a => useS d 13 ++ useS a 1
  | .gbldVtx _ _ _ a b => useV (plain a) 6 ++ useS (plain b) 1
  | .gbldTri _ _ _ a b => useV (plain a) 1 ++ useS (plain b) 1
  | .gpatch _ d a _ => useV (plain d) 1 ++ useV (plain a) 5
  | .srd _ d _ => useS (plain d) 1
  | .srdPair _ d _ => useS (plain d) 2
  | .swr _ _ a => useS (plain a) 1
  | .swrPair _ _ a => useS (plain a) 2
  | _ => []

/-- The registers that an instruction reads or writes: those that it names, but for the A of a DQPOP without `.j`, which is not read
(R54, R237). -/
def touches : Instr → List Use
  | .dqpop _ d _ false => useS (plain d) 2
  | i => uses i

/-- The scalar front executes the instruction (R50, R87-R93). -/
def frontOk : Instr → Bool
  | .bra .. | .brc .. | .brz .. | .jmpiS .. | .call .. | .calliS .. | .ret _ | .loop .. | .nop _ | .endI _ | .fence ..
  | .trap .. | .bkpt _ | .wait .. | .sleep .. | .wakeat .. | .publish .. | .enq .. | .dqpop .. | .dqpush .. | .bbi ..
  | .bba .. | .bbw .. => true
  | .smov .. | .sadd .. | .ssub .. | .smul .. | .sdiv .. | .smin .. | .smax .. | .sand .. | .sor .. | .sxor .. | .sshl ..
  | .sshr .. | .scmp .. | .ssel .. | .sbfe .. | .sbfi .. | .smovImm .. | .saddImm .. | .ssubImm .. | .smulImm ..
  | .sdivImm .. | .sminImm .. | .smaxImm .. | .sandImm .. | .sorImm .. | .sxorImm .. | .sshlImm .. | .sshrImm ..
  | .spopc .. | .sclz .. | .sbfeImm .. => true
  | .cpy .. | .cpyTid .. | .kick .. | .mwb .. | .mwbLayer .. | .srd .. | .swr .. | .srdPair .. | .swrPair .. => true
  | _ => false

/-- The accumulator tile that an instruction names (R71). -/
def accOf : Instr → Option AccNo
  | .mma _ _ acc .. | .mmas _ _ _ acc .. | .mrdV _ _ _ _ _ acc _ | .mrdS _ _ _ _ _ _ acc _ | .mclr _ acc => some acc
  | _ => none

/-- A floating-point arithmetic instruction, which may fault while FPMODE enables a trap (R52, R382). -/
def fpArith : Instr → Bool
  | .vadd _ t .. | .vsub _ t .. | .vmul _ t .. | .vmad _ t .. | .vdiv _ t .. | .vmin _ t .. | .vmax _ t .. | .vrcp _ t ..
  | .vrsq _ t .. | .vsqrt _ t .. | .vexp2 _ t .. | .vlog2 _ t .. | .vsin _ t .. | .vcos _ t .. | .vaddSb _ t ..
  | .vsubSb _ t .. | .vmulSb _ t .. | .vmadSb _ t .. | .vdivSb _ t .. | .vminSb _ t .. | .vmaxSb _ t .. => tyFloat t
  | .vcmp _ _ t .. | .vcmpSb _ _ t .. | .xred _ _ t .. | .xscan _ _ _ _ t .. => tyFloat t
  | .vcvt _ t src .. => tyFloat t || tyFloat src
  | _ => false

/-- The instructions that never count as ones that may fault for their own sake (R318, R337, R361, R382); the rest of the
opcode map always do. -/
def neverFaults : Instr → Bool
  | .bra .. | .brc .. | .brz .. | .nop _ | .endI _ | .fence .. | .sleep .. | .dqpush .. | .flush .. | .icinv .. | .ldl ..
  | .srd .. | .srdPair .. | .tlbinv .. => true
  | .dqpop _ _ _ j => !j
  | .smov .. | .sadd .. | .ssub .. | .smul .. | .sdiv .. | .smin .. | .smax .. | .sand .. | .sor .. | .sxor .. | .sshl ..
  | .sshr .. | .scmp .. | .ssel .. | .sbfe .. | .sbfi .. | .smovImm .. | .saddImm .. | .ssubImm .. | .smulImm ..
  | .sdivImm .. | .sminImm .. | .smaxImm .. | .sandImm .. | .sorImm .. | .sxorImm .. | .sshlImm .. | .sshrImm ..
  | .spopc .. | .sclz .. | .sbfeImm .. => true
  | .vmov .. | .vadd .. | .vsub .. | .vmul .. | .vmad .. | .vdiv .. | .vmin .. | .vmax .. | .vand .. | .vor .. | .vxor ..
  | .vshl .. | .vshr .. | .vbfe .. | .vbfi .. | .vsel .. | .vcmp .. | .vabs .. | .vneg .. | .vpopc .. | .vclz ..
  | .vclass .. | .vcvt .. | .vrcp .. | .vrsq .. | .vsqrt .. | .vexp2 .. | .vlog2 .. | .vsin .. | .vcos .. | .vrnd ..
  | .vmovSb .. | .vaddSb .. | .vsubSb .. | .vmulSb .. | .vmadSb .. | .vdivSb .. | .vminSb .. | .vmaxSb .. | .vandSb ..
  | .vorSb .. | .vxorSb .. | .vshlSb .. | .vshrSb .. | .vbfeSb .. | .vbfiSb .. | .vselSb .. | .vcmpSb .. | .vmovImm ..
  | .vaddImm .. | .vminImm .. | .vmaxImm .. | .vandImm .. | .vorImm .. | .vxorImm .. | .xsel .. | .xred .. | .xscan ..
  | .xgetImm .. | .xselSb .. | .vshlImm .. | .vshrImm .. => true
  | _ => false

/-- The instruction is one that may fault, and so ends its run (R52, R74). -/
def mayFault (i : Instr) (fpmode : Word) : Bool :=
  !neverFaults i || (uses i).any (·.o.ind) || (fpArith i && fpmode &&& 0x1F != 0)

/-! ## The checks at issue (R75) -/

/-- The index register that IXS selects, as a signed number (R73). -/
def Group.index (g : Group) (h : Hd) : Int := (word g.x h.ixs.toNat).toInt

/-- The number that a register operand names: its field, with the index register added where its IND bit is set (R73). -/
def Group.regAt (g : Group) (h : Hd) (o : Opnd) : Int := if o.ind then o.n.toNat + g.index h else o.n.toNat

/-- A register operand as a number, in range. -/
def Issue.reg (m : Issue) (o : Opnd) : Nat := (m.g.regAt m.h o).toNat

/-- A register operand satisfies R74. -/
def Group.useOk (g : Group) (h : Hd) (u : Use) : Bool :=
  decide (0 ≤ g.regAt h u.o) && decide (g.regAt h u.o + u.n - 1 ≤ 7 + g.span)

/-- The lowest register that an instruction's own entry allows: 3, so that no mask word is named (R48, R186, R254, R257, R334,
R338, R339, R345). -/
def lowestOk : Instr → Bool
  | .deq _ _ _ b => decide (3 ≤ b)
  | .enq _ d _ _ _ | .dqpop _ d _ _ => decide (3 ≤ d)
  | .cpy _ _ d a | .cpyTid _ _ d a _ => decide (3 ≤ a) && decide (d = 0 ∨ 3 ≤ d)
  | .gqryS _ _ _ a _ => a.ind || decide (3 ≤ a.n)
  | .gpopS _ d _ => d.ind || decide (3 ≤ d.n)
  | _ => true

/-- ILLEGAL or REGBOUNDS by the opcode map and the direct fields (R75 steps 2 to 5). -/
def Group.fieldTrap (g : Group) (h : Hd) (i : Instr) : Option Cause :=
  if !i.wf || (g.isFront && !frontOk i) then some .illegal
  else if ((uses i).filter fun u => !u.o.ind).any (fun u => !g.useOk h u) then some .regbounds
  else match accOf i with
    | some a => if a.toNat < g.acct then none else some .regbounds
    | none => none

/-- What the run former detects at decode: ILLEGAL or REGBOUNDS, by the fields or by the entry's own lowest register (R53,
R75). -/
def Group.decodeTrap (g : Group) (h : Hd) (i : Instr) : Option Cause :=
  match g.fieldTrap h i with
  | some c => some c
  | none => if lowestOk i then none else some .illegal

/-- An operand that a load or a tile operation has yet to write (R54; notes/assumptions/9.md). -/
def Issue.usePending (m : Issue) (u : Use) : Bool :=
  (List.range u.n).any fun i =>
    if u.vec then m.g.vecPending (absSlot m.k.base (m.reg u.o + i)) else m.g.scalPending (m.sreg (m.reg u.o + i))

/-- A mask word of the split is yet to be written. -/
def Issue.maskPending (m : Issue) : Bool :=
  !m.g.isFront && (List.range 3).any fun i => m.g.scalPending (.mask m.k.no i)

/-- The verdict of the checks that precede an instruction's own (R75): a trap, a stall in place (R54), or none. -/
inductive Verdict where
  | trap (c : Cause)
  | stall
  | go
  deriving DecidableEq, Repr

/-- The checks of R75 up to step 6, the entry's own lowest register, and the operands that are not ready (R54). -/
def Issue.verdict (m : Issue) (i : Instr) : Verdict :=
  match m.g.fieldTrap m.h i with
  | some c => .trap c
  | none =>
    if (uses i).any (fun u => !m.g.useOk m.h u) then .trap .regbounds
    else if !lowestOk i then .trap .illegal
    else if m.maskPending || (touches i).any m.usePending then .stall
    else .go

/-- An instruction of the opcode map issues (R75): its meaning is reached past the checks of steps 2 to 6. -/
def issue (i : Instr) (h : Hd) (s : State) (body : Issue → State) : Host.Outcome State Fault Refusal :=
  match s.issuer h with
  | none => .fault .noIssuer
  | some m =>
    .next (match m.verdict i with
      | .trap c => m.raise c 0 0
      | .stall => m.stall
      | .go => body { m with mf := mayFault i m.g.fpmode })

/-! ## Operand values -/

/-- IMM32 as operand B of a type (R71). -/
def immOf (t : Ty) (v : BitVec 32) : DWord :=
  match t with
  | .f64 => v ++ (0 : BitVec 32)
  | .f16 | .bf16 => (v.setWidth 16).setWidth 64
  | _ => if tySigned t then v.signExtend 64 else v.setWidth 64

/-- Operand B of a type: a scalar register, or the immediate or literal that stands for it (R71, R72). -/
def Issue.srcS (m : Issue) (t : Ty) : SrcB → DWord
  | .reg o => m.sval t (m.reg o)
  | .imm v => immOf t v
  | .lit v => v

/-- Operand B as one 32-bit register whatever the type: a shift count, a control word (R371, R388). -/
def Issue.srcS1 (m : Issue) (t : Ty) : SrcB → DWord
  | .reg o => (m.sget (m.reg o)).setWidth 64
  | .imm v => immOf t v
  | .lit v => v

/-- Lane i of operand B of a type: a vector register, or the immediate or literal that stands for it (R388). -/
def Issue.srcV (m : Issue) (t : Ty) (b : SrcB) (i : Nat) : DWord :=
  match b with
  | .reg o => m.vval t (m.reg o) i
  | .imm v => immOf t v
  | .lit v => v

/-- Lane i of operand B as one register; an immediate or literal count of a shift is taken as it stands
(notes/assumptions/35.md). -/
def Issue.srcV1 (m : Issue) (t : Ty) (b : SrcB) (i : Nat) : DWord :=
  match b with
  | .reg o => (lane (m.vget (m.reg o)) i).setWidth 64
  | .imm v => immOf t v
  | .lit v => v

/-- The immediate of a TI opcode, extended to 64 bits (R64, R71, R72). -/
def immVal : Imm → DWord
  | .i9 v => v.signExtend 64
  | .i32 v => v.signExtend 64
  | .lit v => v

/-- The control word of SBFE in the immediate form, whose fields are taken as they stand (R96). -/
def immField : Imm → DWord
  | .i9 v => v.setWidth 64
  | .i32 v => v.setWidth 64
  | .lit v => v

end Sys2Proof.Machine
end

