-- ==== Sys2Proof/Machine/Flags.lean ====
section
/-!
DEFINITION. The operations of the arithmetic instructions on single values: integers and bits (R131-R133, R372, R373),
floating-point with the modes of FPMODE (R146, R147), and how flags reach FPFLAGS or raise FPEXC (R149, R150).
-/
namespace Sys2Proof.Machine

open Sys2Proof

/-! ## Integers and bits -/

/-- The low w bits of a value of a type. -/
def low (t : Ty) (v : DWord) : Nat := v.toNat % 2 ^ tyBits t

/-- A value of an integer or bit type: signed for i types, unsigned for n and b types (R131). -/
def val (t : Ty) (v : DWord) : Int := intVal t v.toNat

/-- The low w bits of an exact integer result (R131). -/
def wrap (t : Ty) (v : Int) : DWord := BitVec.ofNat 64 (lowBits (tyBits t) v)

/-- Two-operand integer operations by name (R131-R133, R372, R391). -/
inductive IntOp where
  | add | sub | mul | div | min | max | and | or | xor | shl | shr
  deriving DecidableEq, Repr

/-- The result of an integer operation (R131-R133). -/
def intOp (o : IntOp) (t : Ty) (a b : DWord) : DWord :=
  let w := tyBits t
  match o with
  | .add => wrap t (val t a + val t b)
  | .sub => wrap t (val t a - val t b)
  | .mul => wrap t (val t a * val t b)
  | .div => if val t b = 0 then wrap t (-1) else wrap t ((val t a).tdiv (val t b))
  | .min => wrap t (min (val t a) (val t b))
  | .max => wrap t (max (val t a) (val t b))
  | .and => BitVec.ofNat 64 (low t a &&& low t b)
  | .or => BitVec.ofNat 64 (low t a ||| low t b)
  | .xor => BitVec.ofNat 64 (low t a ^^^ low t b)
  | .shl =>
    let n := b.toNat
    if n ≥ w then 0 else BitVec.ofNat 64 ((low t a <<< n) % 2 ^ w)
  | .shr =>
    let n := b.toNat
    if n ≥ w then (if val t a < 0 then wrap t (-1) else 0) else wrap t (val t a / 2 ^ n)

/-- A value as n32: a count of a vector shift (R391). -/
def n32 (v : DWord) : DWord := (v.setWidth 32).setWidth 64

/-- A comparison of integers (R131, R374). -/
def intCmp (c : CmpOp) (t : Ty) (a b : DWord) : Bool :=
  match c with
  | .eq => val t a == val t b
  | .ne => val t a != val t b
  | .lt => decide (val t a < val t b)
  | .le => decide (val t a ≤ val t b)
  | .gt => decide (val t a > val t b)
  | .ge => decide (val t a ≥ val t b)
  | .uno => false
  | .ord => true

/-- The number of 1 bits among the low n bits. -/
def popCount : Nat → Nat → Nat
  | 0, _ => 0
  | n + 1, v => v % 2 + popCount n (v / 2)

/-- The number of 0 bits above the highest 1 bit of w bits; w when there is none (R372). -/
def leadZeros (w v : Nat) : Nat := if v % 2 ^ w = 0 then w else w - 1 - Nat.log2 (v % 2 ^ w)

/-- Position and width of a control word (R373). -/
def fieldOf (t : Ty) (ctl : DWord) : Nat × Nat :=
  if tyBits t = 64 then (bitsOf ctl.toNat 5 0, bitsOf ctl.toNat 11 6 + 1)
  else (bitsOf ctl.toNat 4 0, bitsOf ctl.toNat 9 5 + 1)

/-- Bit-field extract (R373). -/
def bitExtract (t : Ty) (a ctl : DWord) : DWord :=
  let (p, n) := fieldOf t ctl
  let f := (low t a >>> p) % 2 ^ n
  if tySigned t then wrap t (sgn n f) else BitVec.ofNat 64 f

/-- Bit-field insert of A into C (R373). -/
def bitInsert (t : Ty) (a ctl c : DWord) : DWord :=
  let (p, n) := fieldOf t ctl
  let w := tyBits t
  let mask := ((2 ^ n - 1) <<< p) % 2 ^ w
  BitVec.ofNat 64 ((low t c &&& (2 ^ w - 1 - mask)) ||| ((low t a <<< p) &&& mask))

/-! ## Floating-point under FPMODE -/

/-- FZOUT and FZIN (R146). -/
def fzOut (fpmode : Word) : Bool := fpmode.getLsbD 7
def fzIn (fpmode : Word) : Bool := fpmode.getLsbD 6

/-- The rounding mode of an instruction that rounds (R143, R147). -/
def rndMode (fpmode : Word) (r : Rnd) : RndMode := ⟨r, fzOut fpmode, false, 0⟩

/-- A result with its flags. -/
abbrev Res := DWord × FFlags

/-- A floating result as a register value. -/
def res (x : Nat × FFlags) : Res := (BitVec.ofNat 64 x.1, x.2)

/-- Arithmetic with two operands: on a floating type by f, on another type by the integer operation (R391). -/
def arith2 (o : IntOp) (t : Ty) (fpmode : Word) (r : Rnd) (a b : DWord) : Res :=
  if tyFloat t then
    let f := fmtOf t
    let md := rndMode fpmode r
    let fz := fzIn fpmode
    match o with
    | .add => res (fAdd f md fz a.toNat b.toNat)
    | .sub => res (fSub f md fz a.toNat b.toNat)
    | .mul => res (fMul f md fz a.toNat b.toNat)
    | .div => res (fDiv f md fz a.toNat b.toNat)
    | .min => res (fMinMax f false fz a.toNat b.toNat)
    | .max => res (fMinMax f true fz a.toNat b.toNat)
    | _ => (intOp o t a b, 0)
  else (intOp o t a b, 0)

/-- A × B + C (R391). -/
def arith3 (t : Ty) (fpmode : Word) (r : Rnd) (a b c : DWord) : Res :=
  if tyFloat t then res (fMad (fmtOf t) (rndMode fpmode r) (fzIn fpmode) a.toNat b.toNat c.toNat)
  else (wrap t (val t a * val t b + val t c), 0)

/-- The functions of R392. -/
inductive FunOp where
  | rcp | rsq | sqrt | exp2 | log2 | sin | cos
  deriving DecidableEq, Repr

/-- A function of R392. -/
def funOp (o : FunOp) (t : Ty) (fpmode : Word) (r : Rnd) (a : DWord) : Res :=
  let f := fmtOf t
  let md := rndMode fpmode r
  let fz := fzIn fpmode
  res (match o with
    | .rcp => fRcp f md fz a.toNat
    | .rsq => fRsq f md fz a.toNat
    | .sqrt => fSqrt f md fz a.toNat
    | .exp2 => fExp2 f md fz a.toNat
    | .log2 => fLog2 f md fz a.toNat
    | .sin => fSin f md fz a.toNat
    | .cos => fCos f md fz a.toNat)

/-- A comparison in a vector lane (R393). -/
def vecCmp (c : CmpOp) (t : Ty) (fpmode : Word) (a b : DWord) : Res :=
  if tyFloat t then
    let (r, fl) := fCmp (fmtOf t) c (fzIn fpmode) a.toNat b.toNat
    (if r then 1 else 0, fl)
  else (if intCmp c t a b then 1 else 0, 0)

/-- VABS and VNEG: the sign bit of a floating type, the low w bits of |A| or −A of an integer type (R391). -/
def absOp (t : Ty) (a : DWord) : DWord :=
  if tyFloat t then BitVec.ofNat 64 (low t a % 2 ^ (tyBits t - 1)) else wrap t (val t a).natAbs
def negOp (t : Ty) (a : DWord) : DWord :=
  if tyFloat t then BitVec.ofNat 64 (low t a ^^^ 2 ^ (tyBits t - 1)) else wrap t (-(val t a))

/-! ## Flags (R149, R150) -/

/-- FPFLAGS with flags ORed in (R149). -/
def Group.orFlags (g : Group) (fl : FFlags) : Group := { g with fpflags := g.fpflags ||| fl.setWidth 32 }

/-- A flag whose trap is enabled (R146, R150). -/
def Group.fpTraps (g : Group) (fl : FFlags) : Bool := g.fpmode.setWidth 5 &&& fl != 0

/-- The flags of an instruction reach FPFLAGS; then it raises FPEXC with its destination unwritten, or goes on (R149,
R150). -/
def Issue.flagged (m : Issue) (fl : FFlags) (go : Issue → State) : State :=
  let m1 := { m with g := m.g.orFlags fl }
  if m.g.fpTraps fl then m1.raise .fpexc 0 0 else go m1

end Sys2Proof.Machine
end

