-- ==== Sys2Proof/Machine/Scalar.lean ====
section
/-!
DEFINITION. The scalar arithmetic instructions 0x20-0x3E (R88, R371-R374).
-/
namespace Sys2Proof.Machine

open Sys2Proof

/-- A scalar result of a type is written and the instruction is complete: no flag, no memory (R371). -/
def Issue.scalar (m : Issue) (t : Ty) (d : Opnd) (v : DWord) : State := (m.sputT t (m.reg d) v).done

/-- A two-operand operation on scalars (R372). -/
def Issue.scalar2 (m : Issue) (o : IntOp) (t : Ty) (d a : Opnd) (b : DWord) : State :=
  m.scalar t d (intOp o t (m.sval t (m.reg a)) b)

/-- SMOV: D := A (R372). -/
def execSmov (h : Hd) (ty : Ty) (d a : Opnd) (s : State) : Host.Outcome State Fault Refusal :=
  issue (.smov h ty d a) h s fun m => m.scalar ty d (m.sval ty (m.reg a))

/-- SADD: D := A + B (R372). -/
def execSadd (h : Hd) (ty : Ty) (d a : Opnd) (b : SrcB) (s : State) : Host.Outcome State Fault Refusal :=
  issue (.sadd h ty d a b) h s fun m => m.scalar2 .add ty d a (m.srcS ty b)

/-- SSUB: D := A − B (R372). -/
def execSsub (h : Hd) (ty : Ty) (d a : Opnd) (b : SrcB) (s : State) : Host.Outcome State Fault Refusal :=
  issue (.ssub h ty d a b) h s fun m => m.scalar2 .sub ty d a (m.srcS ty b)

/-- SMUL: D := the low half of A × B (R372). -/
def execSmul (h : Hd) (ty : Ty) (d a : Opnd) (b : SrcB) (s : State) : Host.Outcome State Fault Refusal :=
  issue (.smul h ty d a b) h s fun m => m.scalar2 .mul ty d a (m.srcS ty b)

/-- SDIV: D := A div B (R133) (R372). -/
def execSdiv (h : Hd) (ty : Ty) (d a : Opnd) (b : SrcB) (s : State) : Host.Outcome State Fault Refusal :=
  issue (.sdiv h ty d a b) h s fun m => m.scalar2 .div ty d a (m.srcS ty b)

/-- SMIN: the lesser, signed for i types (R131) (R372). -/
def execSmin (h : Hd) (ty : Ty) (d a : Opnd) (b : SrcB) (s : State) : Host.Outcome State Fault Refusal :=
  issue (.smin h ty d a b) h s fun m => m.scalar2 .min ty d a (m.srcS ty b)

/-- SMAX: the greater, signed for i types (R131) (R372). -/
def execSmax (h : Hd) (ty : Ty) (d a : Opnd) (b : SrcB) (s : State) : Host.Outcome State Fault Refusal :=
  issue (.smax h ty d a b) h s fun m => m.scalar2 .max ty d a (m.srcS ty b)

/-- SAND: bitwise and (R372). -/
def execSand (h : Hd) (ty : Ty) (d a : Opnd) (b : SrcB) (s : State) : Host.Outcome State Fault Refusal :=
  issue (.sand h ty d a b) h s fun m => m.scalar2 .and ty d a (m.srcS ty b)

/-- SOR: bitwise or (R372). -/
def execSor (h : Hd) (ty : Ty) (d a : Opnd) (b : SrcB) (s : State) : Host.Outcome State Fault Refusal :=
  issue (.sor h ty d a b) h s fun m => m.scalar2 .or ty d a (m.srcS ty b)

/-- SXOR: bitwise exclusive or (R372). -/
def execSxor (h : Hd) (ty : Ty) (d a : Opnd) (b : SrcB) (s : State) : Host.Outcome State Fault Refusal :=
  issue (.sxor h ty d a b) h s fun m => m.scalar2 .xor ty d a (m.srcS ty b)

/-- SSHL: A shifted left by one register (R132) (R372). -/
def execSshl (h : Hd) (ty : Ty) (d a : Opnd) (b : SrcB) (s : State) : Host.Outcome State Fault Refusal :=
  issue (.sshl h ty d a b) h s fun m => m.scalar2 .shl ty d a (m.srcS1 ty b)

/-- SSHR: A shifted right, arithmetically for i types (R132) (R372). -/
def execSshr (h : Hd) (ty : Ty) (d a : Opnd) (b : SrcB) (s : State) : Host.Outcome State Fault Refusal :=
  issue (.sshr h ty d a b) h s fun m => m.scalar2 .shr ty d a (m.srcS1 ty b)

/-- SCMP: 1 where the comparison holds, else 0; D is one register (R374). -/
def execScmp (h : Hd) (c : CmpOp) (ty : Ty) (d a : Opnd) (b : SrcB) (s : State) : Host.Outcome State Fault Refusal :=
  issue (.scmp h c ty d a b) h s fun m =>
    m.scalar .b32 d (if intCmp c ty (m.sval ty (m.reg a)) (m.srcS ty b) then 1 else 0)

/-- SSEL: A where the word C is not zero, else B (R374). -/
def execSsel (h : Hd) (ty : Ty) (d a : Opnd) (b : SrcB) (c : Opnd) (s : State) : Host.Outcome State Fault Refusal :=
  issue (.ssel h ty d a b c) h s fun m =>
    m.scalar ty d (if m.sget (m.reg c) ≠ 0 then m.sval ty (m.reg a) else m.srcS ty b)

/-- SBFE: the field that the control word B names (R373). -/
def execSbfe (h : Hd) (ty : Ty) (d a : Opnd) (b : SrcB) (s : State) : Host.Outcome State Fault Refusal :=
  issue (.sbfe h ty d a b) h s fun m => m.scalar ty d (bitExtract ty (m.sval ty (m.reg a)) (m.srcS1 ty b))

/-- SBFI: C with the field that the control word B names taken from A (R373). -/
def execSbfi (h : Hd) (ty : Ty) (d a : Opnd) (b : SrcB) (c : Opnd) (s : State) : Host.Outcome State Fault Refusal :=
  issue (.sbfi h ty d a b c) h s fun m =>
    m.scalar ty d (bitInsert ty (m.sval ty (m.reg a)) (m.srcS1 ty b) (m.sval ty (m.reg c)))

/-- SMOV with an immediate (R372). -/
def execSmovImm (h : Hd) (ty : Ty) (d : Opnd) (i : Imm) (s : State) : Host.Outcome State Fault Refusal :=
  issue (.smovImm h ty d i) h s fun m => m.scalar ty d (immVal i)

/-- SADD with an immediate (R372). -/
def execSaddImm (h : Hd) (ty : Ty) (d a : Opnd) (i : Imm) (s : State) : Host.Outcome State Fault Refusal :=
  issue (.saddImm h ty d a i) h s fun m => m.scalar2 .add ty d a (immVal i)

/-- SSUB with an immediate (R372). -/
def execSsubImm (h : Hd) (ty : Ty) (d a : Opnd) (i : Imm) (s : State) : Host.Outcome State Fault Refusal :=
  issue (.ssubImm h ty d a i) h s fun m => m.scalar2 .sub ty d a (immVal i)

/-- SMUL with an immediate (R372). -/
def execSmulImm (h : Hd) (ty : Ty) (d a : Opnd) (i : Imm) (s : State) : Host.Outcome State Fault Refusal :=
  issue (.smulImm h ty d a i) h s fun m => m.scalar2 .mul ty d a (immVal i)

/-- SDIV with an immediate (R372). -/
def execSdivImm (h : Hd) (ty : Ty) (d a : Opnd) (i : Imm) (s : State) : Host.Outcome State Fault Refusal :=
  issue (.sdivImm h ty d a i) h s fun m => m.scalar2 .div ty d a (immVal i)

/-- SMIN with an immediate (R372). -/
def execSminImm (h : Hd) (ty : Ty) (d a : Opnd) (i : Imm) (s : State) : Host.Outcome State Fault Refusal :=
  issue (.sminImm h ty d a i) h s fun m => m.scalar2 .min ty d a (immVal i)

/-- SMAX with an immediate (R372). -/
def execSmaxImm (h : Hd) (ty : Ty) (d a : Opnd) (i : Imm) (s : State) : Host.Outcome State Fault Refusal :=
  issue (.smaxImm h ty d a i) h s fun m => m.scalar2 .max ty d a (immVal i)

/-- SAND with an immediate (R372). -/
def execSandImm (h : Hd) (ty : Ty) (d a : Opnd) (i : Imm) (s : State) : Host.Outcome State Fault Refusal :=
  issue (.sandImm h ty d a i) h s fun m => m.scalar2 .and ty d a (immVal i)

/-- SOR with an immediate (R372). -/
def execSorImm (h : Hd) (ty : Ty) (d a : Opnd) (i : Imm) (s : State) : Host.Outcome State Fault Refusal :=
  issue (.sorImm h ty d a i) h s fun m => m.scalar2 .or ty d a (immVal i)

/-- SXOR with an immediate (R372). -/
def execSxorImm (h : Hd) (ty : Ty) (d a : Opnd) (i : Imm) (s : State) : Host.Outcome State Fault Refusal :=
  issue (.sxorImm h ty d a i) h s fun m => m.scalar2 .xor ty d a (immVal i)

/-- SSHL with an immediate (R372). -/
def execSshlImm (h : Hd) (ty : Ty) (d a : Opnd) (i : Imm) (s : State) : Host.Outcome State Fault Refusal :=
  issue (.sshlImm h ty d a i) h s fun m => m.scalar2 .shl ty d a (immVal i)

/-- SSHR with an immediate (R372). -/
def execSshrImm (h : Hd) (ty : Ty) (d a : Opnd) (i : Imm) (s : State) : Host.Outcome State Fault Refusal :=
  issue (.sshrImm h ty d a i) h s fun m => m.scalar2 .shr ty d a (immVal i)

/-- SPOPC: the number of 1 bits of A; D is one register (R372). -/
def execSpopc (h : Hd) (ty : Ty) (d a : Opnd) (s : State) : Host.Outcome State Fault Refusal :=
  issue (.spopc h ty d a) h s fun m => m.scalar .b32 d (BitVec.ofNat 64 (popCount (tyBits ty) (low ty (m.sval ty (m.reg a)))))

/-- SCLZ: the number of 0 bits above the highest 1 bit of A; D is one register (R372). -/
def execSclz (h : Hd) (ty : Ty) (d a : Opnd) (s : State) : Host.Outcome State Fault Refusal :=
  issue (.sclz h ty d a) h s fun m =>
    m.scalar .b32 d (BitVec.ofNat 64 (leadZeros (tyBits ty) (low ty (m.sval ty (m.reg a)))))

/-- SBFE with the field in the immediate (R96, R373). -/
def execSbfeImm (h : Hd) (ty : Ty) (d a : Opnd) (i : Imm) (s : State) : Host.Outcome State Fault Refusal :=
  issue (.sbfeImm h ty d a i) h s fun m => m.scalar ty d (bitExtract ty (m.sval ty (m.reg a)) (immField i))

end Sys2Proof.Machine
end

