-- ==== Sys2Proof/Machine/Vector.lean ====
section
/-!
DEFINITION. The vector instructions 0x40-0x77, 0x7E and 0x7F (R89, R136, R151-R155, R388-R393).
-/
namespace Sys2Proof.Machine

open Sys2Proof

/-- A vector result of a type, the high bits of narrow types zero (R136), in the active lanes; no flag. -/
def Issue.vector (m : Issue) (t : Ty) (d : Opnd) (f : Nat → DWord) : State :=
  (m.vputT t (m.reg d) m.active fun i => BitVec.ofNat 64 (low t (f i))).done

/-- A vector result with the union of the flags of the active lanes (R149, R150). -/
def Issue.vectorF (m : Issue) (t : Ty) (d : Opnd) (f : Nat → Res) : State :=
  let rs := m.active.map fun i => (i, f i)
  m.flagged (rs.foldl (fun fl r => fl ||| r.2.2) 0) fun m =>
    m.vector t d fun i => ((rs.find? fun r => r.1 == i).map (·.2.1)).getD 0

/-- Lane i of vector register operand A of a type. -/
def Issue.va (m : Issue) (t : Ty) (a : Opnd) (i : Nat) : DWord := m.vval t (m.reg a) i

/-- VMOV: D := A (R393). -/
def execVmov (h : Hd) (ty : Ty) (d a : Opnd) (s : State) : Host.Outcome State Fault Refusal :=
  issue (.vmov h ty d a) h s fun m => m.vector ty d (m.va ty a)

/-- VADD (R391). -/
def execVadd (h : Hd) (ty : Ty) (r : Rnd) (d a : Opnd) (b : SrcB) (s : State) : Host.Outcome State Fault Refusal :=
  issue (.vadd h ty r d a b) h s fun m => m.vectorF ty d fun i => arith2 .add ty m.g.fpmode r (m.va ty a i) (m.srcV ty b i)

/-- VSUB (R391). -/
def execVsub (h : Hd) (ty : Ty) (r : Rnd) (d a : Opnd) (b : SrcB) (s : State) : Host.Outcome State Fault Refusal :=
  issue (.vsub h ty r d a b) h s fun m => m.vectorF ty d fun i => arith2 .sub ty m.g.fpmode r (m.va ty a i) (m.srcV ty b i)

/-- VMUL (R391). -/
def execVmul (h : Hd) (ty : Ty) (r : Rnd) (d a : Opnd) (b : SrcB) (s : State) : Host.Outcome State Fault Refusal :=
  issue (.vmul h ty r d a b) h s fun m => m.vectorF ty d fun i => arith2 .mul ty m.g.fpmode r (m.va ty a i) (m.srcV ty b i)

/-- VDIV (R391). -/
def execVdiv (h : Hd) (ty : Ty) (r : Rnd) (d a : Opnd) (b : SrcB) (s : State) : Host.Outcome State Fault Refusal :=
  issue (.vdiv h ty r d a b) h s fun m => m.vectorF ty d fun i => arith2 .div ty m.g.fpmode r (m.va ty a i) (m.srcV ty b i)

/-- VMAD: A × B + C rounded once (R391). -/
def execVmad (h : Hd) (ty : Ty) (r : Rnd) (d a : Opnd) (b : SrcB) (c : Opnd) (s : State) : Host.Outcome State Fault Refusal :=
  issue (.vmad h ty r d a b c) h s fun m => m.vectorF ty d fun i => arith3 ty m.g.fpmode r (m.va ty a i) (m.srcV ty b i) (m.va ty c i)

/-- VMIN (R138, R391). -/
def execVmin (h : Hd) (ty : Ty) (d a : Opnd) (b : SrcB) (s : State) : Host.Outcome State Fault Refusal :=
  issue (.vmin h ty d a b) h s fun m => m.vectorF ty d fun i => arith2 .min ty m.g.fpmode .ne (m.va ty a i) (m.srcV ty b i)

/-- VMAX (R138, R391). -/
def execVmax (h : Hd) (ty : Ty) (d a : Opnd) (b : SrcB) (s : State) : Host.Outcome State Fault Refusal :=
  issue (.vmax h ty d a b) h s fun m => m.vectorF ty d fun i => arith2 .max ty m.g.fpmode .ne (m.va ty a i) (m.srcV ty b i)

/-- VAND (R391). -/
def execVand (h : Hd) (ty : Ty) (d a : Opnd) (b : SrcB) (s : State) : Host.Outcome State Fault Refusal :=
  issue (.vand h ty d a b) h s fun m => m.vector ty d fun i => intOp .and ty (m.va ty a i) (m.srcV ty b i)

/-- VOR (R391). -/
def execVor (h : Hd) (ty : Ty) (d a : Opnd) (b : SrcB) (s : State) : Host.Outcome State Fault Refusal :=
  issue (.vor h ty d a b) h s fun m => m.vector ty d fun i => intOp .or ty (m.va ty a i) (m.srcV ty b i)

/-- VXOR (R391). -/
def execVxor (h : Hd) (ty : Ty) (d a : Opnd) (b : SrcB) (s : State) : Host.Outcome State Fault Refusal :=
  issue (.vxor h ty d a b) h s fun m => m.vector ty d fun i => intOp .xor ty (m.va ty a i) (m.srcV ty b i)

/-- VSHL: the count is one register (R132, R391). -/
def execVshl (h : Hd) (ty : Ty) (d a : Opnd) (b : SrcB) (s : State) : Host.Outcome State Fault Refusal :=
  issue (.vshl h ty d a b) h s fun m => m.vector ty d fun i => intOp .shl ty (m.va ty a i) (n32 (m.srcV1 ty b i))

/-- VSHR: the count is one register (R132, R391). -/
def execVshr (h : Hd) (ty : Ty) (d a : Opnd) (b : SrcB) (s : State) : Host.Outcome State Fault Refusal :=
  issue (.vshr h ty d a b) h s fun m => m.vector ty d fun i => intOp .shr ty (m.va ty a i) (n32 (m.srcV1 ty b i))

/-- VBFE (R393). -/
def execVbfe (h : Hd) (ty : Ty) (d a : Opnd) (b : SrcB) (s : State) : Host.Outcome State Fault Refusal :=
  issue (.vbfe h ty d a b) h s fun m => m.vector ty d fun i => bitExtract ty (m.va ty a i) (m.srcV1 ty b i)

/-- VBFI (R393). -/
def execVbfi (h : Hd) (ty : Ty) (d a : Opnd) (b : SrcB) (c : Opnd) (s : State) : Host.Outcome State Fault Refusal :=
  issue (.vbfi h ty d a b c) h s fun m => m.vector ty d fun i => bitInsert ty (m.va ty a i) (m.srcV1 ty b i) (m.va ty c i)

/-- VSEL: A where the word C is not zero, else B (R393). -/
def execVsel (h : Hd) (ty : Ty) (d a : Opnd) (b : SrcB) (c : Opnd) (s : State) : Host.Outcome State Fault Refusal :=
  issue (.vsel h ty d a b c) h s fun m => m.vector ty d fun i => if lane (m.vget (m.reg c)) i ≠ 0 then m.va ty a i else (m.srcV ty b i)

/-- VCMP: 1 or 0 in one register (R393). -/
def execVcmp (h : Hd) (c : CmpOp) (ty : Ty) (d a : Opnd) (b : SrcB) (s : State) : Host.Outcome State Fault Refusal :=
  issue (.vcmp h c ty d a b) h s fun m => m.vectorF .b32 d fun i => vecCmp c ty m.g.fpmode (m.va ty a i) (m.srcV ty b i)

/-- VABS (R391). -/
def execVabs (h : Hd) (ty : Ty) (d a : Opnd) (s : State) : Host.Outcome State Fault Refusal :=
  issue (.vabs h ty d a) h s fun m => m.vector ty d fun i => absOp ty (m.va ty a i)

/-- VNEG (R391). -/
def execVneg (h : Hd) (ty : Ty) (d a : Opnd) (s : State) : Host.Outcome State Fault Refusal :=
  issue (.vneg h ty d a) h s fun m => m.vector ty d fun i => negOp ty (m.va ty a i)

/-- VPOPC (R393). -/
def execVpopc (h : Hd) (ty : Ty) (d a : Opnd) (s : State) : Host.Outcome State Fault Refusal :=
  issue (.vpopc h ty d a) h s fun m => m.vector .b32 d fun i => BitVec.ofNat 64 (popCount (tyBits ty) (low ty (m.va ty a i)))

/-- VCLZ (R393). -/
def execVclz (h : Hd) (ty : Ty) (d a : Opnd) (s : State) : Host.Outcome State Fault Refusal :=
  issue (.vclz h ty d a) h s fun m => m.vector .b32 d fun i => BitVec.ofNat 64 (leadZeros (tyBits ty) (low ty (m.va ty a i)))

/-- VCLASS: the class code (R139). -/
def execVclass (h : Hd) (ty : Ty) (d a : Opnd) (s : State) : Host.Outcome State Fault Refusal :=
  issue (.vclass h ty d a) h s fun m => m.vector .b32 d fun i => BitVec.ofNat 64 (fClass (fmtOf ty) (low ty (m.va ty a i)))

/-- VCVT: each lane from the source type, rounded as OPF says, B the random words of `.rsto` (R151-R154). -/
def execVcvt (h : Hd) (ty src : Ty) (r : Rnd) (sat : Bool) (d a b : Opnd) (s : State) : Host.Outcome State Fault Refusal :=
  issue (.vcvt h ty src r sat d a b) h s fun m => m.vectorF ty d fun i =>
    res (convert ty src ⟨r, false, sat, (lane (m.vget (m.reg b)) i).toNat⟩ (m.va src a i).toNat)

/-- VRCP (R392). -/
def execVrcp (h : Hd) (ty : Ty) (r : Rnd) (d a : Opnd) (s : State) : Host.Outcome State Fault Refusal :=
  issue (.vrcp h ty r d a) h s fun m => m.vectorF ty d fun i => funOp .rcp ty m.g.fpmode r (m.va ty a i)

/-- VRSQ (R392). -/
def execVrsq (h : Hd) (ty : Ty) (r : Rnd) (d a : Opnd) (s : State) : Host.Outcome State Fault Refusal :=
  issue (.vrsq h ty r d a) h s fun m => m.vectorF ty d fun i => funOp .rsq ty m.g.fpmode r (m.va ty a i)

/-- VSQRT (R392). -/
def execVsqrt (h : Hd) (ty : Ty) (r : Rnd) (d a : Opnd) (s : State) : Host.Outcome State Fault Refusal :=
  issue (.vsqrt h ty r d a) h s fun m => m.vectorF ty d fun i => funOp .sqrt ty m.g.fpmode r (m.va ty a i)

/-- VEXP2 (R392). -/
def execVexp2 (h : Hd) (ty : Ty) (r : Rnd) (d a : Opnd) (s : State) : Host.Outcome State Fault Refusal :=
  issue (.vexp2 h ty r d a) h s fun m => m.vectorF ty d fun i => funOp .exp2 ty m.g.fpmode r (m.va ty a i)

/-- VLOG2 (R392). -/
def execVlog2 (h : Hd) (ty : Ty) (r : Rnd) (d a : Opnd) (s : State) : Host.Outcome State Fault Refusal :=
  issue (.vlog2 h ty r d a) h s fun m => m.vectorF ty d fun i => funOp .log2 ty m.g.fpmode r (m.va ty a i)

/-- VSIN (R392). -/
def execVsin (h : Hd) (ty : Ty) (r : Rnd) (d a : Opnd) (s : State) : Host.Outcome State Fault Refusal :=
  issue (.vsin h ty r d a) h s fun m => m.vectorF ty d fun i => funOp .sin ty m.g.fpmode r (m.va ty a i)

/-- VCOS (R392). -/
def execVcos (h : Hd) (ty : Ty) (r : Rnd) (d a : Opnd) (s : State) : Host.Outcome State Fault Refusal :=
  issue (.vcos h ty r d a) h s fun m => m.vectorF ty d fun i => funOp .cos ty m.g.fpmode r (m.va ty a i)

/-- The mixing function of R155. -/
def mix64 (z0 : DWord) : DWord :=
  let z1 := z0 + 0x9E3779B97F4A7C15
  let z2 := (z1 ^^^ (z1 >>> 30)) * 0xBF58476D1CE4E5B9
  let z3 := (z2 ^^^ (z2 >>> 27)) * 0x94D049BB133111EB
  z3 ^^^ (z3 >>> 31)

/-- The random word of a lane (R155). -/
def randomWord (seed : DWord) (laneNo : Nat) (ctr : DWord) : Word :=
  (mix64 (mix64 ctr + (seed + BitVec.ofNat 64 laneNo * 0xD1B54A32D192ED03))).extractLsb' 32 32

/-- VRND: a word of the lane’s stream at the counter pair A (R155). -/
def execVrnd (h : Hd) (d a : Opnd) (s : State) : Host.Outcome State Fault Refusal :=
  issue (.vrnd h d a) h s fun m => m.vector .b32 d fun i =>
    (randomWord m.ctx.seed (m.g.laneBase.toNat + i) (m.va .n64 a i)).setWidth 64

/-- VMOV from a scalar: every active lane := A (R393). -/
def execVmovSb (h : Hd) (ty : Ty) (d a : Opnd) (s : State) : Host.Outcome State Fault Refusal :=
  issue (.vmovSb h ty d a) h s fun m => m.vector ty d fun _ => m.sval ty (m.reg a)

/-- VADD with a scalar B (R391). -/
def execVaddSb (h : Hd) (ty : Ty) (r : Rnd) (d a : Opnd) (b : SrcB) (s : State) : Host.Outcome State Fault Refusal :=
  issue (.vaddSb h ty r d a b) h s fun m => m.vectorF ty d fun i => arith2 .add ty m.g.fpmode r (m.va ty a i) (m.srcS ty b)

/-- VSUB with a scalar B (R391). -/
def execVsubSb (h : Hd) (ty : Ty) (r : Rnd) (d a : Opnd) (b : SrcB) (s : State) : Host.Outcome State Fault Refusal :=
  issue (.vsubSb h ty r d a b) h s fun m => m.vectorF ty d fun i => arith2 .sub ty m.g.fpmode r (m.va ty a i) (m.srcS ty b)

/-- VMUL with a scalar B (R391). -/
def execVmulSb (h : Hd) (ty : Ty) (r : Rnd) (d a : Opnd) (b : SrcB) (s : State) : Host.Outcome State Fault Refusal :=
  issue (.vmulSb h ty r d a b) h s fun m => m.vectorF ty d fun i => arith2 .mul ty m.g.fpmode r (m.va ty a i) (m.srcS ty b)

/-- VDIV with a scalar B (R391). -/
def execVdivSb (h : Hd) (ty : Ty) (r : Rnd) (d a : Opnd) (b : SrcB) (s : State) : Host.Outcome State Fault Refusal :=
  issue (.vdivSb h ty r d a b) h s fun m => m.vectorF ty d fun i => arith2 .div ty m.g.fpmode r (m.va ty a i) (m.srcS ty b)

/-- VMAD with a scalar B: A × B + C rounded once (R391). -/
def execVmadSb (h : Hd) (ty : Ty) (r : Rnd) (d a : Opnd) (b : SrcB) (c : Opnd) (s : State) : Host.Outcome State Fault Refusal :=
  issue (.vmadSb h ty r d a b c) h s fun m => m.vectorF ty d fun i => arith3 ty m.g.fpmode r (m.va ty a i) (m.srcS ty b) (m.va ty c i)

/-- VMIN with a scalar B (R138, R391). -/
def execVminSb (h : Hd) (ty : Ty) (d a : Opnd) (b : SrcB) (s : State) : Host.Outcome State Fault Refusal :=
  issue (.vminSb h ty d a b) h s fun m => m.vectorF ty d fun i => arith2 .min ty m.g.fpmode .ne (m.va ty a i) (m.srcS ty b)

/-- VMAX with a scalar B (R138, R391). -/
def execVmaxSb (h : Hd) (ty : Ty) (d a : Opnd) (b : SrcB) (s : State) : Host.Outcome State Fault Refusal :=
  issue (.vmaxSb h ty d a b) h s fun m => m.vectorF ty d fun i => arith2 .max ty m.g.fpmode .ne (m.va ty a i) (m.srcS ty b)

/-- VAND with a scalar B (R391). -/
def execVandSb (h : Hd) (ty : Ty) (d a : Opnd) (b : SrcB) (s : State) : Host.Outcome State Fault Refusal :=
  issue (.vandSb h ty d a b) h s fun m => m.vector ty d fun i => intOp .and ty (m.va ty a i) (m.srcS ty b)

/-- VOR with a scalar B (R391). -/
def execVorSb (h : Hd) (ty : Ty) (d a : Opnd) (b : SrcB) (s : State) : Host.Outcome State Fault Refusal :=
  issue (.vorSb h ty d a b) h s fun m => m.vector ty d fun i => intOp .or ty (m.va ty a i) (m.srcS ty b)

/-- VXOR with a scalar B (R391). -/
def execVxorSb (h : Hd) (ty : Ty) (d a : Opnd) (b : SrcB) (s : State) : Host.Outcome State Fault Refusal :=
  issue (.vxorSb h ty d a b) h s fun m => m.vector ty d fun i => intOp .xor ty (m.va ty a i) (m.srcS ty b)

/-- VSHL with a scalar B: the count is one register (R132, R391). -/
def execVshlSb (h : Hd) (ty : Ty) (d a : Opnd) (b : SrcB) (s : State) : Host.Outcome State Fault Refusal :=
  issue (.vshlSb h ty d a b) h s fun m => m.vector ty d fun i => intOp .shl ty (m.va ty a i) (n32 (m.srcS1 ty b))

/-- VSHR with a scalar B: the count is one register (R132, R391). -/
def execVshrSb (h : Hd) (ty : Ty) (d a : Opnd) (b : SrcB) (s : State) : Host.Outcome State Fault Refusal :=
  issue (.vshrSb h ty d a b) h s fun m => m.vector ty d fun i => intOp .shr ty (m.va ty a i) (n32 (m.srcS1 ty b))

/-- VBFE with a scalar B (R393). -/
def execVbfeSb (h : Hd) (ty : Ty) (d a : Opnd) (b : SrcB) (s : State) : Host.Outcome State Fault Refusal :=
  issue (.vbfeSb h ty d a b) h s fun m => m.vector ty d fun i => bitExtract ty (m.va ty a i) (m.srcS1 ty b)

/-- VBFI with a scalar B (R393). -/
def execVbfiSb (h : Hd) (ty : Ty) (d a : Opnd) (b : SrcB) (c : Opnd) (s : State) : Host.Outcome State Fault Refusal :=
  issue (.vbfiSb h ty d a b c) h s fun m => m.vector ty d fun i => bitInsert ty (m.va ty a i) (m.srcS1 ty b) (m.va ty c i)

/-- VSEL with a scalar B: A where the word C is not zero, else B (R393). -/
def execVselSb (h : Hd) (ty : Ty) (d a : Opnd) (b : SrcB) (c : Opnd) (s : State) : Host.Outcome State Fault Refusal :=
  issue (.vselSb h ty d a b c) h s fun m => m.vector ty d fun i => if lane (m.vget (m.reg c)) i ≠ 0 then m.va ty a i else (m.srcS ty b)

/-- VCMP with a scalar B: 1 or 0 in one register (R393). -/
def execVcmpSb (h : Hd) (c : CmpOp) (ty : Ty) (d a : Opnd) (b : SrcB) (s : State) : Host.Outcome State Fault Refusal :=
  issue (.vcmpSb h c ty d a b) h s fun m => m.vectorF .b32 d fun i => vecCmp c ty m.g.fpmode (m.va ty a i) (m.srcS ty b)

/-- VMOV with an immediate (R393). -/
def execVmovImm (h : Hd) (ty : Ty) (d : Opnd) (i : Imm) (s : State) : Host.Outcome State Fault Refusal :=
  issue (.vmovImm h ty d i) h s fun m => m.vector ty d fun _ => immVal i

/-- VADD with an immediate (R391). -/
def execVaddImm (h : Hd) (ty : Ty) (d a : Opnd) (i : Imm) (s : State) : Host.Outcome State Fault Refusal :=
  issue (.vaddImm h ty d a i) h s fun m => m.vector ty d fun l => intOp .add ty (m.va ty a l) (immVal i)

/-- VMIN with an immediate (R391). -/
def execVminImm (h : Hd) (ty : Ty) (d a : Opnd) (i : Imm) (s : State) : Host.Outcome State Fault Refusal :=
  issue (.vminImm h ty d a i) h s fun m => m.vector ty d fun l => intOp .min ty (m.va ty a l) (immVal i)

/-- VMAX with an immediate (R391). -/
def execVmaxImm (h : Hd) (ty : Ty) (d a : Opnd) (i : Imm) (s : State) : Host.Outcome State Fault Refusal :=
  issue (.vmaxImm h ty d a i) h s fun m => m.vector ty d fun l => intOp .max ty (m.va ty a l) (immVal i)

/-- VAND with an immediate (R391). -/
def execVandImm (h : Hd) (ty : Ty) (d a : Opnd) (i : Imm) (s : State) : Host.Outcome State Fault Refusal :=
  issue (.vandImm h ty d a i) h s fun m => m.vector ty d fun l => intOp .and ty (m.va ty a l) (immVal i)

/-- VOR with an immediate (R391). -/
def execVorImm (h : Hd) (ty : Ty) (d a : Opnd) (i : Imm) (s : State) : Host.Outcome State Fault Refusal :=
  issue (.vorImm h ty d a i) h s fun m => m.vector ty d fun l => intOp .or ty (m.va ty a l) (immVal i)

/-- VXOR with an immediate (R391). -/
def execVxorImm (h : Hd) (ty : Ty) (d a : Opnd) (i : Imm) (s : State) : Host.Outcome State Fault Refusal :=
  issue (.vxorImm h ty d a i) h s fun m => m.vector ty d fun l => intOp .xor ty (m.va ty a l) (immVal i)

/-- VSHL with an immediate (R391). -/
def execVshlImm (h : Hd) (ty : Ty) (d a : Opnd) (i : Imm) (s : State) : Host.Outcome State Fault Refusal :=
  issue (.vshlImm h ty d a i) h s fun m => m.vector ty d fun l => intOp .shl ty (m.va ty a l) (immVal i)

/-- VSHR with an immediate (R391). -/
def execVshrImm (h : Hd) (ty : Ty) (d a : Opnd) (i : Imm) (s : State) : Host.Outcome State Fault Refusal :=
  issue (.vshrImm h ty d a i) h s fun m => m.vector ty d fun l => intOp .shr ty (m.va ty a l) (immVal i)

end Sys2Proof.Machine
end

