-- ==== Sys2Proof/Machine/Cross.lean ====
section
/-!
DEFINITION. The cross-lane instructions 0x78-0x7D (R89, R292, R397-R399).
-/
namespace Sys2Proof.Machine

open Sys2Proof

/-- The two-operand operation of a reduction (R94). -/
def redInt : RedOp → IntOp
  | .add => .add | .min => .min | .max => .max | .and => .and | .or => .or | .xor => .xor

/-- One step of a reduction: integers wrap, a floating result is rounded once to nearest-even without flushing (R292). -/
def redStep (o : RedOp) (t : Ty) (acc x : DWord) : Res := arith2 (redInt o) t 0 .ne acc x

/-- The identity of a reduction (R292). -/
def redIdentity (o : RedOp) (t : Ty) : DWord :=
  if tyFloat t then
    match o with
    | .min => BitVec.ofNat 64 (fmtOf t).infBits
    | .max => BitVec.ofNat 64 ((fmtOf t).signBit + (fmtOf t).infBits)
    | _ => 0
  else
    match o with
    | .min => wrap t (intMax t)
    | .max => wrap t (intMin t)
    | .and => wrap t (-1)
    | _ => 0

/-- A reduction over a list of values in order: the result and the union of the flags (R398). -/
def reduce (o : RedOp) (t : Ty) : List DWord → Res
  | [] => (redIdentity o t, 0)
  | x :: r => r.foldl (fun acc y => let z := redStep o t acc.1 y; (z.1, acc.2 ||| z.2)) (x, 0)

/-- The scan of R292 over (lane, segment start, value): what each lane receives, and the union of the flags. -/
def scan (o : RedOp) (ex : Bool) (t : Ty) : Option DWord → List (Nat × Bool × DWord) → List (Nat × DWord) × FFlags
  | _, [] => ([], 0)
  | acc0, (l, start, x) :: r =>
    let acc := if start then none else acc0
    let z : Res := match acc with
      | none => (x, 0)
      | some a => redStep o t a x
    let out := if ex then acc.getD (redIdentity o t) else z.1
    let rest := scan o ex t (some z.1) r
    ((l, out) :: rest.1, z.2 ||| rest.2)

/-- Lane k of a vector operand of a type, zero beyond lane 95 (R399). -/
def Issue.anyLane (m : Issue) (t : Ty) (a : Opnd) (k : Nat) : DWord := if k ≤ 95 then m.va t a k else 0

/-- XSEL: lane L receives the lane of A that lane L of B names (R399). -/
def execXsel (h : Hd) (ty : Ty) (d a b : Opnd) (s : State) : Host.Outcome State Fault Refusal :=
  issue (.xsel h ty d a b) h s fun m => m.vector ty d fun i => m.anyLane ty a (lane (m.vget (m.reg b)) i).toNat

/-- XSEL with the index in a scalar (R399). -/
def execXselSb (h : Hd) (ty : Ty) (d a b : Opnd) (s : State) : Host.Outcome State Fault Refusal :=
  issue (.xselSb h ty d a b) h s fun m => m.vector ty d fun _ => m.anyLane ty a (m.sget (m.reg b)).toNat

/-- XRED: the active lanes of A reduced in ascending order into a scalar (R398). -/
def execXred (h : Hd) (o : RedOp) (ty : Ty) (d a : Opnd) (s : State) : Host.Outcome State Fault Refusal :=
  issue (.xred h o ty d a) h s fun m =>
    let r := reduce o ty (m.active.map fun i => m.va ty a i)
    m.flagged r.2 fun m => m.scalar ty d r.1

/-- XSCAN: the running combination of A over the active lanes (R292). -/
def execXscan (h : Hd) (o : RedOp) (seg ex : Bool) (ty : Ty) (d a b : Opnd) (s : State) :
    Host.Outcome State Fault Refusal :=
  issue (.xscan h o seg ex ty d a b) h s fun m =>
    let r := scan o ex ty none (m.active.map fun i => (i, seg && lane (m.vget (m.reg b)) i != 0, m.va ty a i))
    m.flagged r.2 fun m => m.vector ty d fun i => ((r.1.find? fun x => x.1 == i).map (·.2)).getD 0

/-- XGET: the lane of A that S[B] names, whatever its state; a lane above 95 raises PROT (R397). -/
def execXget (h : Hd) (ty : Ty) (d a b : Opnd) (s : State) : Host.Outcome State Fault Refusal :=
  issue (.xget h ty d a b) h s fun m =>
    let k := (m.sget (m.reg b)).toNat
    if 95 < k then m.raise .prot 0 0 else m.scalar ty d (m.va ty a k)

/-- XGET of the lane in the immediate (R397). -/
def execXgetImm (h : Hd) (d a : RegNo) (lane : BitVec 9) (s : State) : Host.Outcome State Fault Refusal :=
  issue (.xgetImm h d a lane) h s fun m => m.scalar .b32 (plain d) (m.va .b32 (plain a) lane.toNat)

end Sys2Proof.Machine
end

