-- ==== Sys2Proof/Machine/Fetch.lean ====
section
/-!
DEFINITION. Instruction fetch: words through translation and the core's instruction cache (R61, R100, R127, R165, R180,
R351, R352).
-/
namespace Sys2Proof.Machine

open Sys2Proof

/-- A word of code put into an instruction cache; where it is full, some word leaves (R9). -/
def State.cacheWord (s : State) (core key : Nat) (w : Word) : State :=
  let c := s.core core
  if c.icache.length < Config.icacheWords then s.setCore { c with icache := (key, w) :: c.icache } else
  let (s1, n) := s.pick
  s1.setCore { s1.core core with icache := (key, w) :: c.icache.eraseIdx (n % Config.icacheWords) }

/-- One word of code at a virtual address, with the checks of a fetch (R61, R165, R180): the word that the instruction cache
holds, until an ICINV, else the word at the home (R100, R352; notes/assumptions/6.md). -/
def State.fetchWord (s : State) (core ctx va : Nat) : State × Except Bad Word :=
  if va ≥ 2 ^ 56 then (s, .error ⟨.prot, va⟩) else
  match s.translate core ctx va with
  | (s1, none) => (s1, .error ⟨.page, va⟩)
  | (s1, some p) =>
    if !p.x || !s1.pageOpen ctx p (va - p.va) 4 then (s1, .error ⟨.prot, va⟩) else
    let key := s1.keyAt p (va - p.va)
    match ((s1.core core).icache.find? fun x => x.1 == key).map (·.2) with
    | some w => (s1, .ok w)
    | none =>
      if (s1.ctx ctx).poisonTrap && s1.poisonAt key then (s1, .error ⟨.poison, va⟩) else
      let w := BitVec.ofNat 32 (s1.homeNat key 4)
      (s1.cacheWord core key w, .ok w)

/-- n further words of code. -/
def State.fetchMore (s : State) (core ctx va : Nat) : Nat → State × Except Bad (List Word)
  | 0 => (s, .ok [])
  | n + 1 =>
    match s.fetchWord core ctx va with
    | (s1, .error b) => (s1, .error b)
    | (s1, .ok w) =>
      match s1.fetchMore core ctx (va + 4) n with
      | (s2, .error b) => (s2, .error b)
      | (s2, .ok r) => (s2, .ok (w :: r))

/-- The length that word 0 gives an instruction, in words (R60). -/
def wordsOf (w : Word) : Nat := match w.toNat % 4 with | 0 => 1 | 3 => 5 | _ => 3

/-- All words of the instruction at an address (R60, R61). -/
def State.fetchInstr (s : State) (core ctx pc : Nat) : State × Except Bad (List Word) :=
  match s.fetchWord core ctx pc with
  | (s1, .error b) => (s1, .error b)
  | (s1, .ok w) =>
    match s1.fetchMore core ctx (pc + 4) (wordsOf w - 1) with
    | (s2, .error b) => (s2, .error b)
    | (s2, .ok r) => (s2, .ok (w :: r))

/-- The words of an address in a list of captured instructions. -/
def wordsAt (l : List (Nat × List Word)) (pc : Nat) : Option (List Word) := (l.find? fun x => x.1 == pc).map (·.2)

/-- The words of the instruction at an address: those of a captured loop, those that an ICINV of the run found
fetched, or those that fetch finds (R61, R127, R351). -/
def Issue.words (m : Issue) (pc : DWord) : State × Except Bad (List Word) :=
  let ahead := match m.s.runs with | r :: _ => wordsAt r.ahead pc.toNat | [] => none
  match (m.k.levels.findSome? fun l => if l.bufOn then wordsAt l.buf pc.toNat else none).or ahead with
  | some ws => (m.s, .ok ws)
  | none => m.s.fetchInstr m.g.host m.g.ctx pc.toNat

/-- The words of up to n instructions in sequence, as far as they can be had: what a run has fetched (R351). -/
def Issue.fetchAhead (m : Issue) (pc : DWord) : Nat → State × List (Nat × List Word)
  | 0 => (m.s, [])
  | n + 1 =>
    match m.words pc with
    | (s1, .error _) => (s1, [])
    | (s1, .ok ws) =>
      let (s2, r) := ({ m with s := s1 }).fetchAhead (pc + BitVec.ofNat 64 (4 * ws.length)) n
      (s2, (pc.toNat, ws) :: r)

end Sys2Proof.Machine
end

