-- ==== Sys2Proof/Machine/Decisions.lean ====
section
/-!
DEFINITION. The decision queue of a core (R51, R339-R342): who waits for a decision, and the instructions DQPOP and DQPUSH.
-/
namespace Sys2Proof.Machine

open Sys2Proof

/-- The commands that an agent's group or front has in the command lists of gangs (R285). -/
def State.cmdsOf (s : State) (q : QId) : List CopyCmd :=
  ((s.gangs.map fun g => g.cmds).flatten).filter fun c => c.issuer == q

/-- Decisions of the job stand in a core-state area (R288). -/
def State.dqAway (s : State) (core job : Nat) : Bool :=
  (s.core core).saved.any fun x => x.2.2.2.any fun d => d.job == job

/-- What a DQPOP of a job finds: a decision of the job, the end (`some none`), or nothing yet; a job without a front on the
core is at its end (R339, R340). -/
def State.dqFind (s : State) (core job : Nat) : Option (Option Decision) :=
  match (s.core core).front with
  | none => some none
  | some f =>
    if f.job ≠ job then some none
    else if s.dqAway core job then none
    else match (s.core core).dq.find? fun d => d.job == job with
      | some d => some (some d)
      | none => if f.ended then some none else none

/-- The list without the first entry that equals x. -/
def dropFirst {α : Type} [DecidableEq α] (x : α) : List α → List α
  | [] => []
  | y :: r => if y = x then r else y :: dropFirst x r

/-- What happens to a DQPOP: an older entry bars its table read, a check fails with an ACCESS, or it takes what it found and
goes on, with `.j` at a target (R339). -/
inductive Popped where
  | barred (s : State)
  | bad (s : State) (b : Bad) (access : BitVec 4)
  | took (m : Issue) (target : Option DWord)

/-- A DQPOP at a position of its group's queues takes what it found (R339). -/
def Issue.popDecision (m : Issue) (pos d a : Nat) (j : Bool) (x : Option Decision) : Popped :=
  match x with
  | none => .took (m.sput2 d (BitVec.allOnes 64)) none
  | some x =>
    let noted := m.s.note m.g.job m.g.lcore .decision [m.g.worker, m.g.idx, x.val.toNat]
    let rest := { m with s := noted.setCore { noted.core m.g.lcore with dq := dropFirst x (noted.core m.g.lcore).dq } }
    if !j then .took (rest.sput2 d x.val) none else
    let hi : DWord := (m.k.pc >>> 32) <<< 32
    let ta := (hi + (m.sget a).setWidth 64 + BitVec.ofNat 64 (4 * (x.val.toNat % 2 ^ 16))).toNat
    if ta % 4 ≠ 0 then .bad m.s ⟨.align, ta⟩ 1 else
    match Chk.loc { s := m.s, memo := [] } (m.s.who m.g) .gv ta 4 true false with
    | (c, .error b) => .bad c.s b 1
    | (c, .ok l) =>
      match m.g.loadAt c.s pos l.key 4 (l.target == 2) with
      | none => .barred c.s
      | some (s1, bs) =>
        let t := hi + BitVec.ofNat 64 (leNat bs)
        if t.setWidth 2 ≠ 0 then .bad s1 ⟨.prot, 0⟩ 0
        else
          let s2 := s1.note m.g.job m.g.lcore .decision [m.g.worker, m.g.idx, x.val.toNat]
          .took (({ m with s := s2.setCore { s2.core m.g.lcore with dq := dropFirst x (s2.core m.g.lcore).dq } }).sput2 d x.val)
            (some t)

/-- The agents that wait in DQPOP on a core, with their place in the order of arrival (R51). -/
def State.dqWaiters (s : State) (core : Nat) : List (Nat × Agent × Nat × Nat × Bool) :=
  let of (q : QId) (g : Group) := (g.splits.map fun k =>
    match k.waiting, k.wait with
    | true, .dqpop n d a j => [(n, Group.agent q k.no, d, a, j)]
    | _, _ => []).flatten
  ((s.gangs.filter fun x => x.lcore == core && x.state == .resident).map fun x =>
    (x.groups.map fun g => of (.group x.uid g.idx) g).flatten).flatten ++
  (match (s.core core).front with
   | some f => of (.front core) f.group
   | none => [])

/-- The waiter that came first among those that can be served; the waiters of some jobs are passed over. -/
def State.dqNext (s : State) (core : Nat) (but : List Nat) :
    Option ((Nat × Agent × Nat × Nat × Bool) × Nat × Option Decision) :=
  let able := ((s.dqWaiters core).map fun w =>
    match s.group? (qidOf w.2.1) with
    | some g => match s.dqFind core g.job with
      | some x => if but.contains g.job then [] else [(w, g.job, x)]
      | none => []
    | none => []).flatten
  able.foldl (fun b w => match b with
    | none => some w
    | some v => if w.1.1 < v.1.1 then some w else some v) none

/-- The position of a split's DQPOP in its group's queues. -/
def Group.popPos (g : Group) (no : Nat) : Nat :=
  ((g.queue.find? fun e => e.isPop && e.split == no).map (·.pos)).getD g.nextPos

/-- Decisions go to the waiters of a core in the order in which they came; a DQPOP that traps removes nothing, and one whose
table read an older entry bars keeps its place, behind which its job's other waiters stay (R51, R339, R342). One that a breakpoint
holds, or whose gang is being evicted, does not trap here: it is evaluated afresh when it goes on (R29, R278, R289;
notes/assumptions/98.md). -/
def State.dqServe (s : State) (core : Nat) (but : List Nat) : Nat → State
  | 0 => s
  | n + 1 =>
    match s.dqNext core but with
    | none => s
    | some ((_, ag, d, a, j), job, x) =>
      match s.issueOf ag ⟨false, .l0, 0⟩ with
      | none => s
      | some m =>
        match m.popDecision (m.g.popPos m.k.no) d a j x with
        | .barred s1 => s1.dqServe core (job :: but) n
        | .bad s1 b access =>
          (if m.k.state = .held || s.evicting (qidOf ag) then
             ({ m with s := s1, g := m.g.unpop m.k.no, k := { m.k with hold := .again } }).commit
           else s1.raiseTrap ag b.cause access m.k.pc b.addr 0).dqServe core but n
        | .took m1 none =>
          (({ m1 with g := m1.g.unpop m1.k.no, k := m1.k.resume 1 (m1.s.now m1.g) }).commit).dqServe core but n
        | .took m1 (some t) =>
          (({ m1 with g := m1.g.unpop m1.k.no
                      k := ({ m1.k with pc := t, levels := popLevels t m1.k.levels }).wake (m1.s.now m1.g) }).commit).dqServe
            core but n

/-- Every waiter of a core that can be served is. -/
def State.dqServeAll (s : State) (core : Nat) : State := s.dqServe core [] (s.dqWaiters core).length

/-- A DQPOP blocks with its place in the order of arrival, and its entry bars later ones of its group (R51, R342). -/
def Issue.blockPop (m : Issue) (d a : Nat) (j : Bool) : State :=
  let c := m.s.core m.g.lcore
  ({ m with s := m.s.setCore { c with dqWaits := c.dqWaits + 1 }, g := m.g.enqueue [popEntry m.g.nextPos m.k.no] }).block
    (.dqpop c.dqWaits d a j)

/-- DQPOP: the oldest decision of the job, all ones at the end, or a wait behind the job's earlier waiters (R51, R339,
R340). -/
def execDqpop (h : Hd) (d a : RegNo) (j : Bool) (s : State) : Host.Outcome State Fault Refusal :=
  issue (.dqpop h d a j) h s fun m =>
    let c := m.g.lcore
    let behind := (m.s.dqWaiters c).any fun w => (m.s.group? (qidOf w.2.1)).any fun g => g.job == m.g.job
    match if behind then none else m.s.dqFind c m.g.job with
    | none => m.blockPop d.toNat a.toNat j
    | some x =>
      match m.popDecision m.g.nextPos d.toNat a.toNat j x with
      | .barred s1 => ({ m with s := s1 }).blockPop d.toNat a.toNat j
      | .bad s1 b access => m.fail s1 b access
      | .took m1 none => ({ m1 with mf := true }).done
      | .took m1 (some t) => m1.jump t

/-- DQPUSH: a decision is appended; the run stalls while 32 are present, while an older entry of the pusher's queues has not
left, or while an older command has not been accepted (R51, R341, R342). -/
def execDqpush (h : Hd) (a : RegNo) (s : State) : Host.Outcome State Fault Refusal :=
  issue (.dqpush h a) h s fun m =>
    let c := m.g.lcore
    let reserving := m.g.splits.any fun k => match k.hold with | .reserve .. => true | _ => false
    if m.s.dqAway c m.g.job || decide (32 ≤ (m.s.core c).dq.length) || !m.g.drained || reserving ||
        (m.s.cmdsOf (qidOf m.ag)).any (fun x => !x.accepted) then m.stall
    else
      let v := m.sget2 a.toNat
      let s1 := ({ m with s := m.s.setCore { m.s.core c with dq := (m.s.core c).dq ++ [(⟨m.g.job, v⟩ : Decision)] } }).done
      s1.dqServeAll c

/-- END of a front's program (R49): the front has ended, and waiting DQPOPs of its job find the end (R51). -/
def Issue.endFront (m : Issue) : State :=
  match m.ag, (m.s.core m.g.lcore).front with
  | .front c, some f =>
    let g := { m.g with splits := [], retired := true }
    ((m.s.setCore { m.s.core c with front := some { f with group := g, ended := true } }).dropRun).dqServeAll c
  | _, _ => m.s

end Sys2Proof.Machine
end

