-- ==== Sys2Proof/Machine/Waits.lean ====
section
/-!
DEFINITION. Waits on counters, cycles and byte barriers, promises, and the marks of FENCE and FLUSH (R190-R192, R201-R203,
R324-R326, R336, R394-R396).
-/
namespace Sys2Proof.Machine

open Sys2Proof

/-! ## Promises (R192, R336) -/

/-- The incomplete commands of an issuer whose promised cycle is at most a bound. -/
def State.promisedBy (s : State) (q : QId) (bound : Nat) : List CopyCmd :=
  (s.cmdsOf q).filter fun c => match c.promise with
    | some p => decide (p ≤ bound)
    | none => false

/-- Commands that have raised PROMISE never raise it again (R269, R336). -/
def State.markPromised (s : State) (ids : List Nat) : State :=
  { s with gangs := s.gangs.map fun g =>
      { g with cmds := g.cmds.map fun c => if ids.contains c.id then { c with promised := true } else c } }

/-- The commands on whose account an agent that waits raises PROMISE now: of a copies-class WAIT when too many promises have
passed for its threshold, of a BBW those that arrive at its barrier, of a WAKEAT those promised up to its target (R192, R326,
R336, R396). -/
def State.lateFor (s : State) (q : QId) (core : Nat) (w : Wait) : List CopyCmd :=
  let now := s.cycle core
  match w with
  | .counter .copies n _ =>
    let late := s.promisedBy q now
    if late.length > n then late.filter fun c => !c.promised else []
  | .barrier off => (s.promisedBy q now).filter fun c => !c.promised && c.req.bben && c.req.bboff == off
  | .wakeat till => (s.promisedBy q (min now till)).filter fun c => !c.promised
  | _ => []

/-- A waiting agent raises PROMISE on account of commands whose promised cycle has passed (R269, R336). -/
def Issue.raiseLate (m : Issue) (late : List CopyCmd) : State :=
  (m.s.markPromised (late.map CopyCmd.id)).raiseTrap m.ag .promise 6 m.k.pc 0 0

/-- An agent raises PROMISE where it waits for a command that is incomplete at its promised cycle (R336); in a gang that is being
evicted its instruction is evaluated afresh once the gang is placed (R278, R289; notes/assumptions/98.md). -/
def State.raiseIfLate (s : State) (a : Agent) : State :=
  match (s.issueOf a ⟨false, .l0, 0⟩).filter fun m => m.k.state == .blocked && m.k.waiting with
  | none => s
  | some m =>
    let late := s.lateFor (qidOf a) m.g.host m.k.wait
    if late.isEmpty then s
    else if s.evicting (qidOf a) then ({ m with k := { m.k with hold := .again } }).commit
    else m.raiseLate late

/-- The agents that may wait for commands of a gang: its splits, and the front that it serves. -/
def State.gangAgents (s : State) (x : Gang) : List Agent :=
  (x.groups.map fun g => g.splits.map fun k => Agent.split x.uid g.idx k.no).flatten ++
  (match (s.core x.lcore).front with
   | some f => if f.job = x.job then [.front x.lcore] else []
   | none => [])

/-- No wait of a gang's agents ends past a promise: each that waits for a command that is incomplete at its promised cycle
raises PROMISE before an arrival is counted (R326, R336). -/
def State.raiseOverdue (s : State) (gang : Nat) : State :=
  match s.gang? gang with
  | none => s
  | some x => (s.gangAgents x).foldl State.raiseIfLate s

/-- The instruction blocks, or raises PROMISE at once on account of what it waits for (R336). -/
def Issue.blockOn (m : Issue) (w : Wait) : State :=
  let late := m.s.lateFor (qidOf m.ag) m.g.host w
  if late.isEmpty then m.block w
  else ({ m with s := m.s.markPromised (late.map CopyCmd.id) }).raise .promise 6 0

/-- WAIT: until a counter is at most the threshold (R394). -/
def execWait (h : Hd) (cls : WaitClass) (n : Imm) (s : State) : Host.Outcome State Fault Refusal :=
  issue (.wait h cls n) h s fun m =>
    let t := (immInt n).toNat
    if m.g.counter cls ≤ t then m.done else m.blockOn (.counter cls t (lenWords h.len))

/-- WAKEAT: until CYCLE reaches the pair S[A]; a cycle already passed completes at once, or raises PROMISE (R396). -/
def execWakeat (h : Hd) (a : RegNo) (s : State) : Host.Outcome State Fault Refusal :=
  issue (.wakeat h a) h s fun m =>
    let till := (m.sget2 a.toNat).toNat
    let late := m.s.lateFor (qidOf m.ag) m.g.host (.wakeat till)
    if !late.isEmpty then ({ m with s := m.s.markPromised (late.map CopyCmd.id) }).raise .promise 6 0
    else if till ≤ m.s.cycle m.g.host then m.done
    else m.block (.wakeat till)

/-! ## Byte barriers (R190, R191, R324-R326) -/

/-- The barrier at S[A]: its region and offset, or the failed check (R324); none while the front's gang is not resident
(R319). -/
def Issue.barrierAt (m : Issue) (off : Nat) : Option (Except Bad (Nat × Nat)) :=
  match (m.s.who m.g).sp with
  | none => none
  | some (core, base, size) =>
    if off % 16 ≠ 0 then some (.error ⟨.align, off⟩)
    else if off + 16 > size then some (.error ⟨.prot, off⟩)
    else some (.ok (core, base))

/-- The entry of a BBI or BBA enters the queues: relaxed, or a core-scope release (R324, R325). -/
def Issue.barrierStep (m : Issue) (arrive : Bool) (a b : RegNo) : State :=
  let off := (m.sget a.toNat).toNat
  let n := (m.sget b.toNat).toNat
  match m.barrierAt off with
  | none => m.stall
  | some (.error x) => m.fail m.s x 3
  | some (.ok (core, base)) =>
    if n ≥ 2 ^ 24 then m.raise .prot 3 0 else
    let e : Entry :=
      { pos := m.g.nextPos, split := m.k.no, kind := .barrier arrive n, key := spKey core (base + off), n := 16, data := []
        ty := .b32, dest := .none, order := if arrive then .rel else .rlx, scope := .core, poll := false, cls := none
        fence := m.g.fence, isFence := false, whole := [] }
    ({ m with g := m.g.enqueue [e] }).done

/-- BBI (R191, R324). -/
def execBbi (h : Hd) (a b : RegNo) (s : State) : Host.Outcome State Fault Refusal :=
  issue (.bbi h a b) h s fun m => m.barrierStep false a b

/-- BBA (R191, R324, R325). -/
def execBba (h : Hd) (a b : RegNo) (s : State) : Host.Outcome State Fault Refusal :=
  issue (.bba h a b) h s fun m => m.barrierStep true a b

/-- BBW: until PEND, read at the barrier's home, is zero (R191, R326). -/
def execBbw (h : Hd) (a : RegNo) (s : State) : Host.Outcome State Fault Refusal :=
  issue (.bbw h a) h s fun m =>
    let off := (m.sget a.toNat).toNat
    match m.barrierAt off with
    | none => m.stall
    | some (.error x) => m.fail m.s x 1
    | some (.ok (core, base)) =>
      match m.g.loadNow m.s (spKey core (base + off)) 3 true with
      | none => m.stall
      | some (s1, bs) => if leNat bs = 0 then ({ m with s := s1 }).done else ({ m with s := s1 }).blockOn (.barrier off)

/-- The step of a BBI or BBA at its barrier: PEND, UNDER and INIT, stored with the bound of its release set (R191, R200). -/
def State.barrierWrite (s : State) (key : Nat) (arrive : Bool) (count rel : Nat) : State :=
  let put (s : State) (k v : Nat) : State := s.storeHome none k (leBytes 4 v) rel
  if arrive then
    let w := s.homeNat key 4
    let pend := w % 2 ^ 24
    let under := bitOf w 31 || decide (count > pend)
    put s key ((w &&& 0x7F000000) + (if under then 2 ^ 31 else 0) + (pend - count))
  else
    let w := s.homeNat key 4
    let i := s.homeNat (key + 8) 4
    put (put s key ((w &&& 0x7F000000) + count)) (key + 8) ((i &&& 0xFF000000) + count)

/-! ## Marks (R201, R202) -/

/-- A fence mark of a split at the end of its queues. -/
def Issue.markEntry (m : Issue) (o : Order) (sc : Scope) (exp imp catchup : Bool) : Entry :=
  markOf m.g.nextPos m.k.no m.g.fence o sc exp imp catchup

/-- A mark is placed and the run stalls until it has left; then the instruction is complete (R201). -/
def Issue.fenceWith (m : Issue) (e : Entry) : State :=
  if m.k.hold = .fence then
    (if m.g.queue.any (fun x => x.isFence && x.split == m.k.no) then m.stall
     else ({ m with k := { m.k with hold := .none } }).done)
  else ({ m with g := m.g.enqueue [e], k := { m.k with hold := .fence } }).stallKeep

/-- FENCE (R201). -/
def execFence (h : Hd) (order : Order) (scope : Scope) (s : State) : Host.Outcome State Fault Refusal :=
  issue (.fence h order scope) h s fun m =>
    m.fenceWith (m.markEntry order scope false (scope == .sys && orderAcq order)
      (order == .sc && (scope == .dev || scope == .sys || scope == .pod)))

/-- FLUSH (R202): `.wb` a release with an Export at system scope, `.inv` an acquire with a catch-up and at system scope an
Import, `.wbi` both. -/
def execFlush (h : Hd) (mode : FlushMode) (scope : Scope) (s : State) : Host.Outcome State Fault Refusal :=
  issue (.flush h mode scope) h s fun m =>
    let sys := scope == .sys
    m.fenceWith (match mode with
      | .wb => m.markEntry .rel scope sys false false
      | .inv => m.markEntry .acq scope false sys true
      | .wbi => m.markEntry .ar scope sys sys true)

end Sys2Proof.Machine
end

