-- ==== Sys2Proof/Machine/Memory.lean ====
section
/-!
DEFINITION. Loads, stores and atomics (R320-R322, R355-R359, R365-R367, R378, R379), TLBINV (R387) and ICINV (R351).
-/
namespace Sys2Proof.Machine

open Sys2Proof

/-! ## Addresses and elements -/

/-- The size of an element in bytes. -/
def tyBytes (t : Ty) : Nat := tyBits t / 8

/-- An element read from memory, as it is placed in a register: i8 and i16 sign-extended to 32 bits, other narrow types with
zeros above (R356). -/
def element (t : Ty) (bs : List Byte) : DWord :=
  match t with
  | .i8 => ((BitVec.ofNat 8 (leNat bs)).signExtend 32).setWidth 64
  | .i16 => ((BitVec.ofNat 16 (leNat bs)).signExtend 32).setWidth 64
  | _ => BitVec.ofNat 64 (leNat bs)

/-- A scalar base address of a space: a pair, or a single register zero-extended (R158). -/
def Issue.baseS (m : Issue) (space : Space) (n : Nat) : DWord :=
  match space with
  | .sp | .qw => (m.sget n).setWidth 64
  | _ => m.sget2 n

/-- Lane i of a vector base address of a space (R158). -/
def Issue.baseV (m : Issue) (space : Space) (n i : Nat) : DWord :=
  match space with
  | .sp | .qw => (lane (m.vget n) i).setWidth 64
  | _ => m.vval .n64 n i

/-- The byte offset of a load or store: S[B] read as i32, or IMM32 (R355). -/
def Issue.off (m : Issue) : SrcB → DWord
  | .reg o => (m.sget (m.reg o)).signExtend 64
  | .imm v => v.signExtend 64
  | .lit v => v

/-- The addresses of a per-lane form: base(V[A][L]) + off (R355). -/
def Issue.addrV (m : Issue) (space : Space) (a : Opnd) (b : SrcB) : List (Nat × Nat) :=
  m.active.map fun i => (i, (m.baseV space (m.reg a) i + m.off b).toNat)

/-- The addresses of a scalar-base form over the active lanes: base(S[A]) + off + e × L (R355). -/
def Issue.addrS (m : Issue) (space : Space) (t : Ty) (a : Opnd) (b : SrcB) : List (Nat × Nat) :=
  m.active.map fun i => (i, (m.baseS space (m.reg a) + m.off b + BitVec.ofNat 64 (tyBytes t * i)).toNat)

/-- The addresses of the form with a vector of offsets (R355). -/
def Issue.addrSV (m : Issue) (space : Space) (a b : Opnd) : List (Nat × Nat) :=
  m.active.map fun i => (i, (m.baseS space (m.reg a) + (lane (m.vget (m.reg b)) i).signExtend 64).toNat)

/-- The address of a uniform form (R359). -/
def Issue.addr1 (m : Issue) (space : Space) (a : Opnd) (b : SrcB) : List (Nat × Nat) :=
  [(0, (m.baseS space (m.reg a) + m.off b).toNat)]

/-- The device id of a scalar-base form in the pod space: the scalar after the base pair (R161). -/
def Issue.podId (m : Issue) (a : Opnd) : Word := m.sget (m.reg a + 2)

/-! ## The checks of a memory instruction (R168) -/

/-- An atomic of an operation and type may be performed on a page: host pages take add, exch and cas of 32 and 64 bits, no
f32 addition, and only where a trained link has AtomicOp completion enabled (R169, R320). -/
def State.atomicOk (s : State) (o : AtomOp) (t : Ty) (l : Loc) : Bool :=
  l.target != 1 ||
    ((match o with | .add => t != .f32 | .exch | .cas => true | _ => false) &&
      (tyBits t == 32 || tyBits t == 64) && (s.linkUp &&& s.linkAtomics) != 0)

/-- The checks of R168 over the accesses of an instruction: ALIGN over all, the device id of the pod space, then range,
translation, protection and poison of each in order; `extra` is a last check of each, behind its POISON: for an atomic on a host
page that it refuses R169 gives no order between the two (notes/assumptions/106.md). -/
def Issue.checks (m : Issue) (space : Space) (id : Word) (n : Nat) (rd wr atomic : Bool) (extra : State → Loc → Bool)
    (accs : List (Nat × Nat)) : Chk × Except Bad (List (Nat × Loc)) :=
  let c0 : Chk := { s := m.s, memo := [] }
  match accs.find? fun x => x.2 % n != 0 with
  | some x => (c0, .error ⟨.align, x.2⟩)
  | none =>
    if space = .rm && !m.s.reaches id then (c0, .error ⟨.prot, 0⟩) else
    let w := m.s.who m.g
    c0.all (fun c a =>
      let r := if space = .rm then c.pod w id a n rd wr atomic else c.loc w space a n rd wr
      match r with
      | (c1, .ok l) => if extra c1.s l then (c1, .ok l) else (c1, .error ⟨.prot, a⟩)
      | x => x) accs

/-- A sequentially consistent access has an implied FENCE of its scope before it (R199). -/
def Issue.implied (m : Issue) (a : MemAttr) : Issue :=
  if a.order = .sc then
    let e := m.markEntry .sc a.scope false (a.scope == .sys) (a.scope == .dev || a.scope == .sys || a.scope == .pod)
    { m with g := m.g.enqueue [{ e with isFence := false }] }
  else m

/-- Entries of an instruction at one queue position, counted in a class (R101, R197). -/
def Issue.enter (m : Issue) (a : MemAttr) (cls : WaitClass) (es : Nat → List Entry) : Issue :=
  let n := m.implied a
  { n with g := ((n.g.enqueue (es n.g.nextPos)).setCounter cls (n.g.counter cls + 1)) }

/-- A counter that cannot rise holds the instruction in place (R395). -/
def Issue.counted (m : Issue) (cls : WaitClass) (go : Issue → State) : State :=
  if m.g.counter cls ≥ 65535 then m.stall else go m

/-! ## Loads (R355-R359) -/

/-- A load entry: `.poll`, the pod space and pages of other modules have their loads performed at the home (R195, R198). -/
def Issue.loadE (m : Issue) (a : MemAttr) (t : Ty) (pos : Nat) (l : Loc) (d : Dest) : Entry :=
  { pos := pos, split := m.k.no, kind := .load, key := l.key, n := tyBytes t, data := [], ty := t, dest := d
    order := if a.order = .sc then .acq else a.order, scope := a.scope, poll := a.poll || a.space = .rm || l.target = 2, cls := some .loads
    fence := 0, isFence := false, whole := [] }

/-- The effect of LD and LDS: the checks, then one Load step for each access; `.poll` demotes the split (R56, R357). -/
def Issue.loads (m : Issue) (a : MemAttr) (t : Ty) (id : Word) (accs : List (Nat × Nat)) (dest : Nat → Dest) : State :=
  if accs.isEmpty then m.done else
  match m.checks a.space id (tyBytes t) true false false (fun _ _ => true) accs with
  | (c, .error b) => m.fail c.s b 1
  | (c, .ok ls) =>
    m.counted .loads fun m =>
      let n := (m.withS c.s).enter a .loads fun pos => ls.map fun x => m.loadE a t pos x.2 (dest x.1)
      if a.poll then
        ({ n with s := n.s.count (n.g.host / 8) (some n.g.ctx) 4 1, k := { n.k with demoted := true } }).done
      else n.done

/-- The destination of lane i of a vector register. -/
def Issue.destV (m : Issue) (t : Ty) (d : Opnd) (i : Nat) : Dest :=
  let lo := absSlot m.k.base (m.reg d)
  .vec lo (if tyRegs t = 2 then absSlot m.k.base (m.reg d + 1) else lo) i

/-- The destination in a scalar register. -/
def Issue.destS (m : Issue) (t : Ty) (d : Opnd) : Dest :=
  let lo := m.sreg (m.reg d)
  .scal lo (if tyRegs t = 2 then m.sreg (m.reg d + 1) else lo)

/-- LD with per-lane addresses (R355, R357). -/
def execLdVA (h : Hd) (m : MemAttr) (ty : Ty) (d a : Opnd) (b : SrcB) (s : State) : Host.Outcome State Fault Refusal :=
  issue (.ldVA h m ty d a b) h s fun i => i.loads m ty 0 (i.addrV m.space a b) (i.destV ty d)

/-- LD with a scalar base (R355, R357). -/
def execLdSA (h : Hd) (m : MemAttr) (ty : Ty) (d a : Opnd) (b : SrcB) (s : State) : Host.Outcome State Fault Refusal :=
  issue (.ldSA h m ty d a b) h s fun i => i.loads m ty (i.podId a) (i.addrS m.space ty a b) (i.destV ty d)

/-- LD with a scalar base and a vector of offsets (R355, R357). -/
def execLdSAVB (h : Hd) (m : MemAttr) (ty : Ty) (d a b : Opnd) (s : State) : Host.Outcome State Fault Refusal :=
  issue (.ldSAVB h m ty d a b) h s fun i => i.loads m ty (i.podId a) (i.addrSV m.space a b) (i.destV ty d)

/-- LDL: no register, no counter, no fault, and no outcome that Propagate steps could not make (R358). -/
def execLdl (h : Hd) (m : MemAttr) (a : Opnd) (b : SrcB) (s : State) : Host.Outcome State Fault Refusal :=
  issue (.ldl h m a b) h s fun i => i.done

/-- LDS (R359). -/
def execLds (h : Hd) (m : MemAttr) (ty : Ty) (d a : Opnd) (b : SrcB) (s : State) : Host.Outcome State Fault Refusal :=
  issue (.lds h m ty d a b) h s fun i => i.loads m ty (i.podId a) (i.addr1 m.space a b) fun _ => i.destS ty d

/-! ## Stores (R378, R379) -/

/-- Of several lanes that write one location the highest is entered (R204). -/
def highest : List (Nat × Loc) → List (Nat × Loc)
  | [] => []
  | x :: r => if r.any fun y => y.2.key == x.2.key then highest r else x :: highest r

/-- The lines that a list of accesses of n bytes writes whole (R181). -/
def coveredLines (n : Nat) (ls : List (Nat × Loc)) : List Nat :=
  ((ls.map fun x => lineOf x.2.key).eraseDups).filter fun l =>
    (List.range 128).all fun j => ls.any fun x => decide (x.2.key ≤ l * 128 + j) && decide (l * 128 + j < x.2.key + n)

/-- A store entry. -/
def Issue.storeE (m : Issue) (a : MemAttr) (t : Ty) (pos : Nat) (whole : List Nat) (l : Loc) (v : DWord) : Entry :=
  { pos := pos, split := m.k.no, kind := .store, key := l.key, n := tyBytes t, data := leBytes (tyBytes t) v.toNat, ty := t
    dest := .none, order := if a.order = .sc then .rel else a.order, scope := a.scope, poll := false, cls := some .stores
    fence := m.g.fence, isFence := false, whole := whole }

/-- The effect of ST and STS: the checks, then one store entry for each access (R379). -/
def Issue.stores (m : Issue) (a : MemAttr) (t : Ty) (id : Word) (accs : List (Nat × Nat)) (v : Nat → DWord) : State :=
  if accs.isEmpty then m.done else
  match m.checks a.space id (tyBytes t) false true false (fun _ _ => true) accs with
  | (c, .error b) => m.fail c.s b 2
  | (c, .ok ls) =>
    m.counted .stores fun m =>
      let whole := coveredLines (tyBytes t) ls
      ((m.withS c.s).enter a .stores fun pos => (highest ls).map fun x => m.storeE a t pos whole x.2 (v x.1)).done

/-- ST with per-lane addresses (R378, R379). -/
def execStVA (h : Hd) (m : MemAttr) (ty : Ty) (d a : Opnd) (b : SrcB) (s : State) : Host.Outcome State Fault Refusal :=
  issue (.stVA h m ty d a b) h s fun i => i.stores m ty 0 (i.addrV m.space a b) fun l => i.vval ty (i.reg d) l

/-- ST with a scalar base (R378, R379). -/
def execStSA (h : Hd) (m : MemAttr) (ty : Ty) (d a : Opnd) (b : SrcB) (s : State) : Host.Outcome State Fault Refusal :=
  issue (.stSA h m ty d a b) h s fun i =>
    i.stores m ty (i.podId a) (i.addrS m.space ty a b) fun l => i.vval ty (i.reg d) l

/-- STS (R378, R379). -/
def execSts (h : Hd) (m : MemAttr) (ty : Ty) (d a : Opnd) (b : SrcB) (s : State) : Host.Outcome State Fault Refusal :=
  issue (.sts h m ty d a b) h s fun i => i.stores m ty (i.podId a) (i.addr1 m.space a b) fun _ => i.sval ty (i.reg d)

/-! ## Atomics (R320-R322, R365-R367) -/

/-- An atomic entry. -/
def Issue.atomE (m : Issue) (a : MemAttr) (o : AtomOp) (t : Ty) (pos : Nat) (l : Loc) (d : Dest) (x y : DWord) : Entry :=
  { pos := pos, split := m.k.no, kind := .atomic o x y, key := l.key, n := tyBytes t, data := [], ty := t, dest := d
    order := if a.order = .sc then .ar else a.order, scope := a.scope, poll := false, cls := some .loads
    fence := m.g.fence, isFence := false, whole := [] }

/-- The effect of ATOM and RATOM: the checks, then one Atomic step for each access (R321, R366). -/
def Issue.atoms (m : Issue) (a : MemAttr) (o : AtomOp) (t : Ty) (id : Word) (accs : List (Nat × Nat)) (dest : Nat → Dest)
    (x y : Nat → DWord) : State :=
  if accs.isEmpty then m.done else
  match m.checks a.space id (tyBytes t) true true true (fun s l => s.atomicOk o t l) accs with
  | (c, .error b) => m.fail c.s b 3
  | (c, .ok ls) =>
    m.counted .loads fun m =>
      ((m.withS c.s).enter a .loads fun pos =>
        ls.map fun l => m.atomE a o t pos l.2 (dest l.1) (x l.1) (y l.1)).done

/-- ATOM per lane (R320, R321). -/
def execAtomV (h : Hd) (o : AtomOp) (m : MemAttr) (ty : Ty) (d a b c : Opnd) (s : State) :
    Host.Outcome State Fault Refusal :=
  issue (.atomV h o m ty d a b c) h s fun i =>
    i.atoms m o ty 0 (i.active.map fun l => (l, (i.baseV m.space (i.reg a) l).toNat)) (i.destV ty d)
      (i.vval ty (i.reg b)) (i.vval ty (i.reg c))

/-- ATOM of one access (R320, R321). -/
def execAtomS (h : Hd) (o : AtomOp) (m : MemAttr) (ty : Ty) (d a b c : Opnd) (s : State) :
    Host.Outcome State Fault Refusal :=
  issue (.atomS h o m ty d a b c) h s fun i =>
    i.atoms m o ty 0 [(0, (i.baseS m.space (i.reg a)).toNat)] (fun _ => i.destS ty d)
      (fun _ => i.sval ty (i.reg b)) (fun _ => i.sval ty (i.reg c))

/-- RATOM per lane: the device id in S[C], y behind x (R365, R366). -/
def execRatomV (h : Hd) (o : AtomOp) (m : MemAttr) (ty : Ty) (d a b c : Opnd) (s : State) :
    Host.Outcome State Fault Refusal :=
  issue (.ratomV h o m ty d a b c) h s fun i =>
    i.atoms m o ty (i.sget (i.reg c)) (i.active.map fun l => (l, (i.vval .n64 (i.reg a) l).toNat)) (i.destV ty d)
      (i.vval ty (i.reg b)) (i.vval ty (i.reg b + tyRegs ty))

/-- RATOM of one access (R365, R366). -/
def execRatomS (h : Hd) (o : AtomOp) (m : MemAttr) (ty : Ty) (d a b c : Opnd) (s : State) :
    Host.Outcome State Fault Refusal :=
  issue (.ratomS h o m ty d a b c) h s fun i =>
    i.atoms m o ty (i.sget (i.reg c)) [(0, (i.sget2 (i.reg a)).toNat)] (fun _ => i.destS ty d)
      (fun _ => i.sval ty (i.reg b)) (fun _ => i.sval ty (i.reg b + tyRegs ty))

/-! ## The steps of entries (R197) -/

/-- A value written where a load or atomic puts it: a mask word is ANDed with the owned lanes (R104). -/
def Group.putScal (g : Group) (r : SReg) (w : Word) : Group :=
  match r with
  | .slot n => g.setScal n w
  | .mask no i =>
    match g.split? no with
    | some k => g.setSplit { k with mask := setMaskWord k.mask i w &&& k.owned }
    | none => g

/-- One lane of the vector half of a slot written. -/
def Group.putLane (g : Group) (slot l : Nat) (w : Word) : Group :=
  let v := g.vec slot
  g.setVec slot (vtab fun i => if i = l then w else lane v i)

/-- The value of a load or atomic reaches its registers (R102, R356). -/
def Group.deliver (g : Group) (d : Dest) (t : Ty) (v : DWord) : Group :=
  let lo := v.extractLsb' 0 32
  let hi := v.extractLsb' 32 32
  match d with
  | .none => g
  | .vec a b l => if tyRegs t = 2 then (g.putLane a l lo).putLane b l hi else g.putLane a l lo
  | .scal a b => if tyRegs t = 2 then (g.putScal a lo).putScal b hi else g.putScal a lo

/-- The i-th entry leaves the queues, and its instruction counts down with its last entry (R357, R379); DQPOPs that it has
barred are served (R342). -/
def State.leave (s : State) (q : QId) (i : Nat) (e : Entry) : State :=
  match s.group? q with
  | none => s
  | some g =>
    let g1 := { g with queue := g.queue.eraseIdx i }
    let s1 := s.setGroup q g1
    let s2 := match e.cls with
      | none => s1
      | some c => if g1.queue.any fun x => x.pos == e.pos && x.cls == some c then s1 else s1.countDown q c
    if (s.core g.lcore).dq.isEmpty then s2 else s2.dqServeAll g.lcore

/-- The release set of a store as it reaches its home: every store before it for a release at device, system or pod scope,
else every store before the latest such fence of its queue (R200). -/
def State.releaseSet (s : State) (e : Entry) : Nat :=
  if orderRel e.order && (e.scope == .dev || e.scope == .sys || e.scope == .pod) then s.nextSeq else e.fence

/-- DRAIN of the i-th entry of a group's queues: a store reaches its home, but for one to a line of a page in flight that has
not moved; with the last lane of a poisoned line that its instruction covers the mark goes, and the line is stored in its
encoding (R177, R179, R181, R197). -/
def tryDrain (q : QId) (i : Nat) (s : State) : Option State :=
  match s.group? q with
  | none => none
  | some g =>
    match g.queue[i]? with
    | none => none
    | some e =>
      if !e.isStore || !mayStep g.queue i || s.inFlightAt e.key e.n then none else
      let s1 := s.storeHome (some g.host) e.key e.data (s.releaseSet e)
      let rest := g.queue.eraseIdx i
      let clean := e.whole.filter fun l =>
        decide (lineOf e.key = l) && !rest.any fun x => x.pos == e.pos && x.isStore && lineOf x.key == l
      let s2 := (s1.alike clean).foldl (fun s l => s.recompress (l * 128) 128) (s1.clearPoison clean)
      some (s2.leave q i e)

/-- LOAD_STEP of the i-th entry (R197, R198). -/
def tryLoadStep (q : QId) (i : Nat) (s : State) : Option State :=
  match s.group? q with
  | none => none
  | some g =>
    match g.queue[i]? with
    | none => none
    | some e =>
      if !e.isLoad || !mayStep g.queue i then none else
      let (s1, bs) := s.loadStep g.host (g.queue.take i) e.pos e.key e.n e.poll
      match s1.group? q with
      | none => none
      | some g1 => some ((s1.setGroup q (g1.deliver e.dest e.ty (element e.ty bs))).leave q i e)

/-- The new value of an atomic; none where a compare-and-swap fails (R321). -/
def atomNew (o : AtomOp) (t : Ty) (old x y : Nat) : Option Nat :=
  let int (op : IntOp) : Option Nat := some (intOp op t (BitVec.ofNat 64 old) (BitVec.ofNat 64 x)).toNat
  let x' := x % 2 ^ tyBits t
  match o with
  | .add => if t = .f32 then some (fAdd (fmtOf .f32) rne false old x').1 else int .add
  | .min => int .min
  | .max => int .max
  | .and => int .and
  | .or => int .or
  | .xor => int .xor
  | .exch => some x'
  | .cas => if old = x' then some (y % 2 ^ tyBits t) else none

/-- A read-modify-write at a home: the state after, the old value, and whether it is no compare-and-swap that stored nothing;
a poisoned line returns the marker unchanged (R56, R180, R321). `core` is the core whose view advances, `rel` the bound of the release set. -/
def State.atomic (s : State) (core : Option Nat) (o : AtomOp) (t : Ty) (key : Nat) (x y : DWord) (rel : Nat) :
    State × Nat × Bool :=
  let n := tyBytes t
  let old := s.homeNat key n
  let s1 := match core with
    | some c => s.viewHome c key n
    | none => s
  if (s.firstPoison key n).isSome then (s1, old, o != .cas) else
  match atomNew o t old x.toNat y.toNat with
  | some v => (s1.storeHome core key (leBytes n v) rel, old, true)
  | none => (s1, old, false)

/-- The split that executed a compare-and-swap of which a lane fails is demoted, its readiness stamp reset: once, whichever lanes
fail (R56, R313, R322). -/
def State.demote (s : State) (q : QId) (e : Entry) : State :=
  match s.group? q with
  | none => s
  | some g0 =>
    if e.told then s else
    let g := { g0 with queue := g0.queue.map fun (x : Entry) => if x.pos = e.pos then { x with told := true } else x }
    match g.split? e.split with
    | none => s
    | some k =>
      (s.count (g.host / 8) (some g.ctx) 4 1).setGroup q (g.setSplit { k with demoted := true, stamp := s.now g })

/-- The gang whose scratchpad region holds a byte. -/
def State.regionGang (s : State) (key : Nat) : Option Gang :=
  s.gangs.find? fun x => x.state == .resident && decide (spKey x.host x.spBase ≤ key) &&
    decide (key < spKey x.host (x.spBase + x.spSize))

/-- ATOMIC_STEP of the i-th entry: an ATOM or RATOM, or the step of a BBI or BBA, each with the core's view advanced to
what it reads; a waiting BBW sees that of a BBA (R197,
R321, R326). -/
def tryAtomicStep (q : QId) (i : Nat) (s : State) : Option State :=
  match s.group? q with
  | none => none
  | some g =>
    match g.queue[i]? with
    | none => none
    | some e =>
      if !mayStep g.queue i || s.inFlightAt e.key e.n then none else
      match e.kind with
      | .atomic o x y =>
        let (s1, old, ok) := s.atomic (some g.host) o e.ty e.key x y (s.releaseSet e)
        match s1.group? q with
        | none => none
        | some g1 =>
          let s2 := (s1.setGroup q (g1.deliver e.dest e.ty (BitVec.ofNat 64 old))).leave q i e
          some (if ok then s2 else s2.demote q e)
      | .barrier arrive n =>
        match if arrive then s.regionGang e.key else none with
        | some x =>
          let s0 := (s.raiseOverdue x.uid).viewHome g.host e.key e.n
          let s1 := (s0.barrierWrite e.key arrive n (s.releaseSet e)).leave q i e
          some (s1.wakeBarrier x.uid (e.key - spKey x.host x.spBase))
        | none => some (((s.viewHome g.host e.key e.n).barrierWrite e.key arrive n (s.releaseSet e)).leave q i e)
      | _ => none

/-- A slot that became spillable before a position of the queues has still to be spilled: Sillage can do it, and a fence at
system scope has its image drain (R118; notes/assumptions/51.md). -/
def State.spillLeft (s : State) (g : Group) (pos : Nat) : Bool :=
  g.ring.any fun r => match r.abs, r.since with
    | some n, some p => decide (p.1 < pos) && !r.clean && g.spillable n && (match (s.spillSlot g n).2 with
      | .ok _ => true
      | .error _ => false)
    | _, _ => false

/-- What a mark waits for beside the entries of its queues: before a fence at system scope the spills that stand before it,
before a `.sc` mark of a front its CPY and KICK commands (R118, R201), and an Import step before lines in flight (R179). -/
def State.markWaits (s : State) (q : QId) (g : Group) (e : Entry) (imp : Bool) : Bool :=
  (e.scope == .sys && s.spillLeft g e.pos) ||
  (g.isFront && e.order == .sc && (s.cmdsOf q).any fun c => !c.accepted && decide (c.pos ≤ e.pos)) ||
  (imp && s.importStalls)

/-- FENCE_MARK_LEAVE of the i-th entry: the mark leaves, with its Export, Import and catch-up; later stores are cumulative over
what stood at its home before the step (R200-R202). -/
def tryFenceMarkLeave (q : QId) (i : Nat) (s : State) : Option State :=
  match s.group? q with
  | none => none
  | some g =>
    match g.queue[i]? with
    | none => none
    | some e =>
      match e.kind with
      | .mark exp imp catchup =>
        if !mayStep g.queue i || s.markWaits q g e imp then none else
        let s1 := if exp then s.exportStep g.ctx else s
        let s2 := if imp then s1.importStep (some g.host) else s1
        let s3 := if catchup then s2.catchUp g.host else s2
        let cumul := orderRel e.order && (e.scope == .dev || e.scope == .sys || e.scope == .pod)
        match s3.group? q with
        | none => none
        | some g1 => some ((s3.setGroup q { g1 with fence := if cumul then s.nextSeq else g1.fence }).leave q i e)
      | _ => none

/-- PROPAGATE: a store at its home, later than what the view of a core shows for one of its bytes, moves into the view, with
its release set (R197, R198). -/
def tryPropagate (core seq : Nat) (s : State) : Option State :=
  match s.homes.find? fun h => h.seq == seq with
  | none => none
  | some h =>
    let v := (s.core core).view
    if h.cells.any fun c => viewed c.1 && decide (v.bound c.1 < h.seq) then some (s.propagate core h) else none

/-- A device event: where its conditions do not hold it changes nothing. -/
def event (f : State → Option State) (s : State) : Host.Outcome State Fault Refusal := .next ((f s).getD s)

/-- DRAIN (R197). -/
def execDrain (q : QId) (i : Nat) (s : State) : Host.Outcome State Fault Refusal := event (tryDrain q i) s
/-- LOAD_STEP (R197). -/
def execLoadStep (q : QId) (i : Nat) (s : State) : Host.Outcome State Fault Refusal := event (tryLoadStep q i) s
/-- ATOMIC_STEP (R197). -/
def execAtomicStep (q : QId) (i : Nat) (s : State) : Host.Outcome State Fault Refusal := event (tryAtomicStep q i) s
/-- FENCE_MARK_LEAVE (R201). -/
def execFenceMarkLeave (q : QId) (i : Nat) (s : State) : Host.Outcome State Fault Refusal :=
  event (tryFenceMarkLeave q i) s
/-- PROPAGATE (R197, R198). -/
def execPropagate (core seq : Nat) (s : State) : Host.Outcome State Fault Refusal := event (tryPropagate core seq) s

/-! ## TLBINV and ICINV -/

/-- Cached translations of a context dropped on a core: all, or those of pages that hold an address and of the tables on its
path (R387). -/
def Core.dropTlb (c : Core) (ctx : Nat) (va : Option Nat) : Core :=
  { c with
    tlb := c.tlb.filter fun e => e.ctx != ctx ||
      (match va with
       | none => false
       | some a => !(decide (e.va ≤ a) && decide (a < e.va + e.size)))
    walks := c.walks.filter fun e => e.ctx != ctx ||
      (match va with
       | none => false
       | some a => e.tag != a >>> e.sh) }

/-- TLBINV: once every older store of the group has drained, the entries of the context are dropped (R387). -/
def execTlbinv (h : Hd) (page : Bool) (scope : Scope) (a : RegNo) (s : State) : Host.Outcome State Fault Refusal :=
  issue (.tlbinv h page scope a) h s fun m =>
    if m.g.queue.any fun e => e.isStore || e.isAtomic then m.stall else
    let va := if page then some (m.sget2 a.toNat).toNat else none
    let cores : List Core := m.s.cores.map fun c =>
      if scope = .dev ∨ c.idx = m.g.host then c.dropTlb m.g.ctx va else c
    (m.withS { m.s with cores := cores }).done

/-- The captured loops of a split marked for discard (R127). -/
def Group.markLoops (g : Group) : Group :=
  { g with splits := g.splits.map fun k => { k with levels := k.levels.map fun l => { l with discard := true } } }

/-- The captured loops of a core marked for discard (R127). -/
def State.markLoops (s : State) (core : Nat) : State :=
  { s with
    gangs := s.gangs.map fun x => if x.host = core then { x with groups := x.groups.map Group.markLoops } else x
    cores := s.cores.map fun c =>
      if c.idx = core then { c with front := c.front.map fun f => { f with group := f.group.markLoops } } else c }

/-- ICINV: the core's instruction cache is invalidated, with `.lb` its captured loops are marked; the rest of the run decodes
the words that it has fetched (R127, R351, R352). -/
def execIcinv (h : Hd) (lb : Bool) (s : State) : Host.Outcome State Fault Refusal :=
  issue (.icinv h lb) h s fun m =>
    let c := m.g.host
    let (s1, ws) := m.fetchAhead m.after (Config.runLength - m.s.runCount)
    let s2 := s1.setCore { s1.core c with icache := [] }
    let s3 := match s2.runs with
      | [] => s2
      | r :: rs => { s2 with runs := { r with ahead := ws } :: rs }
    let mark (l : Level) : Level := { l with discard := true }
    let s4 := if lb then s3.markLoops c else s3
    let k1 : Split := if lb then { m.k with levels := m.k.levels.map mark } else m.k
    ({ m with s := s4, k := k1, g := if lb then m.g.markLoops else m.g } : Issue).done

end Sys2Proof.Machine
end

