-- ==== Sys2Proof/Machine/Tables.lean ====
section
/-!
DEFINITION. The tensor table (R173, R174), TDEF and TDEF.get (R383-R386), PUBLISH (R193, R206), and the tile operations of a
group as far as they have not completed (R101, R212).
-/
namespace Sys2Proof.Machine

open Sys2Proof

/-! ## Entries -/

/-- A tensor entry (R173). -/
structure Tensor where
  valid   : Bool
  sel     : Bool
  pub     : Bool
  pat     : Nat
  comp    : Bool
  saxis   : Bool
  scaled  : Bool
  space   : Space
  ty      : Ty
  layers  : Nat
  lstride : Int
  stride  : Int
  cols    : Nat
  rows    : Nat
  base1   : Nat
  base0   : Nat
  deriving DecidableEq, Repr

/-- The bit of SEL. -/
def selBit : BitVec 256 := BitVec.twoPow 256 243

/-- Reserved fields are zero, codes are defined, and BASE1 is zero without PUB (R173). -/
def imageOk (img : BitVec 256) : Bool :=
  let v := img.toNat
  bitsOf v 254 244 == 0 && !bitOf v 224 && decide (bitsOf v 230 225 ≤ 0x10) && decide (bitsOf v 237 236 ≤ 1) &&
  decide (bitsOf v 233 231 ≤ 2) && (bitOf v 242 || bitsOf v 111 56 == 0)

/-- The fields of an entry. -/
def tensorOf (img : BitVec 256) : Tensor :=
  let v := img.toNat
  { valid := bitOf v 255, sel := bitOf v 243, pub := bitOf v 242, pat := bitsOf v 241 238, comp := bitsOf v 237 236 == 1
    saxis := bitOf v 235, scaled := bitOf v 234
    space := if bitsOf v 233 231 = 0 then .gv else if bitsOf v 233 231 = 1 then .sp else .ws
    ty := (tyOf (BitVec.ofNat 6 (bitsOf v 230 225))).getD .b32, layers := bitsOf v 223 208 + 1
    lstride := sgn 32 (bitsOf v 207 176), stride := sgn 32 (bitsOf v 175 144), cols := bitsOf v 143 128 + 1
    rows := bitsOf v 127 112 + 1, base1 := bitsOf v 111 56, base0 := bitsOf v 55 0 }

/-- The base that engines read (R174). -/
def Tensor.current (t : Tensor) : Nat := if t.sel then t.base1 else t.base0
/-- The base that engines write: the shadow of a published tensor (R174). -/
def Tensor.write (t : Tensor) : Nat := if t.pub then (if t.sel then t.base0 else t.base1) else t.base0

/-- The image of entry tid of a context. -/
def Context.tensor (c : Context) (tid : Nat) : BitVec 256 := ((c.tensors.find? fun x => x.1 == tid).map (·.2)).getD 0
/-- An entry replaced. -/
def Context.setTensor (c : Context) (tid : Nat) (img : BitVec 256) : Context :=
  { c with tensors := if img = 0 then c.tensors.filter (fun x => x.1 != tid)
                      else upsert (fun x => x.1 == tid) (tid, img) c.tensors }

/-- An entry that an instruction names: none where R174 raises PROT. -/
def Context.named (c : Context) (tid : Nat) (spaces : List Space) : Option Tensor :=
  let img := c.tensor tid
  let t := tensorOf img
  if t.valid && imageOk img && spaces.contains t.space then some t else none

/-! ## Tile operations in progress -/

/-- The group still owes the table step of a TDEF of an entry (R385). -/
def Group.tidBusy (g : Group) (tid : Nat) : Bool :=
  g.ops.any fun o => match o.kind with | .tdef t _ written => t.toNat == tid && !written | _ => false

/-- An operation that counts in the tiles class enters; a counter that cannot rise holds the instruction (R362, R395). -/
def Issue.addOp (m : Issue) (k : TileKind) : State :=
  if m.g.tiles ≥ 65535 then m.stall else
  let o : TileOp := { id := m.g.nextOp, pos := m.g.nextPos, kind := k }
  ({ m with g := { m.g with tiles := m.g.tiles + 1, nextOp := m.g.nextOp + 1, ops := m.g.ops ++ [o] } }).done

/-- An operation of a group by its number. -/
def Group.op? (g : Group) (id : Nat) : Option TileOp := g.ops.find? fun o => o.id == id
/-- An operation replaced. -/
def Group.setOp (g : Group) (o : TileOp) : Group := { g with ops := replaceFirst (fun x => x.id == o.id) o g.ops }
/-- An operation taken away. -/
def Group.dropOp (g : Group) (id : Nat) : Group := { g with ops := g.ops.filter fun o => !(o.id == id) }

/-- Every store older than a queue position has drained (R205, R206, R385). -/
def Group.storesDrained (g : Group) (pos : Nat) : Bool :=
  g.queue.all fun e => !(e.isStore || e.isAtomic) || decide (pos ≤ e.pos)

/-- An operation is complete: the tiles counter counts it (R212). -/
def State.opDone (s : State) (q : QId) (id : Nat) : State :=
  match s.group? q with
  | none => s
  | some g => (s.setGroup q (g.dropOp id)).countDown q .tiles

/-! ## TDEF (R383-R386) -/

/-- An image that TDEF and the creation of a context accept (R299, R384 step 3). -/
def tdefOk (img : BitVec 256) : Bool :=
  let t := tensorOf img
  !t.valid || (imageOk img && !t.sel && !(t.pub && t.space == .ws))

/-- The entry that an image leaves, SEL kept (R384, R385). -/
def tdefEntry (old img : BitVec 256) : BitVec 256 :=
  (if (tensorOf img).valid then img &&& ~~~selBit else 0) ||| (old &&& selBit)

/-- TDEF: the image is read now; the table step follows once the older stores have drained (R384, R385). -/
def execTdef (h : Hd) (tid : Tid) (a : RegNo) (s : State) : Host.Outcome State Fault Refusal :=
  issue (.tdef h tid a) h s fun m =>
    let va := (m.sget2 a.toNat).toNat
    if m.g.tidBusy tid.toNat then m.stall
    else if va % 32 ≠ 0 then m.raise .align 1 va
    else
      match Chk.loc { s := m.s, memo := [] } (m.s.who m.g) .gv va 32 true false with
      | (c, .error b) => m.fail c.s b 1
      | (c, .ok l) =>
        match m.g.loadNow c.s l.key 32 (l.target == 2) with
        | none => ({ m with s := c.s }).stall
        | some (s1, bs) =>
          let img := BitVec.ofNat 256 (leNat bs)
          let e := tensorOf (tdefEntry (m.ctx.tensor tid.toNat) img)
          if !tdefOk img || (e.sel && !e.pub) then m.fail s1 ⟨.prot, 0⟩ 7
          else ({ m with s := s1 }).addOp (.tdef tid img false)

/-- The weight-buffer entries of a core, those in core-state areas among them (R233). -/
def Core.allW (c : Core) : List WEntry := c.wbuf ++ (c.saved.map fun x => x.2.1).flatten

/-- A load that was in progress at the table step of a TDEF, or an MMA or MMAS that has looked an entry up, still uses tid
(R385). -/
def State.tidUsed (s : State) (ctx : Nat) (tid : Tid) : Bool :=
  (s.cores.any fun c => c.allW.any fun w => w.owner == ctx && w.tid == tid && w.doomed) ||
  s.gangs.any fun x => x.groups.any fun g => g.ctx == ctx && g.ops.any fun o =>
    match o.kind with | .mma _ _ _ _ _ w => w.tid == tid | _ => false

/-- READY weight-buffer entries of a context tagged with tid become EMPTY; those that still load, or that a stalled MMA or
MMAS has looked up, do so afterwards (R385). -/
def State.emptyTid (s : State) (ctx : Nat) (tid : Tid) : State :=
  let of (w : WEntry) : Bool := w.owner == ctx && w.tid == tid
  let fix (core : Nat) (l : List WEntry) : List WEntry :=
    (l.filter fun w => !(of w && w.st == .ready && !s.wHeld core ctx w.no)).map fun w => if of w then { w with doomed := true } else w
  { s with cores := s.cores.map fun c =>
      { c with wbuf := fix c.idx c.wbuf, saved := c.saved.map fun x => (x.1, fix c.idx x.2.1, x.2.2) } }

/-- TENSOR_TABLE_STEP: once the older stores have drained the image is written, SEL kept, and the weight buffers drop the
tensor (R385). -/
def tryTensorTableStep (q : QId) (op : Nat) (s : State) : Option State :=
  match s.group? q with
  | none => none
  | some g =>
    match g.op? op with
    | none => none
    | some o =>
      match o.kind with
      | .tdef tid img false =>
        if !g.storesDrained o.pos then none else
        let s1 := s.setGroup q (g.setOp { o with kind := .tdef tid img true })
        let c := s1.ctx g.ctx
        some ((s1.setCtx (c.setTensor tid.toNat (tdefEntry (c.tensor tid.toNat) img))).emptyTid g.ctx tid)
      | _ => none

/-- TENSOR_TABLE_STEP (R385). -/
def execTensorTableStep (q : QId) (op : Nat) (s : State) : Host.Outcome State Fault Refusal :=
  event (tryTensorTableStep q op) s

/-- TDEF.get: the entry as held, stored as one entry of 32 bytes (R386). -/
def execTdefGet (h : Hd) (tid : Tid) (a : RegNo) (s : State) : Host.Outcome State Fault Refusal :=
  issue (.tdefGet h tid a) h s fun m =>
    let va := (m.sget2 a.toNat).toNat
    if m.g.tidBusy tid.toNat then m.stall
    else if va % 32 ≠ 0 then m.raise .align 2 va
    else
      match Chk.loc { s := m.s, memo := [] } (m.s.who m.g) .gv va 32 false true with
      | (c, .error b) => m.fail c.s b 2
      | (c, .ok l) =>
        m.counted .stores fun m =>
          let e : Entry := { storeEntry m.g.nextPos m.k.no l.key (leBytes 32 (m.ctx.tensor tid.toNat).toNat) m.g.fence with
                             scope := .dev, cls := some .stores }
          ({ m with s := c.s, g := (m.g.enqueue [e]).setCounter .stores (m.g.stores + 1) }).done

/-! ## PUBLISH (R193, R206) -/

/-- PUBLISH (R193, R362). -/
def execPublish (h : Hd) (tid : Tid) (s : State) : Host.Outcome State Fault Refusal :=
  issue (.publish h tid) h s fun m =>
    if m.g.tidBusy tid.toNat then m.stall else
    match m.ctx.named tid.toNat [.gv, .sp, .ws] with
    | none => m.raise .prot 7 0
    | some t => if t.pub then m.addOp (.publish tid none) else m.raise .prot 7 0

/-- SELECT: once the publisher's older stores are at home, SEL is toggled (R206). -/
def trySelect (q : QId) (op : Nat) (s : State) : Option State :=
  match s.group? q with
  | none => none
  | some g =>
    match g.op? op with
    | none => none
    | some o =>
      match o.kind with
      | .publish tid none =>
        if !g.storesDrained o.pos then none else
        let c := s.ctx g.ctx
        let old := c.tensor tid.toNat
        let s1 := s.setGroup q (g.setOp { o with kind := .publish tid (some old) })
        some (s1.setCtx ((s1.ctx g.ctx).setTensor tid.toNat (old ^^^ selBit)))
      | _ => none

/-- SELECT (R206). -/
def execSelect (q : QId) (op : Nat) (s : State) : Host.Outcome State Fault Refusal := event (trySelect q op) s

/-- An access that an entry image has given its address has not completed: the load of a weight tile, or a copy to the
tensor's write base (R193). Other engines look the selector up at every access. -/
def State.inFlight (s : State) (ctx : Nat) (tid : Tid) (img : BitVec 256) : Bool :=
  (s.cores.any fun c => c.allW.any fun w => w.owner == ctx && w.tid == tid && w.st == .loading && w.image == img) ||
  s.gangs.any fun x => ((s.job? x.job).any fun j => j.ctx == ctx) && x.cmds.any fun c => c.via == some (tid, img)

end Sys2Proof.Machine
end

