-- ==== Sys2Proof/Machine/Flow.lean ====
section
/-!
DEFINITION. Flow, waiting and the gang barrier (R87): branches, divergence and reconvergence (R122-R124, R274), calls and
returns (R108-R111, R330-R332), loops (R126), ends, traps, waits and FENCE (R201).
-/
namespace Sys2Proof.Machine

open Sys2Proof

/-- A signed word offset from word 0 of the instruction (R64). -/
def Issue.target (m : Issue) (off : Int) : DWord := m.k.pc + BitVec.ofInt 64 (4 * off)

/-- A uniform branch (R328). -/
def Issue.branch (m : Issue) (taken : Bool) (off : Int) : State := if taken then m.jump (m.target off) else m.done

/-- BRA (R328). -/
def execBra (h : Hd) (off : BitVec 21) (s : State) : Host.Outcome State Fault Refusal :=
  issue (.bra h off) h s fun m => m.branch true off.toInt

/-- BRC: taken when S[A] is not zero (R328). -/
def execBrc (h : Hd) (a : Opnd) (off : Imm) (s : State) : Host.Outcome State Fault Refusal :=
  issue (.brc h a off) h s fun m => m.branch (m.sget (m.reg a) != 0) (immInt off)

/-- BRZ: taken when S[A] is zero (R328). -/
def execBrz (h : Hd) (a : Opnd) (off : Imm) (s : State) : Host.Outcome State Fault Refusal :=
  issue (.brz h a off) h s fun m => m.branch (m.sget (m.reg a) == 0) (immInt off)

/-! ## The reconvergence stack in the core (R123, R124) -/

/-- `go` once the core holds the 16 topmost entries; `m0` is the instruction as it stood at its issue (R114, R117, R124). -/
def Issue.stacked (m m0 : Issue) (go : Issue → State) : State :=
  match m.s.trimStack m0.g m.g m.g.stack.length with
  | (s1, .ok g1) => go { m with s := s1, g := g1 }
  | (s1, .error x) => m0.sillFail s1 x

/-- An entry taken from the stack, at its place from the top; entries of the spill area above it come into the core. -/
def Group.dropEntry (g : Group) (i : Nat) : Group :=
  { g with stack := g.stack.eraseIdx i, spilled := min g.spilled (g.stack.length - 1 - i) }

/-- `go` once the entries that a pop has exposed are back; a refill that faults leaves the instruction as it stood at its issue,
`m0` (R124, R368). -/
def Issue.refilled (m m0 : Issue) (go : Issue → State) : State :=
  match m.s.refillStack m.g 16 with
  | (s1, g1, .ok) => go { m with s := s1, g := g1 }
  | (s1, _, .barred) => ({ m0 with s := s1 }).stall
  | (s1, _, .bad x) => m0.sillFail s1 x

/-- `go` with an entry popped, at its place from the top, and what the pop exposes refilled. -/
def Issue.popped (m m0 : Issue) (i : Nat) (go : Issue → State) : State :=
  ({ m with g := m.g.dropEntry i }).stacked m0 fun n => n.refilled m0 go

/-- The topmost entry whose DMASK contains a split's owned lanes, among the first n: its place from the top (R123). -/
def Group.entryOf (g : Group) (owned : Mask) (n : Nat) : Option Nat :=
  (List.range n).find? fun i =>
    match g.stack[i]? with
    | some e => owned &&& ~~~e.dmask == 0
    | none => false

/-- The entry of the split, refilled from the spill area where it has been spilled; a restored entry with a reserved field that
is not zero raises SPILLFAULT (R124, R125, R368). `m0` is the instruction as it stood at its issue. -/
def Issue.withEntry (m m0 : Issue) : Nat → (Issue → Option Nat → State) → State
  | n, go =>
    match m.g.entryOf m.k.owned m.g.held with
    | some i =>
      if (m.g.stack[i]?).any (·.bad) then
        m0.sillFail m.s (.fault (m.s.entryAddr m.g (m.g.stack.length - 1 - i)))
      else go m (some i)
    | none =>
      match n with
      | 0 => go m none
      | n + 1 =>
        match m.s.refillEntry m.g with
        | (s1, g1, .ok) => ({ m with s := s1, g := g1 }).withEntry m0 n go
        | (s1, _, .barred) => ({ m0 with s := s1 }).stall
        | (s1, _, .bad x) => m0.sillFail s1 x

/-! ## Divergence (R122) -/

/-- The distinct next PCs of the active lanes, ascending, each with its lanes. -/
def addTarget (l : Nat) (t : DWord) : List (DWord × Mask) → List (DWord × Mask)
  | [] => [(t, BitVec.twoPow 96 l)]
  | (u, ls) :: r =>
    if t = u then (u, ls ||| BitVec.twoPow 96 l) :: r
    else if t.toNat < u.toNat then (t, BitVec.twoPow 96 l) :: (u, ls) :: r
    else (u, ls) :: addTarget l t r
def targetsOf (ts : List (Nat × DWord)) : List (DWord × Mask) := ts.foldl (fun acc x => addTarget x.1 x.2 acc) []

/-- The split numbers that no live split holds, lowest first (R266). -/
def Group.freeNos (g : Group) : List Nat := (List.range 4).filter fun n => !g.splits.any fun k => k.no == n

/-- A split created from another: it takes the other's loop state, trap registers and handler state, and the VMAX that does not
fuse with them (R122, R123, R157). -/
def Split.child (k : Split) (no : Nat) (lanes : Mask) (pc : DWord) (base now : Nat) : Split :=
  { k with no := no, owned := lanes, mask := lanes, pc := pc, base := base, state := .ready, prior := .ready, wait := .none
           hold := .none, demoted := false, stamp := now, trap := none, heldBy := none }

/-- A split back at TRAPPC from its handler: only a VMAX that it returns to does not fuse (R157). -/
def Split.returned (k : Split) : Split :=
  { k with pc := k.trapPc, noFuse := k.noFuse.filter (· == k.trapPc), noFuseIn := none }

/-- The entry that a divergence pushes; without pending lanes JPC and JBASE stay zero, as the entry is when it is pushed (R122,
R125; notes/assumptions/88.md). -/
def Issue.divEntry (m : Issue) (kind : StackKind) (rpc : Option DWord) (pending : Mask) : StackEntry :=
  { kind := kind, rpcv := rpc.isSome, rpc := rpc.getD 0, jpc := if pending = 0 then 0 else m.k.pc, jmask := pending
    jbase := if pending = 0 then 0 else m.k.base, amask := 0, abase := 0, dmask := m.k.owned, bad := false }

/-- The lanes of a list of targets. -/
def lanesIn (ts : List (DWord × Mask)) : Mask := ts.foldl (fun a t => a ||| t.2) 0

/-- How many targets get a split: the executing one, and one for each free number (R122). -/
def Issue.running (m : Issue) (ts : List (DWord × Mask)) : List (DWord × Mask) := ts.take (1 + m.g.freeNos.length)
/-- The pending lanes (R122). -/
def Issue.pendingLanes (m : Issue) (ts : List (DWord × Mask)) : Mask := lanesIn (ts.drop (1 + m.g.freeNos.length))

/-- The splits of a divergence, once its entry has been pushed; `pops` says that each pops on its own the loop levels whose
bodies do not hold its PC (R122, R126). -/
def Issue.fork (m : Issue) (ts : List (DWord × Mask)) (pops : Bool) : State :=
  let lv (t : DWord) := if pops then popLevels t m.k.levels else m.k.levels
  let run := m.running ts
  let now := m.s.now m.g
  let kids := (run.tail.zip m.g.freeNos).map fun x =>
    { m.k.child x.2 x.1.2 x.1.1 m.k.base now with levels := lv x.1.1 }
  let t0 := (run.head?).getD (m.k.pc, 0)
  let k := { m.k with owned := m.k.owned &&& ~~~lanesIn ts.tail, mask := t0.2, pc := t0.1, levels := lv t0.1 }
  ({ m with k := k, g := { m.g with splits := m.g.splits ++ kids } }).finish true

/-- Divergence of a BRD or JMPI (R122, R329, R353). -/
def Issue.diverge (m : Issue) (ts : List (DWord × Mask)) : State :=
  match m.s.pushDivergence m.g (m.divEntry .branch none (m.pendingLanes ts)) with
  | (s1, g, .ok) => ({ m with s := s1, g := g }).fork ts true
  | (s1, _, .barred) => ({ m with s := s1 }).stall
  | (s1, _, .bad x) => m.sillFail s1 x

/-- The next PC of every active lane: one for all is a branch, several diverge (R122). -/
def Issue.go (m : Issue) (ts : List (Nat × DWord)) : State :=
  match targetsOf ts with
  | [] => m.done
  | [(t, _)] => m.jump t
  | xs => m.diverge xs

/-- BRD: the active lanes whose word is not zero go to the target (R329). -/
def execBrd (h : Hd) (a : Opnd) (off : Imm) (s : State) : Host.Outcome State Fault Refusal :=
  issue (.brd h a off) h s fun m =>
    let v := m.vget (m.reg a)
    let taken := m.active.filter fun i => lane v i != 0
    if taken.isEmpty then m.done
    else if taken.length = m.active.length then m.jump (m.target (immInt off))
    else m.go (m.active.map fun i => (i, if lane v i != 0 then m.target (immInt off) else m.after))

/-- The first active lane whose target is not on a word (R353). -/
def badTarget (ts : List (Nat × DWord)) : Option DWord := (ts.find? fun x => x.2.setWidth 2 != 0).map (·.2)

/-- JMPI of a scalar pair (R353). -/
def execJmpiS (h : Hd) (a : RegNo) (s : State) : Host.Outcome State Fault Refusal :=
  issue (.jmpiS h a) h s fun m =>
    let t := m.sget2 a.toNat
    if t.setWidth 2 != 0 then m.raise .prot 0 0 else m.jump t

/-- JMPI of per-lane pairs (R353). -/
def execJmpiV (h : Hd) (a : RegNo) (s : State) : Host.Outcome State Fault Refusal :=
  issue (.jmpiV h a) h s fun m =>
    let ts := m.active.map fun i => (i, m.vval .n64 a.toNat i)
    match badTarget ts with
    | some t => m.raise .prot 0 t.toNat
    | none =>
      m.go ts

/-! ## Calls and returns (R108-R111, R120, R330-R332, R369) -/

/-- `go` with the split at a base whose window is resident (R110, R111): otherwise the run ends and the split waits until Sillage
can make the window so; then the transfers that it needs are made, with `mid` between the spills and the refills (R129). -/
def Issue.slide (m : Issue) (base : Nat) (mid : State → Group → State × Group × Moved) (go : Issue → State) : State :=
  let moved (s : State) (g : Group) : State :=
    let k := { m.k with base := base, hold := .none }
    go { m with s := s, g := ({ g with splits := m.g.splits }.setSplit k).discard, k := k }
  if m.g.isFront then moved m.s m.g else
  let bs := m.g.basesWith m.k.no base
  if !m.g.fits bs || (!m.g.resident base && (m.k.hold != .window base || m.s.windowLater m.g m.g.nextPos bs base)) then
    m.holdAt (.window base)
  else
    match m.s.window m.g m.g.nextPos bs base mid with
    | (s1, g1, .ok) => moved s1 g1
    | (s1, g1, .barred) => ({ m with s := s1, g := { g1 with splits := m.g.splits } }).stallKeep
    | (s1, g1, .bad e) => ({ m with g := { g1 with splits := m.g.splits } }).sillFail s1 e

/-- The link of a call, written into s8 and s9 of the new window (R108). -/
def Issue.link (m : Issue) (k : Nat) (ra : DWord) : Issue :=
  (m.sput 8 (ra.extractLsb' 0 32)).sput 9 ((0 : BitVec 2) ++ BitVec.ofNat 6 k ++ ra.extractLsb' 32 24)

/-- The registers that take the link of a call are yet to be written by a load or an operation (R54, R108). -/
def Issue.linkPending (m : Issue) (k : Nat) : Bool :=
  (m.g.scalPending (.slot (m.k.base + k + 8))) || m.g.scalPending (.slot (m.k.base + k + 9))

/-- A call that does not diverge (R331); on the front, a base beyond 192 raises WINDOWFULL (R120). -/
def Issue.callTo (m : Issue) (k : Nat) (t : DWord) : State :=
  if m.g.isFront && decide (192 < m.k.base + k) then m.raise .windowfull 0 0
  else if m.linkPending k then m.stall
  else m.slide (m.k.base + k) noMid fun n => (n.link k m.after).goto t

/-- CALL (R330, R331). -/
def execCall (h : Hd) (k : RegNo) (off : CallOff) (s : State) : Host.Outcome State Fault Refusal :=
  issue (.call h k off) h s fun m =>
    m.callTo k.toNat (m.target (match off with | .o15 v => v.toInt | .o32 v => v.toInt))

/-- CALLI of a scalar pair (R330, R331). -/
def execCalliS (h : Hd) (k a : RegNo) (s : State) : Host.Outcome State Fault Refusal :=
  issue (.calliS h k a) h s fun m =>
    let t := m.sget2 a.toNat
    if t.setWidth 2 != 0 then m.raise .prot 0 0 else m.callTo k.toNat t

/-- CALLI of per-lane pairs; where the targets differ it diverges, every split with the effect of the call (R332). -/
def execCalliV (h : Hd) (k a : RegNo) (s : State) : Host.Outcome State Fault Refusal :=
  issue (.calliV h k a) h s fun m =>
    let ts := m.active.map fun i => (i, m.vval .n64 a.toNat i)
    match badTarget ts with
    | some t => m.raise .prot 0 t.toNat
    | none =>
      match targetsOf ts with
      | [] => m.done
      | [(t, _)] => m.callTo k.toNat t
      | xs =>
        if m.linkPending k.toNat then m.stall else
        let e := m.divEntry .call (some m.after) (m.pendingLanes xs)
        m.slide (m.k.base + k.toNat) (fun s g => s.pushDivergence g e) fun n => (n.link k.toNat m.after).fork xs false

/-- RET: the link of s8 and s9 of its own window gives the PC and the slide back (R108, R369). -/
def execRet (h : Hd) (s : State) : Host.Outcome State Fault Refusal :=
  issue (.ret h) h s fun m =>
    let lo := m.sget 8
    let hi := m.sget 9
    let k := bitsOf hi.toNat 29 24
    if hi.extractLsb' 30 2 != 0 || decide (56 < k) || decide (m.k.base < k) || lo.setWidth 2 != 0 then m.raise .prot 0 0
    else m.slide (m.k.base - k) noMid fun n => n.goto ((hi.extractLsb' 0 24 ++ lo).setWidth 64)

/-! ## Ends of splits, groups and gangs (R30, R31, R124, R347) -/

/-- The gang barrier's phase advances when every live group of the gang has arrived in it (R380). -/
def State.releaseSync (s : State) (gang : Nat) : State :=
  match s.gang? gang with
  | none => s
  | some x =>
    let live := x.groups.filter fun g => !g.retired
    if live.isEmpty || !live.all (fun g => g.arrived == some x.phase) then s else
    s.setGang { x with
      phase := x.phase + 1
      groups := x.groups.map fun g =>
        if g.retired then g else
        { g with arrived := none
                 splits := g.splits.map fun k =>
                   match k.waiting, k.wait with
                   | true, .sync _ => k.resume 1 (s.now g)
                   | _, _ => k } }

/-- A group without a live split and without parked or pending lanes retires and abandons its queries; its gang retires with
its last group, and the gang barrier counts the group as arrived (R30, R31, R124, R254, R380). -/
def State.retireIfDone (s : State) (q : QId) : State :=
  match q, s.group? q with
  | .group gang _, some g =>
    if g.retired || !g.splits.isEmpty || g.stack.any (fun e => e.amask != 0 || (e.kind != .trap && e.jmask != 0)) then s else
    let s1 := s.setGroup q { g with retired := true, queries := [], stack := [], spilled := 0, out := [], arrived := none }
    match s1.gang? gang with
    | none => s1
    | some x =>
      if x.groups.all (·.retired) then s1.setGang { x with state := .retired } else s1.releaseSync gang
  | _, _ => s

/-- Some live split owns lanes of a mask. -/
def Group.owns (g : Group) (m : Mask) : Bool := g.splits.any fun k => k.owned &&& m != 0

/-- An entry replaced at its place from the top; where it stood in the spill area, it and those above it come into the core. -/
def Group.setEntry (g : Group) (i : Nat) (e : StackEntry) : Group :=
  { g with stack := g.stack.set i e, spilled := min g.spilled (g.stack.length - 1 - i) }

/-- The lanes of an ended split in the stack entries that hold them, from place i down: an entry whose lanes no live split
owns any longer is resolved, until a resolution releases lanes, behind a mark where they are parked ones (R123, R204, R274,
R347). A split released at another base than
its trap entry saved raises PROT at its first instruction. -/
def Group.resolveEnd (g : Group) (k : Split) (now : Nat) : Nat → Nat → Group
  | 0, _ => g
  | n + 1, i =>
    match g.stack[i]? with
    | none => g
    | some e =>
      if k.owned &&& ~~~e.dmask != 0 then g.resolveEnd k now n (i + 1)
      else if g.owns e.dmask then g
      else
        let no := (g.freeNos.head?).getD 0
        if e.kind = .trap then
          let g1 := g.dropEntry i
          if e.amask = 0 then g1.resolveEnd k now n i else
          let c := ({ k.child no e.amask k.trapPc e.abase now with mask := e.jmask &&& e.amask, inHandler := false }).returned
          (g1.mergeMark no).addSplit (if e.abase = e.jbase then c else { c with inHandler := true, hold := .prot })
        else if e.jmask ≠ 0 then (g.setEntry i { e with jmask := 0 }).addSplit (k.child no e.jmask e.jpc e.jbase now)
        else
          let g1 := g.dropEntry i
          if e.amask = 0 then g1.resolveEnd k now n i
          else (g1.mergeMark no).addSplit (k.child no e.amask (e.rpc + 4) e.abase now)

/-- The spilled entries of a group as its spill area holds them, where they can be read: what a resolution at an END goes by
(notes/assumptions/40.md). -/
def State.recall (s : State) (g : Group) : Nat → State × Group
  | 0 => (s, g)
  | n + 1 =>
    match s.refillEntry { g with spilled := n + 1 } with
    | (s1, g1, .ok) => s1.recall { g1 with spilled := g.spilled } n
    | (s1, _, _) => s1.recall g n

/-- The executing split ends, whatever it owned: its siblings held by its breakpoint go on (R276), the stack resolves, and
the group retires when nothing of it is left (R347). An END never traps: an entry that ought to leave the core and cannot
stays in it (notes/assumptions/40.md). -/
def Issue.endSplit (m : Issue) : State :=
  let (s0, g0) := m.s.recall m.g m.g.spilled
  let g1 := ((g0.dropSplit m.k.no).releaseHeld m.k.no).orphan m.k.no
  let g2 := (g1.resolveEnd m.k (m.s.now m.g) (g1.stack.length + 1) 0).discard
  let (s3, g3) := match s0.trimStack g0 g2 g2.stack.length with
    | (s1, .ok g) => (s1, g)
    | (s1, .error _) => (s1, g2)
  ((s3.setGroup (qidOf m.ag) g3).dropRun).retireIfDone (qidOf m.ag)

/-! ## Reconvergence (R123, R274, R368) -/

/-- The lanes of the split parked in the entry at place i: the split ends (R123). -/
def Issue.park (m m0 : Issue) (i : Nat) (e : StackEntry) (extra : Option Split) : State :=
  let g1 := m.g.setEntry i { e with amask := e.amask ||| m.k.owned, abase := m.k.base }
  ({ m with g := g1 }).stacked m0 fun n =>
    let g2 := ((n.g.dropSplit n.k.no).releaseHeld n.k.no).orphan n.k.no
    let g3 := match extra with | some c => g2.addSplit c | none => g2
    (n.s.setGroup (qidOf n.ag) g3.discard).dropRun

/-- RECV on a branch or call entry at place i (R123). -/
def Issue.recvBranch (m m0 : Issue) (i : Nat) (e0 : StackEntry) : State :=
  let p := m.k.pc
  let e := if e0.rpcv then e0 else { e0 with rpc := p, rpcv := true }
  let keep := { m with g := m.g.setEntry i e }
  let pass := keep.stacked m0 fun n => n.done
  let others := { m.g with splits := m.g.splits.filter fun k => !(k.no == m.k.no) }
  let canPark := decide (e.amask = 0) || decide (e.abase = m.k.base)
  if p ≠ e.rpc then pass
  else if others.owns e.dmask then (if canPark then keep.park m0 i e none else pass)
  else if e.jmask ≠ 0 then
    if !canPark then pass else
    let no := (others.freeNos.head?).getD 0
    keep.park m0 i { e with jmask := 0 } (some (m.k.child no e.jmask e.jpc e.jbase (m.s.now m.g)))
  else
    m.popped m0 i fun n =>
      if e.amask = 0 then n.done
      else if e.abase = m.k.base then
        ({ n with g := n.g.mergeMark n.k.no
                  k := { n.k with owned := n.k.owned ||| e.amask, mask := n.k.mask ||| e.amask } }).done
      else
        match n.g.freeNos with
        | [] => pass
        | no :: _ =>
          ({ n with g := ((n.g.mergeMark no).addSplit (n.k.child no e.amask (e.rpc + 4) e.abase (n.s.now n.g))).discard }).done

/-- RECV on a trap entry at place i: the return from a handler in stack mode; parked lanes join behind a mark (R204, R274). -/
def Issue.recvTrap (m m0 : Issue) (i : Nat) (e : StackEntry) : State :=
  let others := { m.g with splits := m.g.splits.filter fun k => !(k.no == m.k.no) }
  if others.owns e.dmask then
    (if decide (e.amask = 0) || decide (e.abase = m.k.base) then m.park m0 i e none else m.stacked m0 fun n => n.done)
  else
    let lanes := m.k.owned ||| e.amask
    if m.k.base ≠ e.jbase ∨ (e.amask ≠ 0 ∧ e.abase ≠ m.k.base) then m0.raise .prot 0 0
    else
      m.popped m0 i fun n =>
        let g := n.g.releaseHeld n.k.no
        ({ n with g := if e.amask = 0 then g else g.mergeMark n.k.no
                  k := { n.k with owned := lanes, mask := e.jmask &&& lanes, inHandler := false }.returned }).finish true

/-- RECV: behind the refill of what earlier pops exposed, its entry is resolved, and what its own pop exposes is refilled (R123, R124,
R274, R368; notes/assumptions/45.md). -/
def execRecv (h : Hd) (s : State) : Host.Outcome State Fault Refusal :=
  issue (.recv h) h s fun m0 =>
    m0.refilled m0 fun m1 =>
      m1.withEntry m0 m1.g.spilled fun m i =>
        match i with
        | none => m.stacked m0 fun n => n.done
        | some i =>
          match m.g.stack[i]? with
          | none => m.done
          | some e => if e.kind = .trap then m.recvTrap m0 i e else m.recvBranch m0 i e

/-- RTT: the return from a handler in fragment mode (R275, R370). -/
def execRtt (h : Hd) (s : State) : Host.Outcome State Fault Refusal :=
  issue (.rtt h) h s fun m =>
    if !m.ctx.fragMode then m.raise .illegal 0 0
    else if !m.k.inHandler then m.raise .prot 0 0
    else if m.k.base ≠ m.k.entryBase then m.raise .prot 0 0
    else
      ({ m with g := m.g.releaseHeld m.k.no
                k := { m.k with mask := m.k.entryMask &&& m.k.owned, inHandler := false }.returned }).goto m.k.trapPc

/-- END of a split, or of the front's program (R49, R347). -/
def execEndI (h : Hd) (s : State) : Host.Outcome State Fault Refusal :=
  issue (.endI h) h s fun m => if m.g.isFront then m.endFront else m.endSplit

/-! ## Loops (R126, R360) -/

/-- LOOP: a level is opened, or with a count of zero the body is passed over and no level is popped (R126;
notes/assumptions/79.md). -/
def execLoop (h : Hd) (lc : RegNo) (a : Opnd) (off : Imm) (s : State) : Host.Outcome State Fault Refusal :=
  issue (.loop h lc a off) h s fun m =>
    let last := m.target (immInt off)
    let n := m.sget (m.reg a)
    if decide (3 ≤ m.k.levels.length) ||
        m.k.levels.any (fun l => l.ctr.toNat == lc.toNat || decide (l.last.toNat < last.toNat)) then m.raise .illegal 0 0
    else if n = 0 then
      match m.s.fetchWord m.g.host m.g.ctx last.toNat with
      | (s1, .error b) => m.fail s1 b 4
      | (s1, .ok w) => ({ m with s := s1 }).goto (last + BitVec.ofNat 64 (4 * wordsOf w))
    else
      let l : Level := { ctr := BitVec.ofNat 2 lc.toNat, start := m.after, last := last, buf := [], bufOn := false
                         armed := false, discard := false }
      ({ m with k := { m.k.lcSet lc.toNat n with levels := l :: m.k.levels } }).goto m.after

/-- NOP (R364). -/
def execNop (h : Hd) (s : State) : Host.Outcome State Fault Refusal := issue (.nop h) h s fun m => m.done

/-! ## Traps by program (R270, R327) -/

/-- TRAP: SOFT with the code, TRAPPC at the next instruction, no loop level counted down (R269, R270; notes/assumptions/21.md). -/
def execTrap (h : Hd) (code : Byte) (s : State) : Host.Outcome State Fault Refusal :=
  issue (.trap h code) h s fun m => m.raiseAt .soft 0 m.after 0 code

/-- BKPT: TRAPPC at the next instruction; the siblings are HELD (R128, R327). -/
def execBkpt (h : Hd) (s : State) : Host.Outcome State Fault Refusal :=
  issue (.bkpt h) h s fun m => m.raiseAt .bkpt 0 m.after 0 0

/-! ## Waits (R191-R193, R336, R375, R380, R394-R396) -/

/-- SYNC: the gang barrier (R380). -/
def execSync (h : Hd) (s : State) : Host.Outcome State Fault Refusal :=
  issue (.sync h) h s fun m =>
    match m.ag with
    | .front _ => m.done
    | .split gang _ _ =>
      if m.g.splits.length > 1 then m.raise .convergence 0 0
      else
        let phase := ((m.s.gang? gang).map (·.phase)).getD 0
        (({ m with g := { m.g with arrived := some phase } }).block (.sync phase)).releaseSync gang

/-- SLEEP (R375). -/
def execSleep (h : Hd) (a : RegNo) (s : State) : Host.Outcome State Fault Refusal :=
  issue (.sleep h a) h s fun m =>
    let n := (m.sget a.toNat).toNat
    if n = 0 then ({ m with mf := true }).done else m.block (.sleep (m.s.cycle m.g.host + n))

end Sys2Proof.Machine
end

