-- ==== Sys2Proof/Machine/Work.lean ====
section
/-!
DEFINITION. How work reaches the cores: rings and launches (R32-R35, R41, R300-R303), placement (R36-R39), the choice of
runs (R52-R56, R110, R111), the end of jobs (R30, R46, R47, R49), and the fault and command rings (R277, R304).
-/
namespace Sys2Proof.Machine

open Sys2Proof

/-! ## The Quay area and its rings (R300, R302) -/

/-- A byte of the Quay area of a context. -/
def Context.qkey (c : Context) (off : Nat) : Nat := quayKey (c.qaBase * 4096 + off)
/-- Bytes of the Quay area of a context. -/
def Context.qaBytes (c : Context) : Nat := c.qaSize * 4096

/-- A ring of the Quay area. -/
structure Ring where
  base : Nat
  head : Nat
  tail : Nat
  off  : Nat
  cap  : Nat
  deriving DecidableEq, Repr

/-- The ring whose header stands at an area offset; none for a ring that does not lie in the area (R302). -/
def State.ring? (s : State) (c : Context) (hdr size : Nat) : Option Ring :=
  let b := c.qkey hdr
  let v := s.homeNat b 32
  let lg := bitsOf v 27 23
  let off := bitsOf v 22 0
  if lg > 16 || off < 0x1000 || off + size * 2 ^ lg > c.qaBytes then none
  else some { base := b, head := bitsOf v 255 192, tail := bitsOf v 191 128, off := off, cap := 2 ^ lg }

/-- Entries of a ring that stand between HEAD and TAIL. -/
def Ring.count (r : Ring) : Nat := (r.tail + 2 ^ 64 - r.head) % 2 ^ 64
/-- The area offset of entry n of a ring. -/
def Ring.entry (r : Ring) (size n : Nat) : Nat := r.off + size * (n % r.cap)
/-- HEAD advanced. -/
def State.ringPop (s : State) (r : Ring) : State := s.storeNat (r.base + 24) 8 (r.head + 1)
/-- TAIL advanced. -/
def State.ringPush (s : State) (r : Ring) : State := s.storeNat (r.base + 16) 8 (r.tail + 1)

/-- The module is attached: the host has chosen a version (R295). -/
def State.attached (s : State) : Bool := s.booted && s.hifVer == 1

/-- Completion counter slot of an index: its area offset, where R300 accepts it. -/
def Context.slotOf (c : Context) (idx : Nat) : Option Nat :=
  if idx < 256 || 16 * idx + 16 > c.qaBytes then none else some (16 * idx)

/-- 1 added to COUNT of a slot and the status word written, as one release at system scope (R47, R207). -/
def State.complete (s : State) (c : Context) (idx status : Nat) : State :=
  match c.slotOf idx with
  | none => s
  | some off =>
    let k := c.qkey off
    s.storeHome none k (leBytes 8 (s.homeNat k 8 + 1) ++ leBytes 8 status) s.nextSeq

/-! ## Launches (R33-R35, R301, R303) -/

/-- Every bit of the listed fields is zero. -/
def zeroBits (v : Nat) (fs : List (Nat × Nat)) : Bool := fs.all fun f => bitsOf v f.1 f.2 == 0

/-- Status codes of R47. -/
def stDone : Nat := 0
def stUndrained : Nat := 1
def stTraceFull : Nat := 2
def stTraceDiverge : Nat := 3
def stBadDesc : Nat := 4
def stAborted : Nat := 5

/-- SPAN (R35). -/
def spanOf (c : Nat) : Nat := match c with | 0 => 24 | 1 => 40 | _ => 56

/-- An entry point is refused: its leaf is valid but not local, or not executable (R34). -/
def State.badEntry (s : State) (c : Context) (va : Nat) : Bool :=
  match s.walk c.ttroot.toNat va with
  | .page b z pte => let p := pageOf b z pte; p.target != 0 || !p.x
  | .fault => false

/-- The largest number of groups of an allotment on an empty core (R37). -/
def groupRoom (allot : Nat) : Nat := 4 * min Config.groupsPerSched (Config.slotsPerSched / allot)

/-- A descriptor lies within the limits of R35 and R113. -/
def descOk (d : Nat) : Bool :=
  let span := spanOf (bitsOf d 233 232)
  let allot := bitsOf d 231 222
  let groups := bitsOf d 221 218 + 1
  let spill := bitsOf d 191 128
  let lg := bitsOf spill 5 0
  zeroBits d [(1023, 480), (447, 440), (383, 376), (287, 267), (255, 251), (239, 237), (217, 192), (127, 120), (63, 56)] &&
  zeroBits spill [(63, 56), (8, 6)] && (lg == 0 || (decide (16 ≤ lg) && decide (lg ≤ 32))) &&
  bitsOf d 391 384 == 0 && decide (1 ≤ bitsOf d 311 306) && decide (bitsOf d 311 306 ≤ 40) &&
  decide (1 ≤ bitsOf d 305 297) && decide (bitsOf d 305 297 ≤ 320) &&
  decide (bitsOf d 296 288 + bitsOf d 305 297 ≤ 320) && decide (bitsOf d 266 256 ≤ 1024) &&
  decide (bitsOf d 236 234 ≤ 5) && decide (bitsOf d 233 232 ≤ 2) && decide (8 + span ≤ allot) && decide (allot ≤ 320) &&
  decide (bitsOf d 311 306 * groups ≤ 40) && bitsOf d 65 64 == 0 && bitsOf d 1 0 == 0 &&
  decide (groups ≤ groupRoom allot) && decide (groups * bitsOf d 236 234 ≤ Config.tilesPerCore)

/-- A dependence of a launch record: enable bit, index, value. -/
def depOf (r : Nat) (en : Nat) (ilo vlo : Nat) : List (Nat × DWord) :=
  if bitOf r en then [(bitsOf r (ilo + 18) ilo, BitVec.ofNat 64 (bitsOf r (vlo + 63) vlo))] else []

/-- The job of a launch record and its descriptor. -/
def jobOfRecord (uid ctx seq r d acq : Nat) : Job :=
  { uid := uid, ctx := ctx, lseq := BitVec.ofNat 64 seq, cidx := bitsOf r 82 64, prio := bitsOf r 33 32, det := bitOf r 34
    replay := bitOf r 35, deps := depOf r 288 96 128 ++ depOf r 289 192 224
    args := Vector.ofFn fun i => BitVec.ofNat 32 (bitsOf d (1055 + 32 * i.val) (1024 + 32 * i.val))
    traceSz := bitsOf d 479 448, traceAddr := BitVec.ofNat 64 (bitsOf d 439 384), qmask := BitVec.ofNat 64 (bitsOf d 375 312)
    wpc := bitsOf d 311 306, ccount := bitsOf d 305 297, cfirst := bitsOf d 296 288, spUnits := bitsOf d 266 256
    gdelay := bitsOf d 250 240, acct := bitsOf d 236 234, span := spanOf (bitsOf d 233 232), allot := bitsOf d 231 222
    gangN := bitsOf d 221 218, spill := BitVec.ofNat 64 (bitsOf d 191 128), wentry := BitVec.ofNat 64 (bitsOf d 119 64)
    fentry := BitVec.ofNat 64 (bitsOf d 55 0), state := .waiting, status := 0, acqSeq := acq, redNext := [], trace := []
    expected := [] }

/-- A launch record and its descriptor are accepted (R34). -/
def State.launchOk (s : State) (c : Context) (r : Nat) : Bool :=
  let doff := bitsOf r 22 0
  zeroBits r [(511, 290), (223, 211), (127, 115), (95, 83), (63, 36), (31, 23)] && doff % 256 == 0 &&
  decide (0x1000 ≤ doff) && decide (doff + 256 ≤ c.qaBytes) &&
  (let d := s.homeNat (c.qkey doff) 256
   descOk d && !s.badEntry c (bitsOf d 119 64) && (bitsOf d 55 0 == 0 || !s.badEntry c (bitsOf d 55 0)) &&
   (depOf r 288 96 128 ++ depOf r 289 192 224).all fun x => (c.slotOf x.1).isSome)

/-- The pending gangs of a job (R31, R36). -/
def Job.gangs (j : Job) (uid0 : Nat) : List Gang :=
  (List.range (j.ccount * j.wpc)).map fun w =>
    { uid := uid0 + w, job := j.uid, worker := w, lcore := j.cfirst + w / j.wpc, host := j.cfirst + w / j.wpc
      state := .pending, placed := false, age := 0, spBase := 0, spSize := 256 * j.spUnits, groups := [], cmds := []
      phase := 0, stage := 0, saveOff := 0, listSeq := 0, held := false
      evictor := none }

/-- The byte at a virtual address of a context, on a page that the context may reach: its key, and whether the page is writable
(R163, R165, R317). -/
def State.ctxByte (s : State) (c : Context) (va : Nat) : Option (Nat × Bool) :=
  match s.walk c.ttroot.toNat va with
  | .page b z pte =>
    let p := pageOf b z pte
    if s.pageOpen c.id p (va - b) 1 then some (s.keyAt p (va - b), p.w) else none
  | .fault => none

/-- n bytes at a virtual address of a context; those that it cannot reach read zero. -/
def State.ctxBytes (s : State) (c : Context) (va n : Nat) : List Byte :=
  (List.range n).map fun i =>
    match s.ctxByte c (va + i) with
    | some (key, _) => (s.readHome key 1).getD 0 0
    | none => 0

/-- The launch records of a context that have landed and not been read, by their numbers: its QUEUED jobs (R32). -/
def State.queuedJobs (s : State) (c : Context) : List Nat :=
  match s.ring? c 0 64 with
  | some q => (List.range q.count).map fun i => (q.head + i) % 2 ^ 64
  | none => []

/-- Field CIDX of launch record n of a ring (R303). -/
def State.cidxOf (s : State) (c : Context) (q : Ring) (n : Nat) : Nat := bitsOf (s.homeNat (c.qkey (q.entry 64 n)) 64) 82 64

/-- LAUNCH_READ: the record at HEAD is read behind an Import step; the job is refused, completes as one that an ABORT has met, or
waits for its dependences (R32-R36, R41, R207, R301, R303, R304; notes/assumptions/114.md). -/
def tryLaunchRead (ctx : Nat) (s : State) : Option State :=
  match s.ctx? ctx with
  | none => none
  | some c =>
    match s.ring? c 0 64 with
    | none => none
    | some q =>
      if !s.attached || q.count = 0 || s.importStalls then none else
      let s1 := s.importStep none
      let r := s1.homeNat (c.qkey (q.entry 64 q.head)) 64
      let s2 := s1.ringPop q
      let cidx := bitsOf r 82 64
      if (c.slotOf cidx).isNone then
        let k := c.qkey 0xC0
        some ((s2.storeNat (k + 8) 8 q.head).storeNat k 8 (s2.homeNat k 8 + 1))
      else if c.aborted.contains q.head then
        some ((s2.setCtx { s2.ctx ctx with aborted := c.aborted.filter (· != q.head) }).complete c cidx stAborted)
      else if !s2.launchOk c r then some (s2.complete c cidx stBadDesc)
      else
        let d := s2.homeNat (c.qkey (bitsOf r 22 0)) 256
        let j := jobOfRecord s2.nextUid ctx q.head r d s2.nextSeq
        let j1 := if j.det && j.replay then
          { j with expected := readTrace s2.firmware (s2.ctxBytes c j.traceAddr.toNat j.traceSz) } else j
        let gs := j.gangs (s2.nextUid + 1)
        some ({ s2 with jobs := s2.jobs ++ [j1], gangs := s2.gangs ++ gs, nextUid := s2.nextUid + 1 + gs.length }).recheck

/-- LAUNCH_READ (R41, R303). -/
def execLaunchRead (ctx : Nat) (s : State) : Host.Outcome State Fault Refusal := event (tryLaunchRead ctx) s

/-! ## Placement (R36-R39) -/

/-- Gangs whose resources a core holds: resident, or retired and not yet released (R30). -/
def State.holding (s : State) (core : Nat) : List Gang :=
  s.gangs.filter fun g => g.host == core && (g.state == .resident || (g.state == .retired && !g.groups.isEmpty))

/-- The groups of a scheduler. -/
def State.onSched (s : State) (core sched : Nat) : List Group :=
  ((s.holding core).map fun g => g.groups.filter fun x => x.sched == sched).flatten

/-- The lowest place of n units, at a multiple of al, clear of a list of (start, length), below an end (R37). -/
def place (al n lim : Nat) (used : List (Nat × Nat)) : Option Nat :=
  let starts := sortNat (0 :: used.map fun u => (u.1 + u.2 + al - 1) / al * al)
  starts.find? fun a => decide (a + n ≤ lim) && used.all fun u => decide (a + n ≤ u.1) || decide (u.1 + u.2 ≤ a)

/-- Room for a group on the lowest-numbered scheduler that has it (R37): scheduler and first slot. -/
def schedFor (allot : Nat) (used : Nat → List (Nat × Nat)) : Option (Nat × Nat) :=
  (List.range 4).findSome? fun k =>
    if (used k).length ≥ Config.groupsPerSched then none
    else (place 1 allot Config.slotsPerSched (used k)).map fun a => (k, a)

/-- Schedulers and first slots of n groups in ascending group index (R37). -/
def schedsFor (allot : Nat) : Nat → (Nat → List (Nat × Nat)) → Option (List (Nat × Nat))
  | 0, _ => some []
  | n + 1, used =>
    match schedFor allot used with
    | none => none
    | some (k, a) =>
      (schedsFor allot n fun i => if i = k then (a, allot) :: used i else used i).map fun r => (k, a) :: r

/-- The resources of R37 on a core: schedulers and slots of the groups, and the scratchpad base. Accumulator tiles of a retired
gang are free when its region and allotment are, of which R30 speaks (notes/assumptions/101.md). -/
def State.room (s : State) (core : Nat) (j : Job) : Option (List (Nat × Nat) × Nat) :=
  let used (k : Nat) := (s.onSched core k).map fun g => (g.slot0, g.allot)
  let tiles := ((s.holding core).map fun g => (g.groups.map (·.acct)).sum).sum
  let regions := ((s.holding core).filter fun g => g.spSize != 0).map fun g => (g.spBase, g.spSize)
  if tiles + (j.gangN + 1) * j.acct > Config.tilesPerCore then none else
  match schedsFor j.allot (j.gangN + 1) used, place 512 (256 * j.spUnits) Config.scratchBytes regions with
  | some l, some b => some (l, b)
  | _, _ => none

/-- A split at a program's entry (R39). -/
def Split.fresh (pc : DWord) (mask : Mask) (now : Nat) : Split :=
  { no := 0, pc := pc, base := 0, owned := mask, mask := mask, lc := Vector.replicate 3 0, levels := [], state := .ready
    prior := .ready, wait := .none, hold := .none, demoted := false, stamp := now, trapCause := 0, trapPc := 0
    trapAddr := 0, inHandler := false, entryMask := 0, entryBase := 0, trap := none, noFuse := none, noFuseIn := none, heldBy := none, pos := 0 }

/-- A tile of zeros (R39). -/
def Tile.zero : Tile := List.replicate 96 (List.replicate 64 (0, 0))

/-- A group as it is placed (R39); for a front, `ring` scalar slots and no accumulator (R49, R120). -/
def Group.fresh (j : Job) (isFront : Bool) (gang worker idx lcore host sched slot0 spBase ring : Nat) (pc : DWord)
    (now : Nat) : Group :=
  { isFront := isFront, ctx := j.ctx, job := j.uid, gang := gang, worker := worker, idx := idx, lcore := lcore, host := host
    sched := sched, slot0 := slot0, span := if isFront then 56 else j.span, allot := if isFront then 0 else j.allot
    acct := if isFront then 0 else j.acct, spBase := spBase, spSize := if isFront then 0 else 256 * j.spUnits
    laneBase := BitVec.ofNat 32 ((worker * (j.gangN + 1) + idx) * 96), args := j.args
    globals := Vector.replicate 8 (VReg.zero, 0)
    ring := (List.range ring).map fun i => { abs := some (8 + i), vec := VReg.zero, scal := 0, clean := false, since := none }
    past := []
    x := Vector.replicate 4 0, loads := 0, stores := 0, copies := 0, tiles := 0
    acc := if isFront then [] else List.replicate j.acct Tile.zero, tbase := 0, fpmode := 0, fpflags := 0
    splits := [Split.fresh pc (if isFront then 0 else BitVec.allOnes 96) now], stack := [], spilled := 0, out := []
    queue := [], nextPos := 0, fence := 0, ops := [], nextOp := 0, queries := [], arrived := none, lastRun := 0
    retired := false }

/-- A run time of a scheduler (R55). -/
def Core.now (c : Core) (sched : Nat) : Nat := c.runTime.toArray.toList.getD sched 0

/-- The bytes of a scratchpad region read as zero (R39). -/
def State.clearRegion (s : State) (core base size : Nat) : State :=
  let lo := spKey core base
  let hi := lo + size
  { s with mem := s.mem.filter fun c => decide (c.1 < lo) || decide (hi ≤ c.1)
           poisoned := s.poisoned.filter fun l => decide (l * 128 < lo) || decide (hi ≤ l * 128) }

/-- A gang's place in the order of R38: priority, then launch, then worker. Launches of one context are in launch-queue order; of
two contexts the one whose record was read first is the older (notes/assumptions/102.md). -/
def State.before (s : State) (a b : Gang) : Bool :=
  let p (g : Gang) := ((s.job? g.job).map (·.prio)).getD 0
  decide (p a < p b) || (p a == p b && (decide (a.job < b.job) || (a.job == b.job && decide (a.worker < b.worker))))

/-- The cores from a logical core on, wrapping from 319 to 0 (R290). -/
def coresFrom (l : Nat) : List Nat := (List.range 320).map fun i => (l + i) % 320

/-- The front of a gang's job runs on its logical core, where the gang must be placed again (R287). -/
def State.frontLive (s : State) (x : Gang) : Bool :=
  (s.core x.lcore).front.any fun f => f.job == x.job && !f.ended

/-- The core on which an evicted gang is placed again, with its resources there (R37, R287, R290, R310). -/
def State.restoreAt (s : State) (x : Gang) (j : Job) : Option (Nat × List (Nat × Nat) × Nat) :=
  let cores := if s.frontLive x then [x.lcore] else coresFrom x.lcore
  cores.findSome? fun c =>
    if (s.cluster (c / 8)).fixed != (s.ctx j.ctx).fixed then none
    else (s.room c j).map fun r => (c, r)

/-- The core for which a gang competes: a pending gang of an ACTIVE job for its own; an evicted one for the first that has room
(R38, R290). -/
def State.competes (s : State) (x : Gang) : Option Nat :=
  match s.job? x.job with
  | none => none
  | some j => match x.state with
    | .pending => if j.state = .active then some x.lcore else none
    | .evicted => (s.restoreAt x j).map (·.1)
    | _ => none

/-- A gang is the first of those that compete for a core (R38); one on whose account another has been evicted goes before that
one (R290). -/
def State.firstFor (s : State) (g : Gang) (core : Nat) : Bool :=
  s.gangs.all fun x => x.uid == g.uid || x.evictor == some g.uid || !s.before x g || s.competes x != some core

/-- The front of a core is free for a job that has one: no other job's runs there (R37, R49). -/
def State.frontFree (s : State) (j : Job) (core : Nat) : Bool :=
  j.fentry == 0 || (match (s.core core).front with
    | none => true
    | some f => f.job == j.uid)

/-- The front of a job starts on a core, unless the job holds it already (R49). -/
def State.startFront (s : State) (j : Job) (core : Nat) : State :=
  if j.fentry = 0 || (s.core core).front.isSome then s else
  let c := s.core core
  let g := Group.fresh j true 0 ((core - j.cfirst) * j.wpc) 0 core core 4 0 0 248 j.fentry (c.now 4)
  s.setCore { c with front := some ({ job := j.uid, ended := false, group := g } : Front) }

/-- A job is stopped with a status (R59, R304): its agents issue no further run, sleeping agents retire, unfinished copy and
weight-buffer commands are discarded with their landed lines standing, and an entry that a TDEF empties goes once no MMA of another
job has it (R385). It completes behind what its groups have still to perform (R47); an EVICTED gang's groups, with a GRAS that its
save has killed (R263), have nothing (notes/assumptions/109.md). -/
def State.stopJob (s : State) (j : Job) (status : Nat) : State :=
  let mine (a : Agent) : Bool := match s.group? (qidOf a) with | some g => g.job == j.uid | none => false
  let ofJob (q : QId) : Bool := match s.group? q with | some g => g.job == j.uid | none => false
  let c := s.ctx j.ctx
  let cmds := ((s.gangs.filter fun g => g.job == j.uid).map fun g => g.cmds.map (·.id)).flatten
  let awake (f : Nat × FaultSrc) : Bool := match f.2 with
    | .agent a => !mine a
    | .copy id => !cmds.contains id
    | .wbuf core e =>
      let all := (s.core core).wbuf ++ ((s.core core).saved.map fun x => x.2.1).flatten
      !all.any fun w => w.owner == j.ctx && w.no == e && w.st == .loading && ofJob w.issuer
  let quit (g : Group) : Group := { g with queue := g.queue.filter fun e => !e.isPop, splits := [], stack := [], spilled := 0, out := [], queries := [], retired := true }
  let stopGang (g : Gang) : Gang :=
    if g.job = j.uid then
      { g with state := .retired, cmds := [], stage := 0, groups := if g.state = .evicted then [] else g.groups.map quit }
    else g
  let left : State := { s with runs := s.runs.filter (fun r => !mine r.agent), gangs := s.gangs.map stopGang }
  let keepEntry (core : Nat) (w : WEntry) : Bool :=
    !((w.st == .loading && ofJob w.issuer) || (w.doomed && w.st == .ready && !left.wHeld core w.owner w.no))
  let stopFront (f : Front) : Front := if f.job = j.uid then { f with group := quit f.group, ended := true } else f
  let stopCore (k : Core) : Core :=
    { k with wbuf := k.wbuf.filter (keepEntry k.idx)
             saved := k.saved.map fun x => (x.1, x.2.1.filter (keepEntry k.idx), x.2.2)
             front := k.front.map stopFront }
  let saved := (s.gangs.filter fun g => g.job == j.uid && (g.state == .evicted || g.stage != 0)).map (·.saveOff)
  let s1 : State := { left with cores := s.cores.map stopCore }
  let s2 := s1.setCtx { c with sleepers := c.sleepers.filter awake, areas := c.areas.filter fun a => !saved.contains a.1 }
  s2.setJob { j with state := .stopped, status := BitVec.ofNat 8 status }

/-- An event of a deterministic job: it goes on, waits for its turn, or stops the job (R59). -/
def State.inTrace (s : State) (job core : Nat) (k : TraceKind) (what : List Nat) (go : State → Option State) :
    Option State :=
  match s.traced job core k what with
  | .ok s1 => go s1
  | .later => none
  | .diverged => (s.job? job).map fun j => s.stopJob j stTraceDiverge

/-- GANG_PLACE: a pending gang takes the resources of R37 on its core, in the order of R38, with the state of R39; the views
of the core hold what the reading of the launch acquired (R207). -/
def tryGangPlace (gang : Nat) (s : State) : Option State :=
  match s.gang? gang with
  | none => none
  | some g =>
    match s.job? g.job with
    | none => none
    | some j =>
      let core := g.lcore
      if g.state != .pending || j.state != .active || !s.firstFor g core || !s.frontFree j core || g.held ||
          (s.cluster (core / 8)).fixed != (s.ctx j.ctx).fixed then none else
      match s.room core j with
      | none => none
      | some (places, sp) =>
        s.inTrace j.uid core .placement [g.worker] fun s =>
          let c := s.core core
          let gs := ((List.range places.length).zip places).map fun x =>
            Group.fresh j false gang g.worker x.1 core core x.2.1 x.2.2 sp (j.allot - 8) j.wentry (c.now x.2.1)
          let s1 := s.setGang { g with state := .resident, placed := true, host := core, spBase := sp, groups := gs
                                       age := s.nextUid }
          let s2 := ({ s1 with nextUid := s.nextUid + 1 }).clearRegion core sp (256 * j.spUnits)
          let s3 := s2.setCore { s2.core core with view := (s2.core core).view.raise j.acqSeq }
          some (s3.startFront j core)

/-- GANG_PLACE (R37). -/
def execGangPlace (gang : Nat) (s : State) : Host.Outcome State Fault Refusal := event (tryGangPlace gang) s

/-- A weight load that a group or front has issued goes on, on a core or in a core-state area (R216, R234). -/
def State.loadsWeights (s : State) (q : QId) : Bool :=
  s.cores.any fun c => (c.wbuf ++ (c.saved.map fun x => x.2.1).flatten).any fun w => w.st == .loading && w.issuer == q

/-- Operations of a group or front that have not completed. -/
def State.outstanding (s : State) (q : QId) (g : Group) : Bool :=
  !g.queue.isEmpty || !g.ops.isEmpty || !(s.cmdsOf q).isEmpty || s.loadsWeights q

/-- GANG_RESOURCE_RELEASE: a retired gang gives back its region and allotment once its operations have completed (R30). -/
def tryGangResourceRelease (gang : Nat) (s : State) : Option State :=
  match s.gang? gang with
  | none => none
  | some g =>
    if g.state != .retired || g.groups.isEmpty || !g.cmds.isEmpty ||
        g.groups.any (fun x => s.outstanding (.group gang x.idx) x) then none
    else
      let s1 := s.setGang { g with groups := [], spSize := 0, stage := 0 }
      match s.job? g.job with
      | some j =>
        let c := s.ctx j.ctx
        some (if g.stage = 0 then s1 else s1.setCtx { c with areas := c.areas.filter fun a => a.1 != g.saveOff })
      | none => some s1

/-- GANG_RESOURCE_RELEASE (R30). -/
def execGangResourceRelease (gang : Nat) (s : State) : Host.Outcome State Fault Refusal :=
  event (tryGangResourceRelease gang) s

/-- FRONT_RELEASE: the front is free once it has ended and every gang of its job on the core has retired; decisions that its job
leaves are discarded, those in a core-state area too (R49, R340). -/
def tryFrontRelease (core : Nat) (s : State) : Option State :=
  match (s.core core).front with
  | none => none
  | some f =>
    if !f.ended || s.gangs.any (fun g => g.job == f.job && g.lcore == core && g.state != .retired) ||
        s.outstanding (.front core) f.group then none
    else
      let c := s.core core
      let others (l : List Decision) : List Decision := l.filter fun d => d.job != f.job
      some (s.setCore { c with front := none, dq := others c.dq
                               saved := c.saved.map fun x => (x.1, x.2.1, x.2.2.1, others x.2.2.2) })

/-- FRONT_RELEASE (R49). -/
def execFrontRelease (core : Nat) (s : State) : Host.Outcome State Fault Refusal := event (tryFrontRelease core) s

/-- The engines of a group stand still: its gang is EVICTED, or its commands are being quiesced (R263, R278, R284). -/
def State.stilled (s : State) : QId → Bool
  | .group g _ => (s.gang? g).any fun x => x.state == .evicted || x.stage == 2
  | .front _ => false

/-! ## The choice of a run (R52-R56, R110, R111) -/

/-- A candidate for the next run of a scheduler. -/
structure Cand where
  agent : Agent
  g     : Group
  k     : Split
  prio  : Nat
  deriving Repr

/-- A split may issue: READY, waiting for no reservation, and where it waits for a window at a base, or has been created at one,
R111 holds with that base; or BLOCKED at an instruction that is evaluated afresh (R110, R111, R278). -/
def Group.mayIssue (g : Group) (k : Split) : Bool :=
  match k.hold with
  | .reserve .. => false
  | .window b => k.state == .ready && (g.isFront || g.fits (g.basesWith k.no b))
  | .prot => k.state == .ready && (g.isFront || g.fits (g.basesWith k.no k.base))
  | .again => k.state == .blocked
  | _ => k.state == .ready

/-- The base whose window a split needs: its own, or that of the CALL, CALLI or RET that it waits to commit (R110). -/
def Split.wants (k : Split) : Nat := match k.hold with | .window b => b | _ => k.base

/-- Sillage cannot make the window that a split needs resident yet: the split is not eligible (R110). -/
def State.unready (s : State) (g : Group) (k : Split) : Bool :=
  !g.isFront && !g.resident k.wants && s.windowLater g (if k.wants = k.base then k.pos else g.nextPos) (g.basesWith k.no k.wants) k.wants

/-- No command that a placement re-issues has still to be accepted: until then the gang issues no run (R286). -/
def Gang.settledIn (x : Gang) : Bool := x.cmds.all fun c => c.accepted || !c.again

/-- The candidates of a scheduler; 4 is the front's issue slot (R50, R55). -/
def State.cands (s : State) (core sched : Nat) : List Cand :=
  if sched = 4 then
    match (s.core core).front with
    | some f => (f.group.splits.filter f.group.mayIssue).map fun k => ⟨.front core, f.group, k, 0⟩
    | none => []
  else
    ((s.gangs.filter fun x => x.host == core && x.state == .resident && !x.held && x.settledIn).map fun x =>
      (x.groups.map fun g =>
        if g.sched = sched then
          (g.splits.filter g.mayIssue).map fun k => ⟨.split x.uid g.idx k.no, g, k, ((s.job? x.job).map (·.prio)).getD 0⟩
        else []).flatten).flatten

/-- The order of R55: a goes before b at a run time. -/
def Cand.before (now : Nat) (a b : Cand) : Bool :=
  let old (c : Cand) : Bool := decide (c.k.stamp + 24 ≤ now)
  let rest : Bool :=
    let ka := [a.prio, if a.k.demoted then 1 else 0, a.g.lastRun, a.g.slot0, a.k.no]
    let kb := [b.prio, if b.k.demoted then 1 else 0, b.g.lastRun, b.g.slot0, b.k.no]
    decide (List.Lex (· < ·) ka kb)
  if old a && old b then (if a.k.stamp = b.k.stamp then rest else decide (a.k.stamp < b.k.stamp))
  else if old a then true else if old b then false else rest

/-- The candidate that R55 chooses. -/
def pickCand (now : Nat) : List Cand → Option Cand
  | [] => none
  | c :: r => some (r.foldl (fun b x => if x.before now b then x else b) c)

/-- A run of an agent starts (R29, R52, R56). -/
def State.startRun (s : State) (core sched now : Nat) (c : Cand) : State :=
  let g := { c.g with lastRun := now }
  let hold := if c.k.hold = .window c.k.base ∨ c.k.hold = .again then .none else c.k.hold
  let k := { c.k with state := .issuing, wait := .none, demoted := false, hold := hold }
  let s1 := s.setGroup (qidOf c.agent) (g.setSplit k)
  let co := s1.core core
  let s2 : State := { s1.setCore { co with runTime := co.runTime.setIfInBounds sched now } with
    runs := { agent := c.agent, core := core, sched := sched, count := 0, stalled := false, ahead := [] } :: s1.runs }
  s2.count (core / 8) (some c.g.ctx) 2 1

/-- RUN_ISSUE: the scheduler chooses its next run (R55). A split whose window is not resident is eligible once Sillage has
made it so, which it may or may not have done where it can (R110); a transfer that fails is raised by the split (R117). -/
def tryRunIssue (core sched : Nat) (s : State) : Option State :=
  if s.runs.any fun r => r.core == core && r.sched == sched then none else
  let now := (s.core core).now sched + 1
  let all := (s.cands core sched).filter fun c => !s.unready c.g c.k
  let ready := all.filter fun c => c.g.resident c.k.wants
  let (s, early) := s.toss
  match pickCand now all, pickCand now ready with
  | none, _ => none
  | some a, b =>
    let c := if early then a else b.getD a
    if c.g.resident c.k.base then some (s.startRun core sched now c)
    else
      match s.window c.g c.k.pos c.g.bases c.k.base noMid with
      | (s1, g1, .ok) => some ((s1.setGroup (qidOf c.agent) g1).startRun core sched now { c with g := g1 })
      | (s1, g1, .barred) => some (s1.setGroup (qidOf c.agent) g1)
      | (s1, g1, .bad e) =>
        let s2 := s1.setGroup (qidOf c.agent) g1
        match e with
        | .full => some (s2.raiseTrap c.agent .windowfull 5 c.k.pc 0 0)
        | .fault a => some (s2.raiseTrap c.agent .spillfault 5 c.k.pc a 0)
        | .at a _ => some (s2.raiseTrap c.agent .spillfault 5 c.k.pc a 0)

/-- RUN_ISSUE (R55). -/
def execRunIssue (core sched : Nat) (s : State) : Host.Outcome State Fault Refusal := event (tryRunIssue core sched) s

/-! ## Queue headers, the end condition and completion (R42, R46, R47) -/

/-- A queue header as it stands in the Quay window (R42). -/
structure QHead where
  key   : Nat
  head  : Nat
  tail  : Nat
  hostp : Bool
  en    : Bool
  hold  : Bool
  lg    : Nat
  base  : Nat
  deriving DecidableEq, Repr

/-- The header of a queue of a context (R42, R300). -/
def State.qhead (s : State) (c : Context) (q : Nat) : QHead :=
  let k := c.qkey (0x600 + 32 * q)
  let v := s.homeNat k 32
  { key := k, head := bitsOf v 255 192, tail := bitsOf v 191 128, hostp := bitOf v 71, en := bitOf v 70, hold := bitOf v 69
    lg := bitsOf v 68 64, base := bitsOf v 55 0 }

/-- The queues bound to a job (R35). -/
def Job.queues (j : Job) : List Nat := (List.range 64).filter fun q => j.qmask.getLsbD q

/-- The live groups of a job, with whether their gang is resident (R46). -/
def State.liveGroups (s : State) (job : Nat) : List (Gang × Group) :=
  ((s.gangs.filter fun g => g.job == job).map fun g =>
    (g.groups.filter fun x => !x.retired).map fun x => (g, x)).flatten

/-- A group is BLOCKED in DEQ: its one split stands there. -/
def Group.inDeq (g : Group) : Bool :=
  match g.splits with
  | [k] => k.stopped && (match k.wait with | .deq .. => true | _ => false)
  | _ => false

/-- Every live group of a job is BLOCKED in DEQ, no gang is pending, and its front has ended (R45, R46). -/
def State.allInDeq (s : State) (job : Nat) : Bool :=
  (s.liveGroups job).all (fun x => x.2.inDeq) &&
  !(s.gangs.any fun g => g.job == job && g.state == .pending) &&
  s.cores.all fun c => match c.front with | some f => f.job != job || f.ended | none => true

/-- A reservation of a job is incomplete (R46). -/
def State.reserving (s : State) (p : Group → Bool) (q : Option Nat) : Bool :=
  let holds (g : Group) : Bool := p g && g.splits.any fun k => match k.hold with
    | .reserve q' _ _ => q.getD q' == q'
    | _ => false
  (s.gangs.any fun g => g.groups.any holds) || s.cores.any fun c => match c.front with | some f => holds f.group | none => false

/-- The end token: the mask and the entry pair are zero (R48). -/
def Issue.endToken (m : Issue) (b : Nat) : Issue :=
  ((((m.sput 0 0).sput 1 0).sput 2 0).sput b 0).sput (b + 1) 0

/-- Every DEQ of a job that waits on a resident gang returns the end token (R46, R48). -/
def State.endTokens (s : State) (job : Nat) : State :=
  (s.liveGroups job).foldl (fun s x =>
    if x.1.state != .resident then s else
    match x.2.splits with
    | [k] =>
      match k.waiting, k.wait with
      | true, .deq _ _ _ b =>
        match s.issueOf (.split x.1.uid x.2.idx k.no) ⟨false, .l0, 0⟩ with
        | some m => let n := m.endToken b; ({ n with k := n.k.resume 1 (n.s.now n.g) }).commit
        | none => s
      | _, _ => s
    | _ => s) s

/-- JOB_END_CONDITION: every live group waits in DEQ, the bound queues are drained and not held, nothing is being reserved
and the front has ended: the job is QUIESCENT (R46). A job without a live group does not become so (notes/assumptions/116.md). -/
def tryJobEndCondition (job : Nat) (s : State) : Option State :=
  match s.job? job with
  | none => none
  | some j =>
    let c := s.ctx j.ctx
    if j.state != .active || !s.allInDeq job || (s.liveGroups job).isEmpty || s.reserving (fun g => g.job == job) none ||
        !(j.queues.all fun q => let h := s.qhead c q; h.head == h.tail && !h.hold) then none
    else some ((s.setJob { j with state := .quiescent }).endTokens job)

/-- JOB_END_CONDITION (R46). -/
def execJobEndCondition (job : Nat) (s : State) : Host.Outcome State Fault Refusal := event (tryJobEndCondition job) s

/-- The dispatch trace of a recording run, written at TRACEADDR where it fits, on writable pages that the context may reach (R59,
R317; notes/assumptions/15.md). -/
def State.writeTrace (s : State) (c : Context) (j : Job) : State × Bool :=
  let bs := traceFile s.firmware j.trace
  if !j.det || j.replay then (s, true)
  else if bs.length > j.traceSz then (s, false)
  else
    (((List.range bs.length).foldl (fun s i =>
      match s.ctxByte c (j.traceAddr.toNat + i) with
      | some (key, true) => s.storeHome none key [bs.getD i 0] 0
      | _ => s) s), true)

/-- A store, a tile operation or a weight load that a group or front of the job issued has not been performed: completion is
a release behind them (R47, R207, R236). -/
def State.opsLeft (s : State) (job : Nat) : Bool :=
  let left (g : Group) : Bool := !g.ops.isEmpty || g.queue.any fun e => e.isStore || e.isAtomic
  (s.gangs.any fun g => g.job == job && g.groups.any left) ||
  s.cores.any fun c =>
    (match c.front with | some f => f.job == job && left f.group | none => false) ||
    (c.wbuf ++ (c.saved.map fun x => x.2.1).flatten).any fun w => w.st == .loading &&
      match s.group? w.issuer with | some g => g.job == job | none => false

/-- A job is COMPLETE with a status: the counter and the status word (R47). -/
def State.jobDone (s : State) (j : Job) (status : Nat) : State :=
  (s.setJob { j with state := .complete, status := BitVec.ofNat 8 status }).complete (s.ctx j.ctx) j.cidx status

/-- JOB_COMPLETE: every worker has retired and the front has ended wherever it runs, or the job has been stopped; what its
groups had to store has been performed (R47, R59, R304). A recording run whose trace does not fit gets TRACEFULL, whatever its
queues hold (notes/assumptions/103.md). -/
def tryJobComplete (job : Nat) (s : State) : Option State :=
  match s.job? job with
  | none => none
  | some j =>
    let c := s.ctx j.ctx
    let fronts := s.cores.all fun k => match k.front with | some f => f.job != job || f.ended | none => true
    if s.opsLeft job then none
    else if j.state = .stopped then some (s.jobDone j j.status.toNat)
    else if !(j.state == .active || j.state == .quiescent) ||
        s.gangs.any (fun g => g.job == job && g.state != .retired) || !fronts then none
    else
      let (s1, fits) := s.writeTrace c j
      let drained := j.queues.all fun q => let h := s.qhead c q; h.head == h.tail
      some (s1.jobDone j (if !fits then stTraceFull else if drained then stDone else stUndrained))

/-- JOB_COMPLETE (R47). -/
def execJobComplete (job : Nat) (s : State) : Host.Outcome State Fault Refusal := event (tryJobComplete job) s

end Sys2Proof.Machine
end

