-- ==== Sys2Proof/Machine/Copy.lean ====
section
/-!
DEFINITION. The copy engine: requests (R182, R183), CPY and KICK (R186-R188, R334-R336, R354), acceptance, line and arrival
steps (R181, R184, R188, R197, R205, R293), byte-barrier arrivals (R190, R191).
-/
namespace Sys2Proof.Machine

open Sys2Proof

/-! ## Requests (R182, R183) -/

/-- The fields of a request that a mode does not name, beside those of every mode (R183). -/
def unnamed : CopyMode → List (Nat × Nat)
  | .lin => [(471, 469), (468, 463), (462, 460), (441, 432), (383, 320), (314, 312), (311, 256), (255, 224), (223, 192)]
  | .s2d => [(471, 469), (468, 463), (462, 460), (441, 432), (383, 320), (314, 312), (311, 256)]
  | .gat | .sca => [(471, 469), (468, 463), (441, 432), (383, 320), (255, 224), (223, 192), (191, 160)]
  | .red => [(462, 460), (441, 432), (314, 312), (311, 256), (255, 224), (223, 192), (159, 128)]
  | .xch => [(471, 469), (468, 463), (462, 460), (383, 320), (314, 312), (311, 256)]

/-- A request read in a mode; none raises ILLEGAL (R182, R183, R334). -/
def copyReqOf (mode : CopyMode) (raw : BitVec 512) : Option CopyReq :=
  let v := raw.toNat
  let reserved := [(511, 472), (459, 452), (447, 442), (431, 416), (319, 315), (127, 123), (63, 59)]
  let bb := bitOf v 451
  match spaceOf (BitVec.ofNat 3 (bitsOf v 58 56)), spaceOf (BitVec.ofNat 3 (bitsOf v 122 120)),
      spaceOf (BitVec.ofNat 3 (bitsOf v 314 312)), redOf (BitVec.ofNat 3 (bitsOf v 471 469)),
      tyOf (BitVec.ofNat 6 (bitsOf v 468 463)) with
  | some ss, some ds, some is, some rop, some rty =>
    if !zeroBits v reserved || !zeroBits v (unnamed mode) || (!bb && bitsOf v 415 384 != 0) ||
        decide (bitsOf v 462 460 > 3) || ss == .rm || ds == .rm || is == .rm ||
        (mode == .red && !(tysRed rop).contains rty) then none
    else some
      { mode := mode, src := BitVec.ofNat 64 (bitsOf v 55 0), sspace := ss, dst := BitVec.ofNat 64 (bitsOf v 119 64)
        dspace := ds, rows := bitsOf v 159 128, len := bitsOf v 191 160, sstride := BitVec.ofNat 32 (bitsOf v 223 192)
        dstride := BitVec.ofNat 32 (bitsOf v 255 224), idx := BitVec.ofNat 64 (bitsOf v 311 256), ispace := is
        seq := BitVec.ofNat 64 (bitsOf v 383 320), bboff := bitsOf v 415 384, peer := bitsOf v 441 432, bben := bb
        esize := 2 ^ bitsOf v 462 460, rty := rty, rop := rop, raw := raw }
  | _, _, _, _, _ => none

/-- MODE of a KICK record (R182). -/
def rawMode (raw : BitVec 512) : Option CopyMode := cmodeOf (raw.extractLsb' 448 3)

/-! ## Lines (R183, R284) -/

/-- Rows of a command, by line order. -/
def CopyReq.rowCount (r : CopyReq) : Nat := match r.mode with | .lin | .red | .gat => 1 | _ => r.rows
/-- Bytes of a row. -/
def CopyReq.rowBytes (r : CopyReq) : Nat := match r.mode with | .gat => r.rows * r.esize | .sca => r.esize | _ => r.len
/-- A row's first source byte. -/
def CopyReq.rowSrc (r : CopyReq) (i : Nat) : DWord :=
  match r.mode with
  | .s2d | .xch => r.src + BitVec.ofInt 64 (r.sstride.toInt * i)
  | .sca => r.src + BitVec.ofNat 64 (r.esize * i)
  | _ => r.src
/-- The number of the module that runs this copy among the participants of an exchange (R183). -/
def State.xchRank (s : State) (r : CopyReq) : Nat := (s.devid.toNat + 1024 - r.peer) % 1024
/-- A row's first destination byte; a scatter's depends on its index. -/
def State.rowDst (s : State) (r : CopyReq) (i : Nat) : DWord :=
  match r.mode with
  | .s2d => r.dst + BitVec.ofInt 64 (r.dstride.toInt * i)
  | .xch => r.dst + BitVec.ofInt 64 (r.dstride.toInt * s.xchRank r)
  | _ => r.dst

/-- A row of n bytes from an address, past its first skip bytes, as 128-byte lines and fragments: how many (R183). -/
def pieceCount (dst n skip : Nat) : Nat := if n ≤ skip then 0 else ((dst + skip) % 128 + (n - skip) + 127) / 128
/-- The j-th of them: first byte and length. -/
def piece (dst n skip j : Nat) : Nat × Nat :=
  let first := min (n - skip) (128 - (dst + skip) % 128)
  if j = 0 then (skip, first)
  else
    let p := skip + first + 128 * (j - 1)
    (p, min 128 (n - p))

/-- Line numbers of one row lie below this. -/
def CopyReq.perRow (r : CopyReq) : Nat := r.rowBytes / 128 + 2

/-- Pieces of row i of a command. -/
def State.pieces (s : State) (c : CopyCmd) (i : Nat) : Nat :=
  if c.req.mode = .sca then 1
  else pieceCount (s.rowDst c.req i).toNat c.req.rowBytes (if i = 0 then c.headSkip else 0)

/-- How many lines a command has. -/
def State.lineCount (s : State) (c : CopyCmd) : Nat :=
  if c.req.mode = .s2d || c.req.mode = .xch then ((List.range c.req.rowCount).map (s.pieces c)).sum
  else c.req.rowCount * s.pieces c 0

/-- Line n of a command: its row, first byte within the row, and length. -/
def State.line? (s : State) (c : CopyCmd) (n : Nat) : Option (Nat × Nat × Nat) :=
  let i := n / c.req.perRow
  let j := n % c.req.perRow
  if i ≥ c.req.rowCount then none
  else if c.req.mode = .sca then (if j = 0 then some (i, 0, c.req.esize) else none)
  else if j ≥ s.pieces c i then none
  else
    let p := piece (s.rowDst c.req i).toNat c.req.rowBytes (if i = 0 then c.headSkip else 0) j
    some (i, p.1, p.2)

/-! ## The checks at issue (R334) -/

/-- The gang whose command list and scratchpad an issuer uses: its own, or for the front the gang of R319. -/
def State.copyGang (s : State) (g : Group) : Option Gang :=
  if g.isFront then s.gangs.find? fun x => x.job == g.job && x.worker == g.worker && x.lcore == g.lcore
  else s.gang? g.gang

/-- A range that a request names: in a space of the issuer, or in the pod space of the module `peer`. -/
structure CopyRange where
  space : Space
  addr  : DWord
  n     : Nat
  wr    : Bool
  peer  : Option Nat

/-- A range: every page of it translates, and is writable for a destination (R158, R334). -/
def Chk.range (c : Chk) (w : Who) (x : CopyRange) : Chk × Option Bad :=
  let a := x.addr.toNat
  let pages (f : Chk → Nat → Chk × Except Bad Loc) : Chk × Option Bad :=
    if a + x.n > 2 ^ 56 then (c, some ⟨.prot, a⟩) else
    match c.all f (granules a x.n) with
    | (c1, .ok _) => (c1, none)
    | (c1, .error b) => (c1, some b)
  match x.peer with
  | some p => pages fun c a => c.pod w (BitVec.ofNat 32 p) a 1 false x.wr false
  | none =>
    if x.space = .gv then pages fun c a => c.loc w .gv a 1 false x.wr else
    match c.loc w x.space a x.n false x.wr with
    | (c1, .ok _) => (c1, none)
    | (c1, .error b) => (c1, some b)

/-- Ranges in order; the first failure. -/
def Chk.ranges (c : Chk) (w : Who) : List CopyRange → Chk × Option Bad
  | [] => (c, none)
  | x :: r =>
    match c.range w x with
    | (c1, some b) => (c1, some b)
    | (c1, none) => c1.ranges w r

/-- The ranges that a request names (R183, R293, R334). -/
def State.rangesOf (s : State) (r : CopyReq) : List CopyRange :=
  let src (a : DWord) (n : Nat) : CopyRange := ⟨r.sspace, a, n, false, none⟩
  let dst (a : DWord) (n : Nat) : CopyRange := ⟨r.dspace, a, n, true, none⟩
  let idx : CopyRange := ⟨r.ispace, r.idx, 4 * r.rows, false, none⟩
  match r.mode with
  | .lin | .red => [src r.src r.len, dst r.dst r.len]
  | .s2d => ((List.range r.rows).map fun i => [src (r.rowSrc i) r.len, dst (s.rowDst r i) r.len]).flatten
  | .gat => [idx, dst r.dst (r.rows * r.esize)]
  | .sca => [idx, src r.src (r.rows * r.esize)]
  | .xch => ((List.range r.rows).map fun i =>
      [src (r.rowSrc i) r.len, ⟨.rm, s.rowDst r i, r.len, true, some (r.peer + i)⟩]).flatten

/-- A request's checks from the codes on, in the order of R334: the request as it enters the list with the tensor entry that
its destination rests on, or the first failure. The alignment of DST is that of the field (notes/assumptions/90.md); an
exchange names modules, not a space, by its destination (notes/assumptions/91.md), and one that cannot be reached fails with ROWS
(notes/assumptions/121.md). -/
def State.copyCheck (s : State) (g : Group) (mode : Option CopyMode) (raw : BitVec 512) (tid : Option Tid) :
    State × Except Bad (CopyReq × Option (Tid × BitVec 256)) :=
  let no (c : Cause) (a : Nat) : State × Except Bad (CopyReq × Option (Tid × BitVec 256)) := (s, .error ⟨c, a⟩)
  match mode.bind fun m => copyReqOf m raw with
  | none => no .illegal 0
  | some r =>
    let w := s.who g
    let names (f : Bool) (v : Nat) : Bool := f && v == 0
    let rowsBad := r.mode != .red && (r.rows == 0 || (r.mode == .lin && r.rows != 1))
    let peers := (List.range r.rows).map (r.peer + ·)
    if r.dspace == .ws then no .prot 0
    else if rowsBad || names (r.mode != .gat && r.mode != .sca) r.len then no .prot 0
    else if r.mode == .xch && (decide (s.xchRank r ≥ r.rows) || r.dspace != .gv ||
        !peers.all (fun p => decide (p < 1024) && s.reaches (BitVec.ofNat 32 p))) then no .prot 0
    else
      let e := tyBytes r.rty
      if r.mode == .red && (r.src.toNat % e != 0 || r.dst.toNat % e != 0 || r.len % e != 0) then no .align 0
      else if (r.mode == .gat || r.mode == .sca) &&
          (r.src.toNat % r.esize != 0 || r.dst.toNat % r.esize != 0 || r.idx.toNat % 4 != 0) then no .align 0
      else if r.bben && r.bboff % 16 != 0 then no .align r.bboff
      else if r.bben && decide (r.bboff + 16 > (w.sp.map (·.2.2)).getD 0) then no .prot r.bboff
      else
        let based : Option (CopyReq × Option (Tid × BitVec 256)) := match tid with
          | none => some (r, none)
          | some t =>
            match (s.ctx g.ctx).named t.toNat [.gv, .sp] with
            | some x =>
              if x.space = r.dspace then
                some ({ r with dst := r.dst + BitVec.ofNat 64 x.write }, some (t, (s.ctx g.ctx).tensor t.toNat))
              else none
            | none => none
        match based with
        | none => no .prot 0
        | some r1 =>
          match Chk.ranges { s := s, memo := [] } w (s.rangesOf r1.1) with
          | (c, some b) => (c.s, .error b)
          | (c, none) => (c.s, .ok r1)

/-- Every address of n bytes of a space lies in scratchpad, or in near memory of this module. -/
def State.nearRange (s : State) (w : Who) (space : Space) (addr : DWord) (n : Nat) : Bool :=
  match space with
  | .sp => true
  | .gv => (granules addr.toNat n).all fun a =>
      match s.walk (s.ctx w.ctx).ttroot.toNat a.2 with
      | .page b z pte => let p := pageOf b z pte; p.target == 0 && isNear (p.key + (a.2 - b))
      | .fault => false
  | _ => false

/-- The elements that the index list chooses, as it stands at its home, lie in scratchpad or near memory (R336;
notes/assumptions/24.md). -/
def State.nearElements (s : State) (w : Who) (r : CopyReq) (space : Space) (base : DWord) : Bool :=
  space == .sp || (List.range r.rows).all fun i =>
    match Chk.loc { s := s, memo := [] } w r.ispace (r.idx.toNat + 4 * i) 4 false false with
    | (c, .ok l) => s.nearRange w space (base + BitVec.ofNat 64 (c.s.homeNat l.key 4 * r.esize)) r.esize
    | (_, .error _) => false

/-- A command may be promised: source, destination and index list lie in scratchpad or near memory (R336). -/
def State.promisable (s : State) (w : Who) (r : CopyReq) : Bool :=
  (s.rangesOf r).all (fun x => x.peer.isNone && s.nearRange w x.space x.addr x.n) &&
  (match r.mode with
   | .gat => s.nearElements w r r.sspace r.src
   | .sca => s.nearElements w r r.dspace r.dst
   | _ => true)

/-! ## CPY and KICK -/

/-- A command enters the list of a gang (R285, R335). -/
def State.enterCmd (s : State) (gang : Nat) (c : CopyCmd) : State :=
  match s.gang? gang with
  | none => s
  | some g => s.setGang { g with cmds := g.cmds ++ [c] }

/-- A command of an issuer. -/
def Issue.newCmd (m : Issue) (gang id : Nat) (fromCpy : Bool) (r : CopyReq) (via : Option (Tid × BitVec 256))
    (promise : Option Nat) : CopyCmd :=
  { id := id, gang := gang, issuer := qidOf m.ag, fromCpy := fromCpy, req := r, headSkip := 0, accepted := false
    again := false, via := via, pos := m.g.nextPos, pc := m.k.pc, landed := [], counted := [], paused := false, promise := promise, promised := false }

/-- The request in sixteen scalars (R186). -/
def Issue.rawReq (m : Issue) (a : Nat) : BitVec 512 :=
  BitVec.ofNat 512 (leNat ((List.range 16).map fun i => leBytes 4 (m.sget (a + i)).toNat).flatten)

/-- A CPY of the front that uses scratchpad stalls while its gang is not resident (R319). -/
def Issue.frontWaits (m : Issue) (raw : BitVec 512) : Bool :=
  let v := raw.toNat
  (m.s.who m.g).sp.isNone && (bitsOf v 58 56 == 1 || bitsOf v 122 120 == 1 || bitsOf v 314 312 == 1 || bitOf v 451)

/-- CPY (R335, R336). -/
def Issue.copy (m : Issue) (mode : CopyMode) (d a : RegNo) (tid : Option Tid) : State :=
  let raw := m.rawReq a.toNat
  if m.frontWaits raw || (match tid with | some t => m.g.tidBusy t.toNat | none => false) then m.stall else
  match m.s.copyCheck m.g (some mode) raw tid, m.s.copyGang m.g with
  | (s1, .error b), _ => m.fail s1 b 6
  | (s1, .ok _), none => (m.withS s1).stall
  | (s1, .ok (r, via)), some x =>
    if x.cmds.length ≥ Config.cmdPlaces || m.g.copies ≥ 65535 then (m.withS s1).stall else
    let c := s1.core m.g.host
    let fixed := (s1.cluster (m.g.host / 8)).fixed
    let cmd0 := m.newCmd x.uid s1.nextUid true r via none
    let p := max (s1.cycle m.g.host) c.promise + 96 + 4 * s1.lineCount cmd0
    let due : Option Nat := if fixed && d != 0 && s1.promisable (s1.who m.g) r then some p else none
    let s2 := match due with | some p => s1.setCore { c with promise := p } | none => s1
    let s3 := ({ s2 with nextUid := s2.nextUid + 1 }).enterCmd x.uid { cmd0 with promise := due }
    let n : Issue := { m with s := s3, g := { m.g with copies := m.g.copies + 1 } }
    (if d = 0 then n else n.sput2 d.toNat (match due with | some p => BitVec.ofNat 64 p | none => BitVec.allOnes 64)).done

/-- CPY (R334-R336). -/
def execCpy (h : Hd) (mode : CopyMode) (d a : RegNo) (s : State) : Host.Outcome State Fault Refusal :=
  issue (.cpy h mode d a) h s fun m => m.copy mode d a none
/-- CPY to a tensor's write base (R334-R336). -/
def execCpyTid (h : Hd) (mode : CopyMode) (d a : RegNo) (tid : Tid) (s : State) : Host.Outcome State Fault Refusal :=
  issue (.cpyTid h mode d a tid) h s fun m => m.copy mode d a (some tid)

/-- The commands of records entered as far as the list has room; the records that are left (R285, R354). -/
def Issue.enterAll (m : Issue) (gang : Nat) : List (BitVec 512) → State → State × List (BitVec 512)
  | [], s => (s, [])
  | raw :: r, s =>
    match s.gang? gang, (rawMode raw).bind fun md => copyReqOf md raw with
    | some g, some q =>
      if g.cmds.length ≥ Config.cmdPlaces then (s, raw :: r) else
      m.enterAll gang r (({ s with nextUid := s.nextUid + 1 }).enterCmd gang (m.newCmd gang s.nextUid false q none none))
    | _, _ => m.enterAll gang r s

/-- The records of a KICK enter the list; the run stalls while some are left (R354). -/
def Issue.kickOn (m : Issue) (gang : Nat) (raws : List (BitVec 512)) : State :=
  match m.enterAll gang raws m.s with
  | (s1, []) => ({ m with s := s1, k := { m.k with hold := .none } }).done
  | (s1, left) => ({ m with s := s1, k := { m.k with hold := .kick left } }).stallKeep

/-- The checks of a KICK's records in order (R188, R354). -/
def State.kickCheck (s : State) (g : Group) : List (BitVec 512) → State × Option Bad
  | [] => (s, none)
  | raw :: r =>
    match s.copyCheck g (rawMode raw) raw none with
    | (s1, .error b) => (s1, some b)
    | (s1, .ok _) => s1.kickCheck g r

/-- KICK (R187, R354). -/
def execKick (h : Hd) (a b : RegNo) (s : State) : Host.Outcome State Fault Refusal :=
  issue (.kick h a b) h s fun m =>
    match m.s.copyGang m.g, (m.s.who m.g).sp with
    | some x, some _ =>
      match m.k.hold with
      | .kick left => m.kickOn x.uid left
      | _ =>
        let off := (m.sget a.toNat).toNat
        let n := (m.sget b.toNat).toNat
        if off % 64 ≠ 0 then m.raise .align 6 off
        else if n = 0 ∨ 4096 < n then m.raise .prot 6 0
        else
          match Chk.loc { s := m.s, memo := [] } (m.s.who m.g) .sp off (64 * n) true false with
          | (c, .error e) => m.fail c.s e 6
          | (c, .ok l) =>
            match m.g.loadNow c.s l.key (64 * n) false with
            | none => (m.withS c.s).stall
            | some (s1, bs) =>
              let raws := (List.range n).map fun i => BitVec.ofNat 512 (leNat ((bs.drop (64 * i)).take 64))
              match s1.kickCheck m.g raws with
              | (s2, some e) => m.fail s2 e 6
              | (s2, none) => (m.withS s2).kickOn x.uid raws
    | _, _ => m.stall

/-! ## The engine (R184, R188, R191, R205) -/

/-- A command by its number. -/
def State.cmd? (s : State) (id : Nat) : Option CopyCmd := ((s.gangs.map (·.cmds)).flatten).find? fun c => c.id == id
/-- A command replaced, or taken from its list. -/
def State.setCmd (s : State) (c : CopyCmd) : State :=
  match s.gang? c.gang with
  | none => s
  | some g => s.setGang { g with cmds := replaceFirst (fun x => x.id == c.id) c g.cmds }
def State.dropCmd (s : State) (c : CopyCmd) : State :=
  match s.gang? c.gang with
  | none => s
  | some g => s.setGang { g with cmds := g.cmds.filter fun x => !(x.id == c.id) }

/-! ## The save area of a gang that is restored (R280, R291) -/

/-- Bytes of one group block (R280). -/
def blockSize (allot acct : Nat) : Nat := 0x4700 + 512 * (allot - 8) + 49152 * acct
/-- Bytes of the save area of a gang of a job (R280). -/
def Job.areaSize (j : Job) : Nat := 0x4100 + (j.gangN + 1) * blockSize j.allot j.acct + 256 * j.spUnits
/-- The key of a byte of the pool. -/
def Context.poolKey (c : Context) (off : Nat) : Nat := c.savePool.toNat + off

/-- An area that has returned to the pool: its contents are unspecified (R291), one free byte for each. -/
def State.areaLeft (s : State) (key n : Nat) : State := s.pick.1.rawPut key (leBytes n s.pick.2)

/-- The restoration of a gang whose re-issued commands have all been accepted is complete: its save area returns to the pool
(R286, R291). -/
def State.restoredArea (s : State) (gang : Nat) : State :=
  match s.gang? gang with
  | none => s
  | some x =>
    match s.job? x.job with
    | none => s
    | some j =>
      if x.stage != 3 || !x.settledIn then s else
      let c := s.ctx j.ctx
      let s1 := (s.setGang { x with stage := 0 }).areaLeft (c.poolKey x.saveOff) j.areaSize
      s1.setCtx { c with areas := c.areas.filter fun a => a.1 != x.saveOff }

/-- ENGINE_ACCEPT: every older store of the issuer has drained; the commands of one KICK are accepted in record order, and the
commands that a placement re-issues in theirs, with the last of which the restoration is complete (R189, R205, R286, R291). -/
def tryEngineAccept (id : Nat) (s : State) : Option State :=
  match s.cmd? id with
  | none => none
  | some c =>
    match s.gang? c.gang, s.group? c.issuer with
    | some x, some g =>
      let earlier := (x.cmds.takeWhile fun y => !(y.id == id)).any fun y =>
        !y.accepted && ((y.issuer == c.issuer && y.pos == c.pos) || (y.again && c.again))
      if c.accepted || x.state == .evicted || earlier || !g.storesDrained c.pos then none
      else some ((s.setCmd { c with accepted := true }).restoredArea c.gang)
    | _, _ => none

/-- ENGINE_ACCEPT (R205). -/
def execEngineAccept (cmd : Nat) (s : State) : Host.Outcome State Fault Refusal := event (tryEngineAccept cmd) s

/-- Whose spaces a command's lines name: those of its gang. -/
def Gang.who (x : Gang) (ctx : Nat) : Who := { ctx := ctx, core := x.host, sp := some (x.host, x.spBase, x.spSize) }

/-- n bytes of a space at their homes, with whether one of them is poisoned; where the context traps poison it is a failed
check (R181, R188, R205). -/
def Chk.engineRead (c : Chk) (w : Who) (space : Space) (addr n : Nat) : Chk × Except Bad (List Byte × Bool) :=
  match c.parts w space addr n true false with
  | (c1, .error b) => (c1, .error b)
  | (c1, .ok ps) => (c1, .ok (c1.s.readParts ps, c1.s.poisonParts ps))

/-- The index i of a gather or scatter, read at its home, with whether its line is poisoned (R181, R293). -/
def Chk.index (c : Chk) (w : Who) (r : CopyReq) (i : Nat) : Chk × Except Bad (Nat × Bool) :=
  match c.engineRead w r.ispace (r.idx.toNat + 4 * i) 4 with
  | (c1, .error b) => (c1, .error b)
  | (c1, .ok (bs, bad)) => (c1, .ok (leNat bs, bad))

/-- The elements of a gather from index i on (R183, R293). -/
def Chk.gather (c : Chk) (w : Who) (r : CopyReq) (i : Nat) : Nat → Chk × Except Bad (List Byte × Bool)
  | 0 => (c, .ok ([], false))
  | n + 1 =>
    match c.index w r i with
    | (c1, .error b) => (c1, .error b)
    | (c1, .ok (k, bad)) =>
      match c1.engineRead w r.sspace (r.src + BitVec.ofNat 64 (k * r.esize)).toNat r.esize with
      | (c2, .error b) => (c2, .error b)
      | (c2, .ok x) =>
        match c2.gather w r (i + 1) n with
        | (c3, .error b) => (c3, .error b)
        | (c3, .ok y) => (c3, .ok (x.1 ++ y.1, bad || x.2 || y.2))

/-- Elements of a reducing copy combined (R183). -/
def reduceBytes (r : CopyReq) (old new : List Byte) : List Byte :=
  let e := tyBytes r.rty
  ((List.range (old.length / e)).map fun j =>
    let x (l : List Byte) : DWord := BitVec.ofNat 64 (leNat ((l.drop (e * j)).take e))
    leBytes e (redStep r.rop r.rty (x old) (x new)).1.toNat).flatten

/-- The name of a 128-byte region of a job: by worker and offset in scratchpad, else by its physical line (R184;
notes/assumptions/112.md). -/
def regionOf (x : Gang) (space : Space) (addr key : Nat) : Nat :=
  if space = .sp then 2 ^ 80 + x.worker * 2 ^ 20 + addr / 128 else lineOf key

/-- What a line step meets. -/
inductive LineStep where
  | no
  | fault (s : State) (b : Bad) (access : BitVec 4)
  | done (s : State)

/-- The bytes of a row that a line moves: of a reducing copy the elements that begin in it, whole (R183). -/
def CopyReq.extent (r : CopyReq) (p len : Nat) : Nat × Nat :=
  if r.mode = .red then
    let e := tyBytes r.rty
    let first := (p + e - 1) / e * e
    (first, min r.len ((p + len + e - 1) / e * e) - first)
  else (p, len)

/-- What line (i, p, len) of a command reads: its bytes, the offset of a scattered element, and whether something that it read
is poisoned (R183, R293). -/
def Chk.lineSource (c : Chk) (w : Who) (r : CopyReq) (i p len : Nat) : Chk × Except Bad (List Byte × Nat × Bool) :=
  match r.mode with
  | .gat =>
    let e := r.esize
    match c.gather w r (p / e) ((p + len - 1) / e + 1 - p / e) with
    | (c1, .error b) => (c1, .error b)
    | (c1, .ok (bs, bad)) => (c1, .ok ((bs.drop (p % e)).take len, 0, bad))
  | .sca =>
    match c.index w r i with
    | (c1, .error b) => (c1, .error b)
    | (c1, .ok (k, bad)) =>
      match c1.engineRead w r.sspace (r.rowSrc i).toNat len with
      | (c2, .error b) => (c2, .error b)
      | (c2, .ok (bs, bad')) => (c2, .ok (bs, k * r.esize, bad || bad'))
  | _ =>
    match c.engineRead w r.sspace (r.rowSrc i + BitVec.ofNat 64 p).toNat len with
    | (c1, .error b) => (c1, .error b)
    | (c1, .ok (bs, bad)) => (c1, .ok (bs, 0, bad))

/-- Where a line is written: a reducing copy reads it too, an exchange writes another module (R161, R183). -/
def Chk.lineDest (c : Chk) (w : Who) (r : CopyReq) (i addr len : Nat) : Chk × Except Bad (List (Nat × Nat)) :=
  if r.mode = .xch then
    match c.pod w (BitVec.ofNat 32 (r.peer + i)) addr len false true false with
    | (c1, .error b) => (c1, .error b)
    | (c1, .ok l) => (c1, .ok [(l.key, len)])
  else c.parts w r.dspace addr len (r.mode == .red) true

/-- Line n of a command: it lands, marked where something that it read is poisoned; it meets a fault; or it cannot be moved
now (R179, R181, R183, R184, R293). -/
def State.copyLine (s : State) (x : Gang) (ctx : Nat) (c : CopyCmd) (n : Nat) : LineStep :=
  match s.line? c n with
  | none => .no
  | some (i, p0, len0) =>
    let r := c.req
    let w := x.who ctx
    let (p, len) := r.extent p0 len0
    if len = 0 then .done s else
    match Chk.lineSource { s := s, memo := [] } w r i p len with
    | (c1, .error b) => .fault c1.s b 1
    | (c1, .ok (bytes, k, bad)) =>
      let da := (s.rowDst r i + BitVec.ofNat 64 (if r.mode = .sca then k else p)).toNat
      match c1.lineDest w r i da len with
      | (c2, .error b) => .fault c2.s b (if b.cause = .poison then 1 else 2)
      | (c2, .ok ps) =>
        let key := (ps.getD 0 (0, 0)).1
        let store (bs : List Byte) (bad : Bool) : State :=
          let s3 := c2.s.storeParts x.host bs ps
          if bad then ps.foldl (fun s p => (linesOf p.1 p.2).foldl State.poisonLine s) s3 else s3
        if c2.s.flightParts ps then .no
        else if r.mode ≠ .red then .done (store bytes bad)
        else
          let g := regionOf x r.dspace da key
          match c2.s.job? x.job with
          | none => .no
          | some j =>
            let next := ((j.redNext.find? fun y => y.1 == g).map (·.2)).getD 0
            if next < r.seq.toNat then .no else
            let s4 := store (reduceBytes r (c2.s.readParts ps) bytes) (bad || c2.s.poisonParts ps)
            .done (s4.setJob { j with redNext := upsert (fun y => y.1 == g) (g, max next (r.seq.toNat + 1)) j.redNext })

/-- A fault that a command meets while it runs: it pauses at the line, and the host receives a record (R188, R273, R277). -/
def State.pauseCmd (s : State) (c : CopyCmd) (b : Bad) (access : BitVec 4) : State :=
  match s.group? c.issuer with
  | none => s
  | some g =>
    let s1 := s.setCmd { c with paused := true }
    let t : TrapInfo := { cause := b.cause, access := access, pc := c.pc, addr := BitVec.ofNat 64 b.addr, code := 0, sibl := 0 }
    let w := causeWord t 0 (s.ctx g.ctx).fragMode false
    s1.forward g.ctx (.copy c.id) (faultRecord t.addr t.pc (if g.isFront then 0 else g.laneBase.toNat) g.worker g.idx 2 g.lcore
      (((s.jobOf g).map (·.cidx)).getD 0) w)

/-- The first line of a copy command that has not landed. -/
def State.nextLine (s : State) (c : CopyCmd) : Option Nat :=
  (List.range (c.req.rowCount * c.req.perRow)).find? fun n => (s.line? c n).isSome && !c.landed.contains n

/-- A line of a command that the engine takes no more while it quiesces its gang: one beyond the last that has landed, or one
that is not the first of those before it; an exchange copy is not quiesced (R278, R284). -/
def State.lineBarred (s : State) (x : Gang) (c : CopyCmd) (n : Nat) : Bool :=
  x.stage == 2 && c.req.mode != .xch && (c.landed.all (· < n) || s.nextLine c != some n)

/-- An engine line step of a copy command (R197). -/
def tryCopyLine (id line : Nat) (s : State) : Option State :=
  match s.cmd? id with
  | none => none
  | some c =>
    match s.gang? c.gang with
    | none => none
    | some x =>
      if !c.accepted || c.paused || x.state == .evicted || c.landed.contains line || s.lineBarred x c line then none
      else
        match s.job? x.job with
        | none => none
        | some j =>
          match s.copyLine x j.ctx c line with
          | .no => none
          | .fault s1 b a => some (s1.pauseCmd c b a)
          | .done s1 => some ((s1.count (x.host / 8) (some j.ctx) 9 1).setCmd { c with landed := line :: c.landed })

/-- ENGINE_ARRIVAL: a line that has landed is counted: its bytes arrive at the byte barrier, and with its last line the
command is complete (R186, R190, R191, R335). -/
def tryEngineArrival (id line : Nat) (s : State) : Option State :=
  match s.cmd? id with
  | none => none
  | some c =>
    match s.gang? c.gang, s.line? c line with
    | some x, some (_, _, n) =>
      if !c.landed.contains line || c.counted.contains line then none else
      let s0 := s.raiseOverdue x.uid
      let s1 := s0.setCmd { ((s0.cmd? id).getD c) with counted := line :: c.counted }
      let s2 := if c.req.bben then
        (s1.barrierWrite (spKey x.host (x.spBase + c.req.bboff)) true n 0).wakeBarrier x.uid c.req.bboff else s1
      if c.counted.length + 1 < s.lineCount c then some s2
      else
        let s3 := s2.dropCmd c
        some (if c.fromCpy then s3.countDown c.issuer .copies else s3)
    | _, _ => none

/-- ENGINE_ARRIVAL (R191). -/
def execEngineArrival (cmd line : Nat) (s : State) : Host.Outcome State Fault Refusal := event (tryEngineArrival cmd line) s

end Sys2Proof.Machine
end

