-- ==== Sys2Proof/Machine/Pattern.lean ====
section
/-!
DEFINITION. Pattern programs and slots (R226-R230, R235): programs and their sets, generator order, and PLOAD,
PATTERN_INSTALL and PGEN (R229, R232, R362, R363).
-/
namespace Sys2Proof.Machine

open Sys2Proof

/-! ## Programs (R226-R228) -/

/-- An operation of a pattern program (R226). -/
inductive PatOp where
  | band (h : Nat)
  | bdiag (b : Nat)
  | hash (bij : Bool) (m k seed : Nat)
  | full
  | dilate (d : Nat)
  | perm (axis : Bool) (x : Nat)
  | union
  | inter
  | kron (b : Nat)
  deriving DecidableEq, Repr

/-- Patterns that an operation pops (R226). -/
def PatOp.pops : PatOp → Nat
  | .dilate _ | .perm .. => 1
  | .union | .inter | .kron _ => 2
  | _ => 0

/-- The operation of a half other than HASH; none where a field is out of range (R226, R228). -/
def patOp (code v : Nat) : Option PatOp :=
  match code with
  | 1 => some (.band v)
  | 2 => if v ≤ 12 then some (.bdiag v) else none
  | 4 => if v = 0 then some .full else none
  | 5 => if v = 0 then none else some (.dilate v)
  | 6 => if bitsOf v 10 8 = 0 then some (.perm (bitOf v 11) (bitsOf v 7 0)) else none
  | 7 => if v = 0 then some .union else none
  | 8 => if v = 0 then some .inter else none
  | 9 => if v ≤ 12 then some (.kron v) else none
  | _ => none

/-- The operations of a list of halves up to END; none where the program is malformed (R226, R227). -/
def patOps : List Nat → Option (List PatOp)
  | [] => some []
  | h :: r =>
    if h = 0 then (if r.all (· == 0) then some [] else none)
    else if h / 4096 = 3 then
      match r with
      | [] => none
      | seed :: r' =>
        let m := bitsOf h 10 7
        let k := bitsOf h 6 2 + 1
        if bitsOf h 1 0 ≠ 0 ∨ m = 0 ∨ 2 ^ m < k then none
        else (patOps r').map (PatOp.hash (bitOf h 11) m k seed :: ·)
    else
      match patOp (h / 4096) (h % 4096) with
      | none => none
      | some o => (patOps r).map (o :: ·)

/-- The number of patterns left on the stack; none where an operand is missing or the stack grows past 4 (R228). -/
def patDepth : Nat → List PatOp → Option Nat
  | n, [] => some n
  | n, o :: r => if n < o.pops ∨ 4 < n - o.pops + 1 then none else patDepth (n - o.pops + 1) r

/-- A program image of 32 bytes; none where it is not well formed (R226, R228). -/
def patOf (image : BitVec 256) : Option (List PatOp) :=
  match patOps ((List.range 16).map fun i => bitsOf image.toNat (16 * i + 15) (16 * i)) with
  | none => none
  | some l => if patDepth 0 l = some 1 then some l else none

/-- A program is invertible (R228). -/
def invertible (l : List PatOp) : Bool := l.all fun o => match o with | .hash bij .. => bij | _ => true

/-! ## Sets (R226, R227) -/

/-- A column that is not in a list, at or after c, around 2^m (R227). -/
def probe (cols : List Nat) (m : Nat) : Nat → Nat → Nat
  | 0, c => c
  | n + 1, c => if cols.contains c then probe cols m n ((c + 1) % 2 ^ m) else c

/-- The columns of row r of a HASH (R227). -/
def hashCols (bij : Bool) (m seed r : Nat) : Nat → List Nat
  | 0 => []
  | j + 1 =>
    let cols := hashCols bij m seed r j
    if bij then ((2 * seed + 1) * r + seed + j) % 2 ^ m :: cols
    else
      let x := (r * 0x9E3779B1 + j * 0x85EBCA77 + seed * 0xC2B2AE3D) % 2 ^ 32
      let x1 := ((x ^^^ (x >>> 15)) * 0x2C1B3C6D) % 2 ^ 32
      probe cols m cols.length ((x1 ^^^ (x1 >>> 12)) % 2 ^ m) :: cols

/-- Membership of (r, c) in the pattern on top of the stack, for the operations from the last to the first; with it the
operations that lie below the pattern (R226). Fuel is the number of operations. -/
def patTop : Nat → List PatOp → (Nat → Nat → Bool) × List PatOp
  | 0, l => (fun _ _ => false, l)
  | _, [] => (fun _ _ => false, [])
  | n + 1, o :: r =>
    match o with
    | .band h => (fun x y => decide ((x : Int) - y ≤ h) && decide ((y : Int) - x ≤ h), r)
    | .bdiag b => (fun x y => x >>> b == y >>> b, r)
    | .hash bij m k seed => (fun x y => (hashCols bij m seed x k).contains y, r)
    | .full => (fun _ _ => true, r)
    | .dilate d =>
      let (p, r1) := patTop n r
      (fun x y => let t : Int := (y : Int) - x
                  t % d == 0 && p x ((x : Int) + t / d).toNat, r1)
    | .perm axis v =>
      let (p, r1) := patTop n r
      (fun x y => if axis then p x (y ^^^ v) else p (x ^^^ v) y, r1)
    | .union =>
      let (q, r1) := patTop n r
      let (p, r2) := patTop n r1
      (fun x y => p x y || q x y, r2)
    | .inter =>
      let (q, r1) := patTop n r
      let (p, r2) := patTop n r1
      (fun x y => p x y && q x y, r2)
    | .kron b =>
      let (q, r1) := patTop n r
      let (p, r2) := patTop n r1
      (fun x y => p (x >>> b) (y >>> b) && q (x % 2 ^ b) (y % 2 ^ b), r2)

/-- The set of a program. -/
def patSet (l : List PatOp) : Nat → Nat → Bool := (patTop l.length l.reverse).1

/-- The positions of a window in generator order, or in transposed order (R230). -/
def patWindow (image : BitVec 256) (r0 c0 rows cols : Nat) (t : Bool) : List (Nat × Nat) :=
  match patOf image with
  | none => []
  | some l =>
    let p := patSet l
    let rs := (List.range rows).map (r0 + ·)
    let cs := (List.range cols).map (c0 + ·)
    if t then (cs.map fun c => (rs.filter fun r => p r c).map fun r => (r, c)).flatten
    else (rs.map fun r => (cs.filter fun c => p r c).map fun c => (r, c)).flatten

/-! ## Slots (R229, R235) -/

/-- A slot of a context on a logical core: no program and generation 0 where it is not listed (R235). -/
def State.pslot (s : State) (core ctx slot : Nat) : PSlot :=
  match (s.core core).pslots.find? fun x => x.1 == slot && x.2.owner == ctx with
  | some x => x.2
  | none => { owner := ctx, loaded := false, image := 0, gen := 0, inv := false }

/-- The core state of a context stands in its area, so that an instruction that uses it waits (R288). -/
def State.coreAway (s : State) (core ctx : Nat) : Bool := (s.core core).saved.any fun x => x.1 == ctx

/-- The group has issued a PLOAD of a slot that is not installed (R229, R363). -/
def Group.ploadPending (g : Group) (slot : Nat) : Bool :=
  g.ops.any fun o => match o.kind with | .pload n _ inst => n == slot && !inst | _ => false

/-- PLOAD: the image is read now and installed by PATTERN_INSTALL (R229, R362). -/
def execPload (h : Hd) (ps : PSlotNo) (a : Opnd) (s : State) : Host.Outcome State Fault Refusal :=
  issue (.pload h ps a) h s fun m =>
    let va := (m.sget2 (m.reg a)).toNat
    if va % 32 ≠ 0 then m.raise .align 1 va
    else
      match Chk.loc { s := m.s, memo := [] } (m.s.who m.g) .gv va 32 true false with
      | (c, .error b) => m.fail c.s b 1
      | (c, .ok l) =>
        match m.g.loadNow c.s l.key 32 (l.target == 2) with
        | none => (m.withS c.s).stall
        | some (s1, bs) =>
          let img := BitVec.ofNat 256 (leNat bs)
          if (patOf img).isNone then m.fail s1 ⟨.illegal, 0⟩ 1
          else (m.withS s1).addOp (.pload ps.toNat img false)

/-- A load or product, or an MMAS that has looked its entry up and stalls, still uses a slot of a context (R217, R229, R238). -/
def State.pslotUsed (s : State) (core ctx slot : Nat) : Bool :=
  ((s.core core).allW.any fun w => w.owner == ctx && (w.st == .loading || s.wHeld core ctx w.no) &&
    (tensorOf w.image).comp && w.pslot == slot) ||
  s.gangs.any fun x => x.lcore == core && x.groups.any fun g => g.ctx == ctx && g.ops.any fun o =>
    match o.kind with
    | .mma _ _ _ _ _ w => (tensorOf w.image).comp && w.pslot == slot
    | _ => false

/-- PATTERN_INSTALL: once nothing ordered before it uses the slot, the program is installed and the generation advances; a
slot that another context holds is handed over first (R229, R233). -/
def tryPatternInstall (q : QId) (op : Nat) (s : State) : Option State :=
  match s.group? q with
  | none => none
  | some g =>
    match g.op? op with
    | none => none
    | some o =>
      match o.kind with
      | .pload slot img false =>
        let c := s.core g.lcore
        let older := (g.ops.takeWhile fun x => !(x.id == op)).any fun x =>
          match x.kind with | .pload n _ inst => n == slot && !inst | _ => false
        if s.coreAway g.lcore g.ctx || older || s.pslotUsed g.lcore g.ctx slot ||
            c.pslots.any (fun x => x.1 == slot && x.2.owner != g.ctx) then none
        else
          let p : PSlot := { owner := g.ctx, loaded := true, image := img, gen := (s.pslot g.lcore g.ctx slot).gen + 1
                             inv := invertible ((patOf img).getD []) }
          some ((s.setCore { c with pslots := upsert (fun x => x.1 == slot) (slot, p) c.pslots }).setGroup q
            (g.setOp { o with kind := .pload slot img true }))
      | _ => none

/-- PATTERN_INSTALL (R229). -/
def execPatternInstall (q : QId) (op : Nat) (s : State) : Host.Outcome State Fault Refusal :=
  event (tryPatternInstall q op) s

/-! ## PGEN (R232, R362, R363) -/

/-- Position q of a list as PGEN gives it. -/
def posWord (l : List (Nat × Nat)) (q : Nat) : Word :=
  match l[q]? with
  | some (r, c) => BitVec.ofNat 32 (c % 65536 * 65536 + r % 65536)
  | none => BitVec.allOnes 32

/-- The checks and the list of a PGEN. -/
def Issue.pgen (m : Issue) (t : Bool) (ps : PSlotNo) (a : Nat) (go : List (Nat × Nat) → Nat → State) : State :=
  if m.g.ploadPending ps.toNat || m.s.coreAway m.g.lcore m.g.ctx then m.stall else
  let p := m.s.pslot m.g.lcore m.g.ctx ps.toNat
  let cur := (m.sget (a + 1)).toNat
  if cur ≥ 8192 ∨ p.loaded = false then m.raise .prot 0 0
  else if t && !p.inv then m.raise .noninv 0 0
  else
    let o := (m.sget a).toNat
    go (patWindow p.image (o % 65536) (o / 65536) 64 64 t) cur

/-- PGEN to a vector register (R232). -/
def execPgenV (h : Hd) (t : Bool) (d : Opnd) (ps : PSlotNo) (a : Opnd) (s : State) : Host.Outcome State Fault Refusal :=
  issue (.pgenV h t d ps a) h s fun m =>
    m.pgen t ps (m.reg a) fun l q =>
      if m.active.isEmpty then m.done else
      ((m.vput (m.reg d) m.active fun i => posWord l (q + i)).sput (m.reg a + 1)
        (BitVec.ofNat 32 (min (q + 96) l.length))).done

/-- PGEN to a scalar register (R232). -/
def execPgenS (h : Hd) (t : Bool) (d : Opnd) (ps : PSlotNo) (a : Opnd) (s : State) : Host.Outcome State Fault Refusal :=
  issue (.pgenS h t d ps a) h s fun m =>
    m.pgen t ps (m.reg a) fun l q =>
      ((m.sput (m.reg d) (posWord l q)).sput (m.reg a + 1) (BitVec.ofNat 32 (min (q + 1) l.length))).done

end Sys2Proof.Machine
end

