-- ==== Sys2Proof/Machine/Matrix.lean ====
section
/-!
DEFINITION. The matrix array (R211-R238): the weight buffer and MWB, MMA, MMAS and MCLR, MRD in its dense, compacting and
ticketed forms, and the engine lines and completion of these operations.
-/
namespace Sys2Proof.Machine

open Sys2Proof

/-! ## Weight tiles (R215) -/

/-- Columns of a weight tile (R215). -/
def tileK (t : Ty) : Nat := if t = .f16 ∨ t = .bf16 then 32 else 64
/-- Bytes of a stored unit, an element or a code of eight (R140, R215). -/
def unitBytes (t : Ty) : Nat := if tileK t = 32 ∨ t = .cb8 then 2 else 1
/-- Elements of a stored unit. -/
def unitElems (t : Ty) : Nat := if t = .cb8 then 8 else 1
/-- Bytes of a block of 32 elements with its scale (R142). -/
def blockBytes (t : Tensor) : Nat := 32 / unitElems t.ty * unitBytes t.ty + (if t.scaled then 1 else 0)

/-- The rows and columns of a tile that lie inside the tensor (R215). -/
def tileRows (t : Tensor) (r0 : Nat) : Nat := min 64 (t.rows - r0)
def tileCols (t : Tensor) (c0 : Nat) : Nat := min (tileK t.ty) (t.cols - c0)

/-- A byte of a tile to fetch: among the elements or the scales, its place there, its address. -/
structure Fetch where
  scale : Bool
  idx   : Nat
  va    : Nat
  deriving DecidableEq, Repr

/-- The bytes of a block with n present elements: its address, and the number of its first element (R142). -/
def blockFetch (t : Tensor) (base : Int) (first n : Nat) : List Fetch :=
  let at' (o : Nat) : Nat := lowBits 64 (base + o)
  let u := (n + unitElems t.ty - 1) / unitElems t.ty
  if n = 0 then [] else
  ((List.range (u * unitBytes t.ty)).map fun i => Fetch.mk false (first / unitElems t.ty * unitBytes t.ty + i) (at' i)) ++
    (if t.scaled then [⟨true, first / 32, at' (blockBytes t - 1)⟩] else [])

/-- The bytes of a tile in stored order (R215): the rows of a dense tile, the stream of a sparse one. -/
def tileFetch (t : Tensor) (prog : BitVec 256) (r0 c0 layer : Nat) : List Fetch :=
  let k := tileK t.ty
  let base : Int := t.current + layer * t.lstride
  if t.comp then
    let n := (patWindow prog r0 c0 (tileRows t r0) (tileCols t c0) false).length
    let sb : Int := base + (r0 / 64 * ((t.cols + k - 1) / k) + c0 / k : Nat) * t.stride
    ((List.range ((n + 31) / 32)).map fun b => blockFetch t (sb + (b * blockBytes t : Nat)) (32 * b) (min 32 (n - 32 * b))).flatten
  else
    ((List.range (tileRows t r0)).map fun r => ((List.range (k / 32)).map fun b =>
      blockFetch t (base + (r0 + r : Nat) * t.stride + ((c0 / 32 + b) * blockBytes t : Nat)) (k * r + 32 * b)
        (min 32 (tileCols t c0 - 32 * b))).flatten).flatten

/-! ## Element values (R140, R141, R220) -/

/-- A factor of a product: a value, a NaN and whether it is signalling, or an element under a scale of 0xFF. -/
inductive MVal where
  | nanScale
  | nan (sig : Bool)
  | val (v : FVal)
  deriving DecidableEq, Repr

/-- A decoded element of a floating type. -/
def elemVal (t : Ty) (bits : Nat) : MVal :=
  let f := fmtOf t
  if f.isNan bits then .nan (f.isSnan bits) else .val (f.val bits)

/-- Element i of a CB8 code (R140). -/
def cb8Val (c i : Nat) : MVal :=
  let s := bitsOf c 15 12
  let a := s / 4
  let m := 2 * (if i = bitsOf c 3 1 then a + s % 4 + 1 else a) + c % 2
  .val (.fin (m != 0 && bitOf c (4 + i)) m (-2))

/-- An element under a scale byte (R141, R220). -/
def MVal.scaled (v : MVal) (e : Nat) : MVal :=
  if e = 0xFF then .nanScale else
  match v with
  | .val (.fin n m x) => .val (.fin n m (x + e - 127))
  | v => v

/-- Element number p of an entry as stored. -/
def WEntry.elem (w : WEntry) (t : Tensor) (p : Nat) : MVal :=
  let byte (i : Nat) : Nat := (w.elems.getD i 0).toNat
  let v := if t.ty = .cb8 then cb8Val (byte (p / 8 * 2) + 256 * byte (p / 8 * 2 + 1)) (p % 8)
    else if unitBytes t.ty = 2 then elemVal t.ty (byte (2 * p) + 256 * byte (2 * p + 1))
    else elemVal t.ty (byte p)
  if t.scaled then v.scaled (w.scales.getD (p / 32) 0).toNat else v

/-- A row of a sparse tile: its elements by column, from a rank on; and the rank after it (R230). -/
def WEntry.sparseRow (w : WEntry) (t : Tensor) (p : Nat → Bool) : List Nat → Nat → List (Option MVal) × Nat
  | [], q => ([], q)
  | c :: r, q =>
    if p c then
      let x := w.sparseRow t p r (q + 1)
      (some (w.elem t q) :: x.1, x.2)
    else
      let x := w.sparseRow t p r q
      (none :: x.1, x.2)

/-- The rows of a sparse tile (R215, R230). -/
def WEntry.sparseRows (w : WEntry) (t : Tensor) (p : Nat → Nat → Bool) : List Nat → Nat → List (List (Option MVal))
  | [], _ => []
  | r :: rs, q =>
    let x := w.sparseRow t (p r) ((List.range (tileK t.ty)).map (w.c0 + ·)) q
    x.1 :: w.sparseRows t p rs x.2

/-- The tile of an entry: 64 rows of K positions, absent ones and those outside the pattern being none (R215, R220). -/
def WEntry.tile (w : WEntry) : List (List (Option MVal)) :=
  let t := tensorOf w.image
  let k := tileK t.ty
  let rs := (List.range 64).map (w.r0 + ·)
  if t.comp then
    let p := patSet ((patOf w.prog).getD [])
    w.sparseRows t (fun r c => decide (r < t.rows) && decide (c < t.cols) && p r c) rs 0
  else
    (List.range 64).map fun r => (List.range k).map fun c =>
      if w.r0 + r < t.rows ∧ w.c0 + c < t.cols then some (w.elem t (k * r + c)) else none

/-! ## The order of sums (R220-R222) -/

/-- A term of a block: a NaN with the IV that it brings, or the exact product. -/
inductive Term where
  | bad (iv : Bool)
  | val (v : FVal)
  deriving DecidableEq, Repr

/-- The product of an A element and a weight (R220, R221). -/
def mvalMul : MVal → MVal → Term
  | .nanScale, _ | _, .nanScale => .bad false
  | .nan a, .nan b => .bad (a || b)
  | .nan a, _ | _, .nan a => .bad a
  | .val x, .val y =>
    match mulVal x y with
    | some v => .val v
    | none => .bad true

/-- The least exponent of the finite terms. -/
def minExp : List Term → Int → Int
  | [], e => e
  | .val (.fin _ m x) :: r, e => minExp r (if m = 0 then e else min x e)
  | _ :: r, e => minExp r e

/-- The exact sum of the finite terms, in units of 2^e. -/
def sumTerms (e : Int) : List Term → Int
  | [] => 0
  | .val (.fin n m x) :: r =>
    let v : Int := (m <<< (x - e).toNat : Nat)
    (if m = 0 then 0 else if n then -v else v) + sumTerms e r
  | _ :: r => sumTerms e r

/-- An exact value as f32, an exact zero as +0 (R221). -/
def roundF32 (v e : Int) : Nat × FFlags := if v = 0 then (0, 0) else roundBits (fmtOf .f32) rne (decide (v < 0)) v.natAbs e false

/-- A term is −0. -/
def Term.negZero : Term → Bool
  | .val (.fin true 0 _) => true
  | _ => false

/-- blocksum (R221, R222); a zero sum is −0 where every term is −0 (R143). An infinity times zero, or opposite infinities, raise IV
beside a quiet NaN too (notes/assumptions/108.md). -/
def blockSum (ts : List Term) : Nat × FFlags :=
  let f := fmtOf .f32
  let pos := ts.contains (.val (.inf false))
  let neg := ts.contains (.val (.inf true))
  if ts.any (fun t => match t with | .bad _ => true | _ => false) || (pos && neg) then
    (f.defNan, if ts.contains (.bad true) || (pos && neg) then fIV else 0)
  else if pos || neg then (f.sgnBit neg + f.infBits, 0)
  else if !ts.isEmpty && ts.all Term.negZero then (f.sgnBit true, 0)
  else
    let e := minExp ts 1024
    roundF32 (sumTerms e ts) e

/-- The exact sum of two finite f32 patterns, or their difference, in units of 2^-149. -/
def f32Units (v : Nat) : Int :=
  match (fmtOf .f32).val v with
  | .fin n m e => let x : Int := (m <<< (e + 149).toNat : Nat)
                  if n then -x else x
  | _ => 0

/-- fold (R221, R222); a zero s + p has the sign of R143. -/
def fold (sc : Word × Word) (p : Nat) : (Word × Word) × FFlags :=
  let f := fmtOf .f32
  let s := sc.1.toNat
  let fin (v : Nat) : Bool := !f.isNan v && !f.isInf v
  let x := f32Units s + f32Units p
  let s2 := (fAdd f rne false s p).1
  if fin s && fin p && fin s2 then
    let e := (roundF32 (x - f32Units s2) (-149)).1
    let c := fAdd f rne false sc.2.toNat e
    ((BitVec.ofNat 32 s2, BitVec.ofNat 32 c.1), c.2)
  else
    let r := fAdd f rne false s p
    ((BitVec.ofNat 32 r.1, 0), r.2)

/-- Element k of row m of A (R218). -/
def aElem (t : Ty) (a : List VReg) (m k : Nat) : MVal :=
  let w (i : Nat) : Nat := (lane (a.getD i VReg.zero) m).toNat
  if tileK t = 32 then elemVal t (w (k / 2) >>> (16 * (k % 2)) % 65536) else elemVal t (w (k / 4) >>> (8 * (k % 4)) % 256)

/-- Row m of A, with its scales (R219, R220). -/
def aRow (t : Ty) (a : List VReg) (asc : Option VReg) (m : Nat) : List MVal :=
  (List.range (tileK t)).map fun k =>
    match asc with
    | some c => (aElem t a m k).scaled ((lane c m).toNat >>> (8 * (k / 32)) % 256)
    | none => aElem t a m k

/-- The columns n of B: B[k][n] is W[n][k], or W[k][n] in transposed access (R220, R231). -/
def bCols (w : List (List (Option MVal))) (t : Bool) : List (List (Option MVal)) :=
  if t then (List.range 64).map fun n => w.map fun r => r.getD n none else w

/-- The terms of block b of a row and a column. -/
def blockTerms (b : Nat) (row : List MVal) (col : List (Option MVal)) : List Term :=
  (((row.zip col).drop (32 * b)).take 32).filterMap fun x => x.2.map fun v => mvalMul x.1 v

/-- The blocks of one element, in ascending order. -/
def foldBlocks (row : List MVal) (col : List (Option MVal)) : List Nat → (Word × Word) × FFlags → (Word × Word) × FFlags
  | [], x => x
  | b :: r, x =>
    let p := blockSum (blockTerms b row col)
    let y := fold x.1 p.1
    foldBlocks row col r (y.1, x.2 ||| p.2 ||| y.2)

/-- An MMA or MMAS folded into a tile; its flags (R220, R222). -/
def product (t : Bool) (aty : Ty) (a : List VReg) (asc : Option VReg) (w : WEntry) (tile : Tile) : Tile × FFlags :=
  let cols := bCols w.tile t
  let blocks := List.range (tileK aty / 32)
  let rows := (List.range tile.length).zip tile |>.map fun x =>
    let row := aRow aty a asc x.1
    (x.2.zip cols).map fun y => foldBlocks row y.2 blocks (y.1, 0)
  (rows.map fun r => r.map (·.1), (rows.map fun r => r.map (·.2)).flatten.foldl (· ||| ·) 0)

/-! ## The weight buffer (R214-R217, R233) -/

/-- The entry of a tensor identifier of a context on a logical core (R214). -/
def State.wentry (s : State) (core ctx tid : Nat) : Option WEntry :=
  (s.core core).wbuf.find? fun w => w.owner == ctx && w.tid.toNat == tid

/-- An entry replaced or added. -/
def State.setW (s : State) (core : Nat) (w : WEntry) : State :=
  let c := s.core core
  s.setCore { c with wbuf := upsert (fun x => x.no == w.no) w c.wbuf }
/-- An entry emptied. -/
def State.dropW (s : State) (core no : Nat) : State :=
  let c := s.core core
  s.setCore { c with wbuf := c.wbuf.filter fun x => !(x.no == no) }

/-- The rank of an entry that is named now (R216, R288). -/
def Core.nextAge (c : Core) : Nat := maxOf (c.wbuf.map (·.age)) + 1

/-- An MMA or MMAS has yet to read an entry (R216, R217). -/
def State.wReader (s : State) (core ctx : Nat) (w : WEntry) : Bool :=
  s.wHeld core ctx w.no || s.gangs.any fun x => x.lcore == core && x.groups.any fun g => g.ctx == ctx && g.ops.any fun o =>
    match o.kind with | .mma _ _ _ _ _ v => v.tid == w.tid | _ => false

/-- READY entries that a TDEF empties become EMPTY once no stalled MMA or MMAS has them (R385). -/
def State.dropDoomed (s : State) (core : Nat) : State :=
  let c := s.core core
  if c.wbuf.any (·.doomed) then
    s.setCore { c with wbuf := c.wbuf.filter fun w => !(w.doomed && w.st == .ready && !s.wHeld core w.owner w.no) }
  else s

/-- The number of the entry that an MWB takes: the one tagged with its tensor, the lowest EMPTY one of its context, or the
READY one least recently named; none while it must wait (R216, R233). -/
def State.wChoice (s : State) (core ctx tid : Nat) : Option Nat :=
  let own := (s.core core).wbuf.filter fun w => w.owner == ctx
  match own.find? fun w => w.tid.toNat == tid with
  | some w => if w.st = .loading || w.doomed || s.wReader core ctx w then none else some w.no
  | none =>
    match (List.range 16).find? fun n => !own.any fun w => w.no == n with
    | some n => if (s.core core).wbuf.any fun w => w.no == n then none else some n
    | none =>
      let able := own.filter fun w => w.st == .ready && !s.wReader core ctx w
      (able.foldl (fun (b : Option WEntry) w => match b with
        | none => some w
        | some v => if w.age < v.age then some w else some v) none).map (·.no)

/-- The entry of a tensor meets R215, at an origin and a layer. -/
def weightOk (s : State) (core ctx : Nat) (t : Tensor) (r0 c0 layer : Nat) : Bool :=
  let k := tileK t.ty
  [Ty.f16, .bf16, .e4m3, .e5m2, .cb8].contains t.ty && !(t.scaled && t.saxis) && (t.ty != .cb8 || t.scaled) &&
  decide (layer < t.layers) &&
  (if t.comp then r0 % 64 == 0 && c0 % k == 0 && (s.pslot core ctx t.pat).loaded else c0 % 32 == 0)

/-- MWB (R215-R217). -/
def Issue.mwb (m : Issue) (tid : Tid) (r0 c0 layer : Nat) : State :=
  let core := m.g.lcore
  let ctx := m.g.ctx
  if m.g.tidBusy tid.toNat || m.s.coreAway core ctx || m.g.ploadPending (tensorOf (m.ctx.tensor tid.toNat)).pat then m.stall else
  match m.ctx.named tid.toNat [.gv, .ws] with
  | none => m.raise .prot 7 0
  | some t =>
    if !weightOk m.s core ctx t r0 c0 layer then m.raise .prot 7 0
    else if !m.g.storesDrained m.g.nextPos || m.g.tiles ≥ 65535 then m.stall
    else
      match m.s.wChoice core ctx tid.toNat with
      | none => m.stall
      | some no =>
        let p := m.s.pslot core ctx t.pat
        let w : WEntry := { owner := ctx, no := no, st := .loading, tid := tid, image := m.ctx.tensor tid.toNat, r0 := r0
                            c0 := c0, layer := layer, pslot := if t.comp then t.pat else 0, gen := if t.comp then p.gen else 0
                            prog := if t.comp then p.image else 0, elems := List.replicate 4096 0
                            scales := List.replicate 128 0, age := (m.s.core core).nextAge, cursor := 0
                            issuer := qidOf m.ag, pc := m.k.pc, paused := false, doomed := false }
        ({ m with s := m.s.setW core w, g := { m.g with tiles := m.g.tiles + 1 } }).done

/-- MWB at layer 0 (R216). -/
def execMwb (h : Hd) (tid : Tid) (a : RegNo) (s : State) : Host.Outcome State Fault Refusal :=
  issue (.mwb h tid a) h s fun m => m.mwb tid (m.sget a.toNat).toNat (m.sget (a.toNat + 1)).toNat 0
/-- MWB at a layer (R216). -/
def execMwbLayer (h : Hd) (tid : Tid) (a b : RegNo) (s : State) : Host.Outcome State Fault Refusal :=
  issue (.mwbLayer h tid a b) h s fun m =>
    let v := (m.sget a.toNat).toNat
    m.mwb tid (v % 65536) (v / 65536) (m.sget b.toNat).toNat

/-- The run of bytes at a cursor that one line step fetches: those of one 128-byte line of memory. -/
def lineAt (l : List Fetch) (cursor : Nat) : List Fetch :=
  match l.drop cursor with
  | [] => []
  | f :: r => (f :: r).takeWhile fun x => x.va / 128 == f.va / 128

/-- Fetched bytes put in their places. -/
def WEntry.fill (w : WEntry) : List (Fetch × Byte) → WEntry
  | [] => w
  | (f, b) :: r =>
    (if f.scale then { w with scales := w.scales.set f.idx b } else { w with elems := w.elems.set f.idx b }).fill r

/-- A load that has fetched everything: READY, or EMPTY where a TDEF of its tensor waits for it and no stalled MMA does; its
issuer counts down (R216, R385). -/
def State.wLoaded (s : State) (core : Nat) (w : WEntry) : State :=
  ((s.setW core { w with st := .ready }).dropDoomed core).countDown w.issuer .tiles

/-- The fault record of a load that a fault pauses (R188, R216, R268). -/
def State.wForward (s : State) (core : Nat) (w : WEntry) (b : Bad) : State :=
  match s.group? w.issuer with
  | none => s
  | some g =>
    let t : TrapInfo := { cause := b.cause, access := 1, pc := w.pc, addr := BitVec.ofNat 64 b.addr, code := 0, sibl := 0 }
    (s.setW core { w with paused := true }).forward w.owner (.wbuf core w.no)
      (faultRecord t.addr t.pc (if g.isFront then 0 else g.laneBase.toNat) g.worker g.idx 3 g.lcore
        (((s.jobOf g).map (·.cidx)).getD 0) (causeWord t 0 (s.ctx w.owner).fragMode false))

/-- ENGINE_LINE of a weight-buffer load: the next line of the tile is read at its home (R197, R216). -/
def tryWeightLine (core no line : Nat) (s : State) : Option State :=
  match (s.core core).wbuf.find? fun w => w.no == no with
  | none => none
  | some w =>
    if w.st != .loading || w.paused || line != w.cursor then none else
    let all := tileFetch (tensorOf w.image) w.prog w.r0 w.c0 w.layer
    match lineAt all w.cursor, s.group? w.issuer with
    | _, none => none
    | [], some _ => some (s.wLoaded core w)
    | f :: r, some g =>
      let lo := minOf ((f :: r).map (·.va))
      let hi := maxOf ((f :: r).map (·.va))
      match Chk.loc { s := s, memo := [] } { ctx := w.owner, core := g.host, sp := none } (tensorOf w.image).space lo (hi + 1 - lo)
          true false with
      | (c, .error b) => some (c.s.wForward core w b)
      | (c, .ok l) =>
        let bs := c.s.readHome l.key (hi + 1 - lo)
        let w1 := (w.fill ((f :: r).map fun x => (x, bs.getD (x.va - lo) 0)))
        let w2 := { w1 with cursor := w.cursor + r.length + 1 }
        some (if w2.cursor ≥ all.length then c.s.wLoaded core w2 else c.s.setW core w2)

/-! ## MMA, MMAS, MCLR (R213, R217-R222, R231, R238) -/

/-- Convergence: all 96 lanes active in the group's only split (R213). -/
def Issue.converged (m : Issue) : Bool := m.k.mask == BitVec.allOnes 96 && m.g.splits.length == 1

/-- The product of an MMA or MMAS with the READY entry that it has looked up is an operation of its group (R217, R219). -/
def Issue.multiply (m : Issue) (t : Bool) (ty : Ty) (acc : AccNo) (a : Nat) (asc : Option Nat) (w : WEntry) : State :=
  let core := m.g.lcore
  let s1 := m.s.setW core { w with age := (m.s.core core).nextAge }
  let n : Issue := { m with s := s1, k := { m.k with hold := .none } }
  (n.addOp (.mma acc.toNat t ty ((List.range 16).map fun i => m.vget (a + i)) (asc.map m.vget) w)).dropDoomed core

/-- MMA and MMAS: the lookup and the product; one that has found its entry LOADING stalls until it is READY, and uses it
(R217-R219, R231, R238). -/
def Issue.mma (m : Issue) (sparse : Option PSlotNo) (t : Bool) (ty : Ty) (acc : AccNo) (a : Nat) (tid : Tid)
    (asc : Option Nat) : State :=
  let core := m.g.lcore
  let ctx := m.g.ctx
  let found : Option WEntry := match m.k.hold with
    | .mma no => (m.s.core core).wbuf.find? fun w => w.owner == ctx && w.no == no && w.tid == tid
    | _ => none
  if !m.converged then m.raise .convergence 7 0
  else if m.s.coreAway core ctx then m.stall
  else match found with
  | some w => if w.st = .loading || m.g.tiles ≥ 65535 then m.stall else m.multiply t ty acc a asc w
  | none =>
    if m.g.tidBusy tid.toNat || (match sparse with | some p => m.g.ploadPending p.toNat | none => false) then m.stall else
    match m.ctx.named tid.toNat [.gv, .ws], m.s.wentry core ctx tid.toNat with
    | some x, some w =>
      let pair := [Ty.f16, .bf16, .e4m3, .e5m2, .cb8].contains x.ty && tileK x.ty == tileK ty
      let p := m.s.pslot core ctx x.pat
      let ok := match sparse with
        | none => !x.comp
        | some ps => x.comp && ps.toNat == x.pat && w.gen == p.gen && !(t && tileK x.ty == 32)
      if !pair || !ok then m.raise .prot 7 0
      else if t && !p.inv then m.raise .noninv 7 0
      else if w.st = .loading then ({ m with k := { m.k with hold := .mma w.no } }).stallKeep
      else if m.g.tiles ≥ 65535 then m.stall
      else m.multiply t ty acc a asc w
    | _, _ => m.raise .prot 7 0

/-- MMA (R219, R220). -/
def execMma (h : Hd) (ty : Ty) (acc : AccNo) (a : Opnd) (tid : Tid) (asc : Bool) (c : Opnd) (s : State) :
    Host.Outcome State Fault Refusal :=
  issue (.mma h ty acc a tid asc c) h s fun m =>
    m.mma none false ty acc (m.reg a) tid (if asc then some (m.reg c) else none)
/-- MMAS (R219, R231). -/
def execMmas (h : Hd) (t : Bool) (ty : Ty) (acc : AccNo) (a : Opnd) (tid : Tid) (ps : PSlotNo) (asc : Bool) (c : Opnd)
    (s : State) : Host.Outcome State Fault Refusal :=
  issue (.mmas h t ty acc a tid ps asc c) h s fun m =>
    m.mma (some ps) t ty acc (m.reg a) tid (if asc then some (m.reg c) else none)
/-- MCLR (R213). -/
def execMclr (h : Hd) (acc : AccNo) (s : State) : Host.Outcome State Fault Refusal :=
  issue (.mclr h acc) h s fun m =>
    if !m.converged then m.raise .convergence 0 0 else m.addOp (.mclr acc.toNat)

/-! ## MRD (R223-R225) -/

/-- S + C rounded once to a type, under the special-value rules of R138 (R223). -/
def readElem (t : Ty) (sc : Word × Word) : Nat × FFlags :=
  let f := fmtOf .f32
  let d := fmtOf t
  match nanResult f [sc.1.toNat, sc.2.toNat] with
  | some (v, fl) => ((cvtFF f d rne v).1, fl)
  | none =>
    match f.val sc.1.toNat, f.val sc.2.toNat with
    | .inf a, .inf b => if a = b then cvtFF f d rne (f.sgnBit a + f.infBits) else (d.defNan, fIV)
    | .inf a, _ | _, .inf a => cvtFF f d rne (f.sgnBit a + f.infBits)
    | .fin a m x, .fin b n y => sumFin d rne a m x b n y
    | _, _ => (d.defNan, 0)

/-- Element (m, n) of a tile. -/
def Tile.at' (x : Tile) (m n : Nat) : Word × Word := (x.getD m []).getD n (0, 0)

/-- Rows of a tile over a column window, as read. -/
def Tile.window (x : Tile) (t : Ty) (m c0 n : Nat) : List (Nat × FFlags) :=
  (List.range n).map fun j => readElem t (x.at' m (c0 + j))

/-- The union of the flags of elements. -/
def flagsOf (l : List (Nat × FFlags)) : FFlags := l.foldl (fun a x => a ||| x.2) 0

/-- Elements to a register: columns for widths up to 32 bits (R223). -/
def perReg (t : Ty) : Nat := 32 / tyBits t

/-- Registers that a dense read writes (R223). -/
def denseRegs (t : Ty) (n : Nat) : Nat := if tyBits t = 64 then 2 * n else n / perReg t

/-- The control word of a dense read: C0 and the number of columns; none where R223 raises PROT. -/
def denseCtl (t : Ty) (v : Nat) : Option (Nat × Nat) :=
  let c0 := bitsOf v 5 0
  let n := bitsOf v 13 8 + 1
  let p := if tyBits t = 64 then 1 else perReg t
  if v ≥ 2 ^ 14 ∨ bitsOf v 7 6 ≠ 0 ∨ c0 % p ≠ 0 ∨ n % p ≠ 0 ∨ c0 + n > 64 then none else some (c0, n)

/-- The control pair of a compacting read: SKIP and BOUND; none where R224 or R225 raises PROT. -/
def compactCtl (tick : Bool) (v : Nat) : Option (Nat × Nat) :=
  let skip := bitsOf v 28 16
  let bound := bitsOf v 12 0
  if bitsOf v 31 29 ≠ 0 ∨ bitsOf v 15 13 ≠ 0 ∨ skip > 6143 ∨ bound = 0 ∨ bound > 6144 ∨ (tick ∧ skip ≠ 0) then none
  else some (skip, bound)

/-- The non-zero elements of row m: column and value; NaNs count (R224). -/
def nonZeros (t : Ty) (x : Tile) (m : Nat) : List (Nat × Nat × Nat) :=
  ((List.range 64).map fun n => (m, n, (readElem t (x.at' m n)).1)).filter fun y => !(fmtOf t).isZero y.2.2

/-- The flags of a whole tile read (R224; notes/assumptions/18.md). -/
def tileFlags (t : Ty) (x : Tile) : FFlags :=
  ((List.range 96).map fun m => flagsOf (x.window t m 0 64)).foldl (· ||| ·) 0

/-- An entry of a compacting read as a lane holds it (R224). -/
def recWord (y : Nat × Nat × Nat) : Word := BitVec.ofNat 32 (y.1 * 2 ^ 25 + y.2.1 * 2 ^ 19 + y.2.2 % 65536)
/-- An entry of a compacting read as a record (R224). -/
def recBytes (y : Nat × Nat × Nat) : List Byte := leBytes 8 (y.2.2 + y.2.1 * 2 ^ 32 + y.1 * 2 ^ 38)

/-- A range of bytes cut at the lines of memory: offset, address, bytes. -/
def linesFrom (base : Nat) : Nat → Nat → List (Nat × Nat × Nat)
  | _, 0 => []
  | n, fuel + 1 =>
    if n = 0 then [] else
    let k := min n (128 - base % 128)
    (0, base, k) :: (linesFrom (base + k) (n - k) fuel).map fun x => (x.1 + k, x.2)

/-- The lines of a range, each checked for a store (R168, R205): offset, key, bytes. -/
def Chk.lines (c : Chk) (w : Who) (space : Space) : List (Nat × Nat × Nat) → Chk × Except Bad (List (Nat × Nat × Nat))
  | [] => (c, .ok [])
  | (o, a, n) :: r =>
    match c.loc w space a n false true with
    | (c1, .error b) => (c1, .error b)
    | (c1, .ok l) =>
      match c1.lines w space r with
      | (c2, .error b) => (c2, .error b)
      | (c2, .ok ls) => (c2, .ok ((o, l.key, n) :: ls))

/-- The home of the byte at an offset of a range. -/
def lineKey (ls : List (Nat × Nat × Nat)) (o : Nat) : Nat :=
  match ls.find? fun x => decide (x.1 ≤ o) && decide (o < x.1 + x.2.2) with
  | some x => x.2.1 + (o - x.1)
  | none => 0

/-- The base address of an MRD to memory (R223). -/
def Issue.mrdBase (m : Issue) (space : Space) (a : Nat) : Nat :=
  if space = .sp then (m.sget a).toNat else (m.sget2 a).toNat

/-- The checks over a destination of n bytes: ALIGN, then each line (R160, R168, R362). -/
def Issue.mrdDest (m : Issue) (space : Space) (base align n : Nat) : State × Except Bad (List (Nat × Nat × Nat)) :=
  if base % align ≠ 0 then (m.s, .error ⟨.align, base⟩) else
  match Chk.lines { s := m.s, memo := [] } (m.s.who m.g) space (linesFrom base n (n / 128 + 2)) with
  | (c, r) => (c.s, r)

/-- An earlier tile operation on an accumulator is not complete (R212). -/
def TileKind.acc? : TileKind → Option Nat
  | .mma a .. | .mrdV a .. | .mrdS a .. | .mclr a | .mrdTick a .. => some a
  | _ => none
def Group.accBusy (g : Group) (acc : Nat) : Bool := g.ops.any fun o => o.kind.acc? == some acc

/-- Vector registers that follow each other, as slots; none where R74 is broken. -/
def Issue.vrange (m : Issue) (d n : Nat) : Option (List Nat) :=
  if n ≠ 0 ∧ d + n > 8 + m.g.span then none else some ((List.range n).map fun i => absSlot m.k.base (d + i))

/-- Entries from index i on put into lanes: entry i goes to lane i mod 96 of register D + i div 96 (R224). -/
def Issue.putEntries (m : Issue) (d : Nat) : List (Nat × Word) → Issue
  | [] => m
  | (i, w) :: r => (m.vput (d + i / 96) [i % 96] fun _ => w).putEntries d r

/-- A list with its positions, from a number on. -/
def numbered {α : Type} (n : Nat) : List α → List (Nat × α)
  | [] => []
  | x :: r => (n, x) :: numbered (n + 1) r

/-- The end of a compacting read: the operation counts, the control scalars are written, and SPOVERFLOW is raised where
entries are left (R224, R225), with ACCESS 0 (notes/assumptions/107.md). -/
def Issue.compacted (m : Issue) (k : TileKind) (left : Bool) : State :=
  let o : TileOp := { id := m.g.nextOp, pos := m.g.nextPos, kind := k }
  let n : Issue := { m with g := { m.g with tiles := m.g.tiles + 1, nextOp := m.g.nextOp + 1, ops := m.g.ops ++ [o] } }
  if left then n.raise .spoverflow 0 0 else n.done

/-- The scalars of a compacting read as it ends (R224). -/
def Issue.compactCtlOut (m : Issue) (b skip bound size : Nat) : Issue :=
  if size ≤ bound then m.sput (b + 1) (BitVec.ofNat 32 size)
  else (m.sput b (BitVec.ofNat 32 ((skip + bound) % 8192 * 65536 + bound))).sput (b + 1) (BitVec.ofNat 32 bound)

/-- The rows in the order in which a ticketed read takes them: a free choice (R225). -/
def pickRows (s : State) : Nat → List Nat → State × List Nat
  | 0, _ => (s, [])
  | _, [] => (s, [])
  | n + 1, l =>
    let (s1, v) := s.pick
    let i := v % l.length
    let (s2, r) := pickRows s1 n (l.eraseIdx i)
    (s2, l.getD i 0 :: r)

/-- The number of the scalar that holds the control word. -/
def Issue.ctlReg (m : Issue) : SrcB → Nat
  | .reg o => m.reg o
  | _ => 0

/-- MRD to vector registers (R223-R225). -/
def execMrdV (h : Hd) (ty : Ty) (cmp tick : Bool) (d : Opnd) (acc : AccNo) (b : SrcB) (s : State) :
    Host.Outcome State Fault Refusal :=
  issue (.mrdV h ty cmp tick d acc b) h s fun m =>
    let dn := m.reg d
    if !cmp then
      match denseCtl ty (m.srcS1 .n32 b).toNat with
      | none => m.raise .prot 0 0
      | some (c0, n) =>
        match m.vrange dn (denseRegs ty n) with
        | none => m.raise .regbounds 0 0
        | some slots =>
          if slots.any m.g.vecPending then m.stall
          else m.addOp (.mrdV acc.toNat ty c0 n slots (if m.g.isFront then 0 else m.k.mask))
    else if !m.converged then m.raise .convergence 0 0
    else
      let bn := m.ctlReg b
      match compactCtl tick (m.sget bn).toNat with
      | none => m.raise .prot 0 0
      | some (skip, bound) =>
        if m.g.accBusy acc.toNat || m.g.tiles ≥ 65535 then m.stall else
        let tile := m.g.acc.getD acc.toNat []
        let ticket := if tick then (m.sget (bn + 1)).toNat else 0
        let (s1, order) := if tick then pickRows m.s 96 (List.range 96) else (m.s, List.range 96)
        let list := ((order.map fun r => nonZeros ty tile r).flatten).drop skip
        let put := (numbered ticket list).filter fun x => decide (x.1 < bound)
        let last := maxOf (put.map (·.1))
        let first := minOf (put.map (·.1))
        match m.vrange dn (if put.isEmpty then 0 else last / 96 + 1) with
        | none => m.raise .regbounds 0 0
        | some slots =>
          if !put.isEmpty && (slots.drop (first / 96)).any m.g.vecPending then m.stall else
          let n := (m.withS s1).putEntries dn (put.map fun x => (x.1, recWord x.2))
          let n1 := if tick then n.sput (bn + 1) (BitVec.ofNat 32 (ticket + list.length))
            else n.compactCtlOut bn skip bound list.length
          n1.compacted (.mrdRec [] (tileFlags ty tile)) (decide (put.length < list.length))

/-- The ticketed read to memory goes on: once every row has been appended its scalar is written (R225);
SPOVERFLOW has ACCESS 2 (notes/assumptions/107.md). -/
def Issue.tickOn (m : Issue) (op b : Nat) : State :=
  match m.g.op? op with
  | some o =>
    match o.kind with
    | .mrdTick _ _ _ _ _ [] _ put dropped =>
      let n := ({ m with k := { m.k with hold := .none } }).sput (b + 1) (BitVec.ofNat 32 put)
      if dropped then n.raise .spoverflow 2 0 else n.done
    | _ => m.stall
  | none => m.stall

/-- MRD to memory (R223-R225). With `.tick` all BOUND records are checked (R362; notes/assumptions/122.md). -/
def execMrdS (h : Hd) (ty : Ty) (space : Space) (cmp tick : Bool) (a : Opnd) (acc : AccNo) (b : SrcB) (s : State) :
    Host.Outcome State Fault Refusal :=
  issue (.mrdS h ty space cmp tick a acc b) h s fun m =>
    match m.k.hold with
    | .tick op => m.tickOn op (m.ctlReg b)
    | _ =>
    let base := m.mrdBase space (m.reg a)
    if !m.converged then m.raise .convergence 2 0
    else if !cmp then
      match denseCtl ty (m.srcS1 .n32 b).toNat with
      | none => m.raise .prot 2 0
      | some (c0, n) =>
        match m.mrdDest space base (tyBytes ty) (96 * n * tyBytes ty) with
        | (s1, .error e) => m.fail s1 e 2
        | (s1, .ok ls) => (m.withS s1).addOp (.mrdS acc.toNat ty c0 n ls)
    else
      let bn := m.ctlReg b
      match compactCtl tick (m.sget bn).toNat with
      | none => m.raise .prot 2 0
      | some (skip, bound) =>
        if tick then
          match m.mrdDest space (base + 8) 8 (8 * bound) with
          | (s1, .error e) => m.fail s1 e 2
          | (s1, .ok ls) =>
            let w := s1.who m.g
            match Chk.loc { s := s1, memo := [] } w space base 8 true true with
            | (c, .error e) => m.fail c.s e 2
            | (c, .ok l) =>
              if !c.s.atomicOk .add .n64 l then m.fail c.s ⟨.prot, base⟩ 2
              else if m.g.tiles ≥ 65535 then (m.withS c.s).stall
              else
                let o : TileOp := { id := m.g.nextOp, pos := m.g.nextPos
                                    kind := .mrdTick acc.toNat ty l.key ls bound (List.range 96) [] 0 false }
                ({ m with s := c.s, k := { m.k with hold := .tick o.id }
                          g := { m.g with tiles := m.g.tiles + 1, nextOp := m.g.nextOp + 1, ops := m.g.ops ++ [o] } }).stallKeep
        else if m.g.accBusy acc.toNat || m.g.tiles ≥ 65535 then m.stall
        else
          let tile := m.g.acc.getD acc.toNat []
          let list := (((List.range 96).map fun r => nonZeros ty tile r).flatten).drop skip
          let put := list.take bound
          match m.mrdDest space base 8 (8 * put.length) with
          | (s1, .error e) => m.fail s1 e 2
          | (s1, .ok ls) =>
            let bytes := (put.map recBytes).flatten
            let writes := ls.map fun x => (x.2.1, (bytes.drop x.1).take x.2.2)
            ((m.withS s1).compactCtlOut bn skip bound list.length).compacted (.mrdRec writes (tileFlags ty tile))
              (decide (put.length < list.length))

/-! ## Engine lines of tile operations (R205, R225) -/

/-- No earlier operation of the group on the same tile is left (R212). -/
def Group.accTurn (g : Group) (id acc : Nat) : Bool :=
  (g.ops.takeWhile fun o => !(o.id == id)).all fun o => o.kind.acc? != some acc

/-- The bytes that a dense read stores, from an offset on (R223). -/
def denseBytes (t : Ty) (x : Tile) (c0 n o len : Nat) : List Byte :=
  let e := tyBytes t
  (((List.range ((o + len - 1) / e + 1 - o / e)).map fun i =>
    let j := o / e + i
    leBytes e (readElem t (x.at' (j / n) (c0 + j % n))).1).flatten.drop (o % e)).take len

/-- ENGINE_LINE of an MRD: a line of a dense or compacting read by its place among those left, or a row of a ticketed read by
its number, or a record of one by 96 and its place (R205, R225). -/
def tryMrdLine (q : QId) (op line : Nat) (s : State) : Option State :=
  match s.group? q with
  | none => none
  | some g =>
    match g.op? op with
    | none => none
    | some o =>
      match o.kind with
      | .mrdS acc ty c0 n ls =>
        match ls[line]? with
        | some (off, key, len) =>
          if !g.accTurn op acc || s.inFlightAt key len then none else
          let s1 := s.storeHome (some g.host) key (denseBytes ty (g.acc.getD acc []) c0 n off len) 0
          some (s1.setGroup q (g.setOp { o with kind := .mrdS acc ty c0 n (ls.eraseIdx line) }))
        | none => none
      | .mrdRec ws fl =>
        match ws[line]? with
        | some (key, bs) =>
          if s.inFlightAt key bs.length then none else
          some ((s.storeHome (some g.host) key bs 0).setGroup q (g.setOp { o with kind := .mrdRec (ws.eraseIdx line) fl }))
        | none => none
      | .mrdTick acc ty ctr dst bound rows ws put dropped =>
        if line < 96 then
          if !rows.contains line || !g.accTurn op acc || s.inFlightAt ctr 8 then none else
          let list := nonZeros ty (g.acc.getD acc []) line
          let (s1, t, _) := s.atomic (some g.host) .add .n64 ctr (BitVec.ofNat 64 list.length) 0 0
          let kept := (numbered t list).filter fun x => decide (x.1 < bound)
          let new := kept.map fun x => (lineKey dst (8 * x.1), recBytes x.2)
          let k : TileKind := .mrdTick acc ty ctr dst bound (rows.filter fun r => r != line) (ws ++ new) (put + kept.length)
            (dropped || decide (kept.length < list.length))
          some (s1.setGroup q (g.setOp { o with kind := k }))
        else
          match ws[line - 96]? with
          | some (key, bs) =>
            if s.inFlightAt key bs.length then none else
            let k : TileKind := .mrdTick acc ty ctr dst bound rows (ws.eraseIdx (line - 96)) put dropped
            some ((s.storeHome (some g.host) key bs 0).setGroup q (g.setOp { o with kind := k }))
          | none => none
      | _ => none

/-! ## Completion (R212, R222) -/

/-- Registers of a dense read as it completes (R223). -/
def Group.denseWrite (g : Group) (ty : Ty) (x : Tile) (c0 : Nat) (lanes : Mask) : List (Nat × Nat) → Group
  | [] => g
  | (j, slot) :: r =>
    let p := perReg ty
    let word (m : Nat) : Word :=
      if tyBits ty = 64 then BitVec.ofNat 32 ((readElem ty (x.at' m (c0 + j / 2))).1 >>> (32 * (j % 2)))
      else BitVec.ofNat 32 (leNat (((List.range p).map fun i =>
        leBytes (tyBytes ty) (readElem ty (x.at' m (c0 + j * p + i))).1).flatten))
    let old := g.vec slot
    (g.setVec slot (vtab fun m => if lanes.getLsbD m then word m else lane old m)).denseWrite ty x c0 lanes r

/-- A tile operation of the matrix array completes: its effect and its flags (R212, R222); none while it must wait. -/
def Group.tileDone (g : Group) (o : TileOp) : Option Group :=
  let tile (a : Nat) : Tile := g.acc.getD a []
  match o.kind with
  | .mma acc t aty a asc w =>
    if !g.accTurn o.id acc then none else
    let r := product t aty a asc w (tile acc)
    some (({ g with acc := g.acc.set acc r.1 }).orFlags r.2)
  | .mclr acc =>
    if !g.accTurn o.id acc then none else
    some { g with acc := g.acc.set acc ((tile acc).map fun r => r.map fun _ => (0, 0)) }
  | .mrdV acc ty c0 n slots ls =>
    if !g.accTurn o.id acc then none else
    let fl := ((lanesOf ls).map fun m => flagsOf ((tile acc).window ty m c0 n)).foldl (· ||| ·) 0
    some ((g.denseWrite ty (tile acc) c0 ls (numbered 0 slots)).orFlags fl)
  | .mrdS acc ty c0 n [] =>
    some (g.orFlags (((List.range 96).map fun m => flagsOf ((tile acc).window ty m c0 n)).foldl (· ||| ·) 0))
  | .mrdRec [] fl => some (g.orFlags fl)
  | .mrdTick acc ty _ _ _ [] [] _ _ =>
    if g.splits.any fun k => k.hold == .tick o.id then none else some (g.orFlags (tileFlags ty (tile acc)))
  | .pload _ _ true => some g
  | _ => none

end Sys2Proof.Machine
end

