-- ==== Sys2Proof/Machine/Geometry.lean ====
section
/-!
DEFINITION. Box nodes and the engines that work on them (R239-R265): nodes, geometry tensors and visibility buffers, GINW,
GREP, GBLD and GPATCH.
-/
namespace Sys2Proof.Machine

open Sys2Proof

/-! ## Nodes (R240-R242) -/

/-- A position (R239). -/
structure Pos where
  x : Int
  y : Int
  z : Int
  deriving DecidableEq, Repr

def Pos.add (a b : Pos) : Pos := ⟨a.x + b.x, a.y + b.y, a.z + b.z⟩
def Pos.sub (a b : Pos) : Pos := ⟨a.x - b.x, a.y - b.y, a.z - b.z⟩
def Pos.scale (a : Pos) (k : Int) : Pos := ⟨a.x * k, a.y * k, a.z * k⟩
/-- A property of every axis. -/
def Pos.all (a : Pos) (p : Int → Bool) : Bool := p a.x && p a.y && p a.z
/-- Axis k. -/
def Pos.axis (a : Pos) (k : Nat) : Int := if k = 0 then a.x else if k = 1 then a.y else a.z

/-- An escape slot (R241). -/
structure Esc where
  p    : Pos
  vidx : Nat
  used : Bool
  deriving DecidableEq, Repr

/-- A child entry: offset in the lattice, size (R241). -/
structure Child where
  off : Pos
  s   : Nat
  deriving DecidableEq, Repr

/-- A node with its payload (R240, R241); `fin` is the first bit above the last item. -/
structure Node where
  raw    : Nat
  user   : Nat
  parent : Nat
  first  : Nat
  b      : Nat
  level  : Nat
  ext    : Bool
  dim    : Bool
  kind   : Nat
  origin : Pos
  childs : List Child
  verts  : List Pos
  tris   : List (Nat × Nat × Nat)
  esc    : List Esc
  fin    : Nat
  deriving DecidableEq, Repr

/-- Three consecutive fields of w bits, signed or not. -/
def pos3 (v p w : Nat) (signed : Bool) : Pos :=
  let f (i : Nat) : Int := let x := (v >>> (p + i * w)) % 2 ^ w
                           if signed then sgn w x else x
  ⟨f 0, f 1, f 2⟩

/-- The node of a line of 1,024 bits (R240, R241). -/
def nodeOf (v : Nat) : Node :=
  let b := bitsOf v 13 10
  let root := bitsOf v 1 0 == 1
  let p1 := 128 + (if root then 144 else 0)
  let p2 := p1 + bitsOf v 17 14 * (3 * b + 4)
  let p3 := p2 + bitsOf v 22 18 * (3 * (b + 1))
  let p4 := p3 + bitsOf v 27 23 * 15
  let f (p w : Nat) : Nat := (v >>> p) % 2 ^ w
  { raw := v, user := bitsOf v 127 112, parent := bitsOf v 111 72, first := bitsOf v 71 32, b := b, level := bitsOf v 9 4
    ext := bitOf v 3, dim := bitOf v 2, kind := bitsOf v 1 0
    origin := if root then pos3 v 128 48 true else ⟨0, 0, 0⟩
    childs := (List.range (bitsOf v 17 14)).map fun j => ⟨pos3 v (p1 + j * (3 * b + 4)) b false, f (p1 + j * (3 * b + 4) + 3 * b) 4⟩
    verts := (List.range (bitsOf v 22 18)).map fun j => pos3 v (p2 + j * (3 * (b + 1))) (b + 1) false
    tris := (List.range (bitsOf v 27 23)).map fun j => (f (p3 + 15 * j) 5, f (p3 + 15 * j + 5) 5, f (p3 + 15 * j + 10) 5)
    esc := (List.range (bitsOf v 30 28)).map fun j =>
      ⟨pos3 v (p4 + 150 * j) 48 true, f (p4 + 150 * j + 144) 5, bitOf v (p4 + 150 * j + 149)⟩
    fin := p4 + 150 * bitsOf v 30 28 }

/-- Bit fields packed upward: widths and values (R241). -/
def packBits : List (Nat × Nat) → Nat
  | [] => 0
  | (w, v) :: r => v % 2 ^ w + 2 ^ w * packBits r

/-- Three fields of a position. -/
def posBits (w : Nat) (p : Pos) : List (Nat × Nat) := [(w, lowBits w p.x), (w, lowBits w p.y), (w, lowBits w p.z)]

/-- The line of a node (R240, R241). -/
def Node.bits (n : Node) : Nat :=
  packBits ([(2, n.kind), (1, n.dim.toNat), (1, n.ext.toNat), (6, n.level), (4, n.b), (4, n.childs.length), (5, n.verts.length),
    (5, n.tris.length), (3, n.esc.length), (1, bitsOf n.raw 31 31), (40, n.first), (40, n.parent), (16, n.user)] ++
    (if n.kind = 1 then posBits 48 n.origin else []) ++
    (n.childs.map fun c => posBits n.b c.off ++ [(4, c.s)]).flatten ++
    (n.verts.map fun v => posBits (n.b + 1) v).flatten ++
    (n.tris.map fun t => [(5, t.1), (5, t.2.1), (5, t.2.2)]).flatten ++
    (n.esc.map fun e => posBits 48 e.p ++ [(5, e.vidx), (1, e.used.toNat)]).flatten)

/-- The USED slots' vertices. -/
def Node.escaped (n : Node) : List Nat := (n.esc.filter (·.used)).map (·.vidx)

/-- The header of a node is well formed (R240, R242). A user node that meets the list of R242 counts as well formed, the reserved
KIND 11 does not; B below 4 does not, although nodes of a worked program have it (notes/assumptions/113.md). -/
def Node.headOk (n : Node) : Bool :=
  !bitOf n.raw 31 && decide (n.kind < 3) && decide (n.esc.length ≤ 4) && decide (n.tris.length ≤ 16) &&
  decide (n.verts.length ≤ 24) && decide (n.childs.length ≤ 8) && decide (4 ≤ n.b) && decide (n.b ≤ 12) &&
  decide (n.b ≤ n.level) && decide (n.level ≤ 48) && decide (n.fin ≤ 1024)

/-- A node is well formed (R242). -/
def Node.ok (n : Node) : Bool :=
  let lim : Int := 2 ^ n.b
  n.headOk && n.raw >>> n.fin == 0 &&
  n.childs.all (fun c => decide (c.s ≤ n.b) && c.off.all fun o => decide (o + 2 ^ c.s ≤ lim)) &&
  n.verts.all (fun v => v.all fun o => decide (o ≤ lim)) &&
  n.tris.all (fun t => decide (t.1 < n.verts.length) && decide (t.2.1 < n.verts.length) && decide (t.2.2 < n.verts.length)) &&
  n.escaped.all (fun v => decide (v < n.verts.length)) &&
  (List.range n.escaped.length).all (fun i => !(n.escaped.take i).contains (n.escaped.getD i 0))

/-- The width of a lattice cell (R239). -/
def Node.cell (n : Node) : Int := 2 ^ (n.level - n.b)

/-- The exact position of a vertex in a node with an origin (R242). -/
def Node.pos (n : Node) (o : Pos) (v : Nat) : Pos :=
  match n.esc.find? fun e => e.used && e.vidx == v with
  | some e => e.p
  | none => o.add ((n.verts.getD v ⟨0, 0, 0⟩).scale n.cell)

/-- The origin and LEVEL of child j (R242). -/
def Node.childAt (n : Node) (o : Pos) (j : Nat) : Pos × Nat :=
  match n.childs[j]? with
  | some c => (o.add (c.off.scale n.cell), n.level - n.b + c.s)
  | none => (o, 0)

/-! ## Geometry tensors and visibility buffers (R243, R244) -/

/-- A geometry tensor that an instruction names (R174, R243). -/
def Context.geom (c : Context) (tid : Nat) : Option Tensor :=
  match c.named tid [.gv, .sp] with
  | some t => if t.ty = .b32 ∧ t.cols = 32 ∧ t.stride = 128 ∧ t.comp = false ∧ t.scaled = false then some t else none
  | none => none

/-- Nodes of a geometry tensor (R243). -/
def Tensor.nodes (t : Tensor) : Nat := t.layers * t.rows

/-- A visibility buffer that an instruction names (R174, R244). -/
def Context.vbuf (c : Context) (tid : Nat) : Option Tensor :=
  match c.named tid [.gv, .sp] with
  | some t =>
    if t.ty = .b32 ∧ t.cols % 4 = 0 ∧ t.layers = 1 ∧ t.comp = false ∧ t.scaled = false ∧ t.pub = false ∧ t.base0 % 16 = 0 ∧
        4 * (t.cols : Int) ≤ t.stride then some t else none
  | none => none

/-- The address of an element of a visibility buffer (R244). -/
def Tensor.elementAt (t : Tensor) (x y : Nat) : Nat := lowBits 64 (t.base0 + y * t.stride + 16 * x)

/-- The entry through which an operation translates now: as it read it, with the selector of the table (R193, R260, R385). -/
def State.entryNow (s : State) (ctx : Nat) (tid : Tid) (img : BitVec 256) : Tensor :=
  let cur := (s.ctx ctx).tensor tid.toNat
  tensorOf (if cur ^^^ img = selBit then cur else img)

/-- The address of a node, in the current base or the shadow (R174, R243). -/
def Tensor.nodeAt (t : Tensor) (i : Nat) (shadow : Bool) : Nat :=
  lowBits 64 ((if shadow then t.write else t.current : Nat) + (i / 65536 : Nat) * t.lstride + (i % 65536 * 128 : Nat))

/-- What a fetch of a node at its home meets (R250, R255, R258, R400). -/
inductive NodeFetch where
  | poison (s : State)
  | bad (s : State)
  | node (s : State) (n : Node) (parts : List (Nat × Nat))

/-- A node fetched for an engine, with the parts of its line; a shadow is fetched for writing. That it is below the number of
nodes, its reader looks at after the fetch. -/
def State.fetchNode (s : State) (w : Who) (t : Tensor) (i : Nat) (shadow : Bool) : NodeFetch :=
  match Chk.parts { s := s, memo := [] } w t.space (t.nodeAt i shadow) 128 false shadow with
  | (c, .error _) => .bad c.s
  | (c, .ok ps) =>
    if c.s.poisonParts ps then .poison c.s else .node c.s (nodeOf (leNat (c.s.readParts ps))) ps

/-! ## Coverage (R246) -/

/-- The edge function. -/
def edgeFn (ax ay bx bY px py : Int) : Int := (bx - ax) * (py - ay) - (bY - ay) * (px - ax)

/-- An edge is claimed. -/
def claimed (ax ay bx bY : Int) : Bool := decide (bY < ay) || (decide (bY = ay) && decide (ax < bx))

/-! ## GINW (R245) -/

/-- The form of a GINW. -/
inductive Inward where
  | smp | edge | ray
  deriving DecidableEq, Repr

/-- Axes of the positions of a form, in register order (R245). -/
def Inward.axes : Inward → List Nat
  | .smp => [0, 1]
  | .edge => [0, 1, 0, 1]
  | .ray => [0, 1, 2]

/-- The words that a form writes for one lane (R245). -/
def Inward.words (f : Inward) (n : Node) (c : Child) (a : List Word) : List Word :=
  let sh := n.level - n.b
  let ec : Int := 2 ^ (sh + c.s)
  let at' (i : Nat) : Int := (a.getD (2 * i) 0).toNat + 2 ^ 32 * (a.getD (2 * i + 1) 0).toNat
  let moved := (numbered 0 f.axes).map fun x =>
    sgn 64 (lowBits 64 (at' x.1 - c.off.axis x.2 * 2 ^ sh * (if f = .ray then 65536 else 1)))
  let q (i : Nat) : Int := moved.getD i 0
  let pairs := (moved.map fun v => [BitVec.ofNat 32 (lowBits 64 v), BitVec.ofNat 32 (lowBits 64 v / 2 ^ 32)]).flatten
  pairs ++ match f with
  | .smp => [if 0 ≤ q 0 ∧ q 0 ≤ ec ∧ 0 ≤ q 1 ∧ q 1 ≤ ec then 1 else 0]
  | .edge =>
    let bit (i : Nat) (x y : Int) : Nat := if edgeFn (q 0) (q 1) (q 2) (q 3) x y ≥ 0 then 2 ^ i else 0
    [BitVec.ofNat 32 (bit 0 0 0 + bit 1 ec 0 + bit 2 0 ec + bit 3 ec ec)]
  | .ray => (List.range 3).map fun i => a.getD (6 + i) 0

/-- GINW: a load of the image's header and child entry, which the loads counter must have room for (R245, R349, R395). -/
def Issue.ginw (m : Issue) (f : Inward) (d a b : Nat) : State :=
  if m.active.isEmpty then m.done else
  let v := (m.sget b).toNat
  if bitsOf v 6 3 ≠ 0 then m.raise .prot 1 v
  else
    match Chk.loc { s := m.s, memo := [] } (m.s.who m.g) .sp (v / 128 * 128) 128 true false with
    | (c, .error e) => m.fail c.s e 1
    | (c, .ok l) =>
      match if m.g.loads ≥ 65535 then none else m.g.loadNow c.s l.key 128 false with
      | none => (m.withS c.s).stall
      | some (s1, bs) =>
        let n := nodeOf (leNat bs)
        match n.headOk && n.kind != 2, n.childs[v % 8]? with
        | true, some ch =>
          let nIn := if f = .edge then 8 else if f = .ray then 9 else 4
          let out (i : Nat) : List Word := f.words n ch ((List.range nIn).map fun r => lane (m.vget (a + r)) i)
          let nOut := if f = .smp then 5 else 9
          let vals := (List.range 96).map fun i => if m.active.contains i then out i else []
          ((List.range nOut).foldl (fun (x : Issue) r => x.vput (d + r) m.active fun i => (vals.getD i []).getD r 0)
            (m.withS s1)).done
        | _, _ => (m.withS s1).raise .prot 1 v

/-- GINW.smp (R245). -/
def execGinwSmp (h : Hd) (d a b : Opnd) (s : State) : Host.Outcome State Fault Refusal :=
  issue (.ginwSmp h d a b) h s fun m => m.ginw .smp (m.reg d) (m.reg a) (m.reg b)
/-- GINW.edge (R245). -/
def execGinwEdge (h : Hd) (d a b : Opnd) (s : State) : Host.Outcome State Fault Refusal :=
  issue (.ginwEdge h d a b) h s fun m => m.ginw .edge (m.reg d) (m.reg a) (m.reg b)
/-- GINW.ray (R245). -/
def execGinwRay (h : Hd) (d a b : Opnd) (s : State) : Host.Outcome State Fault Refusal :=
  issue (.ginwRay h d a b) h s fun m => m.ginw .ray (m.reg d) (m.reg a) (m.reg b)

/-! ## GREP (R251) -/

/-- GREP (R251, R349). -/
def execGrep (h : Hd) (d a : RegNo) (vtid : Tid) (s : State) : Host.Outcome State Fault Refusal :=
  issue (.grep h d a vtid) h s fun m =>
    if m.g.tidBusy vtid.toNat then m.stall else
    match m.ctx.vbuf vtid.toNat with
    | none => m.raise .prot 7 0
    | some _ =>
      if m.active.isEmpty then m.done else
      m.addOp (.grep (m.ctx.tensor vtid.toNat) (absSlot m.k.base d.toNat) m.active
        ((List.range 5).map fun i => m.vget (a.toNat + i)) 0)

/-- The code of one lane of a GREP (R251): the element's bits [95:0] where its line is good, the size of the buffer, and the
lane's words. -/
def grepCode (elem : Option Nat) (width height : Nat) (a : List Word) : Nat :=
  let w (i : Nat) : Nat := (a.getD i 0).toNat
  match elem with
  | none => 4
  | some v =>
    let depth := v / 2 ^ 64
    if w 0 % 65536 ≥ width ∨ w 0 / 65536 ≥ height then 1
    else if v % 2 ^ 64 ≠ w 1 + 2 ^ 32 * w 2 then 2
    else if max depth (w 3) - min depth (w 3) > w 4 then 3
    else 0

/-- A lane of a GREP (R251, R261). -/
def State.grepLane (s : State) (w : Who) (t : Tensor) (a : List Word) : State × Nat :=
  let p := (a.getD 0 0).toNat
  match Chk.parts { s := s, memo := [] } w t.space (t.elementAt (p % 65536) (p / 65536)) 16 false false with
  | (c, .error _) => (c.s, 4)
  | (c, .ok ps) =>
    let v := if c.s.poisonParts ps then none else some (leNat ((c.s.readParts ps).take 12))
    (c.s, grepCode v (t.cols / 4) t.rows a)

/-! ## GBLD (R252, R253, R350) -/

/-- A build record's node, trailer origin, NODE and STATUS (R252). -/
structure Build where
  node   : Node
  origin : Pos
  index  : Nat
  status : Nat
  deriving DecidableEq, Repr

def buildOf (v : Nat) : Build :=
  { node := nodeOf (v % 2 ^ 1024), origin := pos3 v 1024 48 true, index := bitsOf v (1024 + 183) (1024 + 144)
    status := bitsOf v (1024 + 199) (1024 + 192) }

/-- A node with items appended: its line packed anew (R241, R253). -/
def Node.repack (n : Node) : Node := nodeOf (n.bits % 2 ^ 1024)

/-- One lane of GBLD.vtx (R253). -/
def Build.vertex (r : Build) (p : Pos) : Build :=
  let n := r.node
  let q := p.sub r.origin
  let c := n.cell
  let flag (i : Nat) : Build := { r with status := r.status ||| 2 ^ i }
  if n.verts.length ≥ 24 ∨ n.fin + 3 * (n.b + 1) > 1024 then flag 0
  else if q.all fun x => decide (0 ≤ x) && decide (x ≤ 2 ^ n.level) && x % c == 0 then
    { r with node := ({ n with verts := n.verts ++ [⟨q.x / c, q.y / c, q.z / c⟩] } : Node).repack }
  else if n.esc.all (·.used) then flag 2
  else
    let new : Esc := { p := p, vidx := n.verts.length, used := true }
    { flag 1 with node := ({ n with verts := n.verts ++ [⟨0, 0, 0⟩], esc := replaceFirst (fun e => !e.used) new n.esc } : Node).repack }

/-- One lane of GBLD.tri (R253). -/
def Build.triangle (r : Build) (w : Nat) : Build :=
  let n := r.node
  let t := (w % 32, w / 32 % 32, w / 1024 % 32)
  if w ≥ 2 ^ 15 ∨ t.1 ≥ n.verts.length ∨ t.2.1 ≥ n.verts.length ∨ t.2.2 ≥ n.verts.length then
    { r with status := r.status ||| 16 }
  else if n.tris.length ≥ 16 ∨ n.fin + 15 > 1024 then { r with status := r.status ||| 8 }
  else { r with node := ({ n with tris := n.tris ++ [t] } : Node).repack }

/-- Active lanes of a GBLD in ascending order (R253). -/
def Build.lanes (r : Build) (tri : Bool) (a : List VReg) : List Nat → Build
  | [] => r
  | l :: ls =>
    let w (i : Nat) : Nat := (lane (a.getD i VReg.zero) l).toNat
    let ax (i : Nat) : Int := sgn 64 (w (2 * i) + 2 ^ 32 * w (2 * i + 1))
    (if tri then r.triangle (w 0) else r.vertex ⟨ax 0, ax 1, ax 2⟩).lanes tri a ls

/-- GBLD (R253, R349). -/
def Issue.gbld (m : Issue) (tri commit : Bool) (tid : Tid) (a b : Nat) : State :=
  if m.g.tidBusy tid.toNat then m.stall else
  match m.ctx.geom tid.toNat with
  | none => m.raise .prot 7 0
  | some _ =>
    let off := (m.sget b).toNat
    if off % 32 ≠ 0 then m.raise .align 7 off
    else
      match Chk.loc { s := m.s, memo := [] } (m.s.who m.g) .sp off 160 false true with
      | (c, .error e) => m.fail c.s e 7
      | (c, .ok _) =>
        (m.withS c.s).addOp (.gbld tri commit tid (m.ctx.tensor tid.toNat) off m.active
          ((List.range (if tri then 1 else 6)).map fun i => m.vget (a + i)) false)

/-- GBLD.vtx (R253). -/
def execGbldVtx (h : Hd) (commit : Bool) (tid : Tid) (a b : RegNo) (s : State) : Host.Outcome State Fault Refusal :=
  issue (.gbldVtx h commit tid a b) h s fun m => m.gbld false commit tid a.toNat b.toNat
/-- GBLD.tri (R253). -/
def execGbldTri (h : Hd) (commit : Bool) (tid : Tid) (a b : RegNo) (s : State) : Host.Outcome State Fault Refusal :=
  issue (.gbldTri h commit tid a b) h s fun m => m.gbld true commit tid a.toNat b.toNat

/-- The record step of a GBLD at the home of its record, with its commit; none while the node's line is in flight (R179, R253,
R350). -/
def State.buildStep (s : State) (w : Who) (ctx : Nat) (tri commit : Bool) (tid : Tid) (img : BitVec 256) (off : Nat)
    (ls : List Nat) (a : List VReg) : Option State :=
  match w.sp with
  | none => some s
  | some (core, base, _) =>
    let key := spKey core (base + off)
    let raw := s.homeNat key 160
    let r := (buildOf raw).lanes tri a ls
    let t := s.entryNow ctx tid img
    let write : Option (State × Bool) :=
      if !commit then some (s, false) else
      if !r.node.ok || decide (t.nodes ≤ r.index) then some (s, true) else
      match Chk.parts { s := s, memo := [] } w t.space (t.nodeAt r.index true) 128 false true with
      | (c, .error _) => some (c.s, true)
      | (c, .ok ps) => if c.s.flightParts ps then none else some (c.s.storeParts core (leBytes 128 r.node.raw) ps, false)
    write.map fun (s1, bad) =>
    let status := if bad then r.status ||| 32 else r.status
    let keep := raw / 2 ^ 1024 % 2 ^ 256
    let trailer := keep - bitsOf keep 199 192 * 2 ^ 192 + status * 2 ^ 192
    s1.storeHome (some core) key (leBytes 160 (r.node.raw % 2 ^ 1024 + trailer * 2 ^ 1024)) 0

/-! ## GPATCH (R258, R264) -/

/-- GPATCH (R258, R349). -/
def execGpatch (h : Hd) (d a : RegNo) (tid : Tid) (s : State) : Host.Outcome State Fault Refusal :=
  issue (.gpatch h d a tid) h s fun m =>
    if m.active.isEmpty then m.done
    else if m.g.tidBusy tid.toNat then m.stall
    else
      match m.ctx.geom tid.toNat with
      | none => m.raise .prot 7 0
      | some _ =>
        if m.active.any fun i => (lane (m.vget (a.toNat + 1)) i).toNat ≥ 8192 then m.raise .prot 7 0
        else m.addOp (.gpatch tid (m.ctx.tensor tid.toNat) (absSlot m.k.base d.toNat) m.active []
          ((List.range 5).map fun i => m.vget (a.toNat + i)))

/-- The chain from a node to its root: the nodes with their indices and parts, the node itself first; or the status that a
failure gives. A node that is no link of a chain, `bad` for one below, does not end the walk, since a poisoned line further up
gives its own status (R258; notes/assumptions/19.md). -/
def State.patchChain (s : State) (w : Who) (t : Tensor) (child : Option (Nat × Node)) (i : Nat) (bad : Bool) :
    Nat → State × Except Nat (List (Nat × Node × List (Nat × Nat)))
  | 0 => (s, .error 3)
  | fuel + 1 =>
    match s.fetchNode w t i true with
    | .poison s1 => (s1, .error 4)
    | .bad s1 => (s1, .error 3)
    | .node s1 n ps =>
      let fits := match child with
        | none => true
        | some (ci, c) =>
          decide (n.first ≤ ci) && decide (ci - n.first < n.childs.length) && c.dim == n.dim && c.kind == 0 &&
            c.level == (n.childAt n.origin (ci - n.first)).2
      let bad' := bad || decide (t.nodes ≤ i) || !n.ok || !fits
      if n.kind = 1 then (s1, if bad' then .error 3 else .ok [(i, n, ps)])
      else if n.kind ≠ 0 then (s1, .error 3)
      else
        match s1.patchChain w t (some (i, n)) n.parent bad' fuel with
        | (s2, .error e) => (s2, .error e)
        | (s2, .ok l) => (s2, .ok ((i, n, ps) :: l))

/-- The origin of the first node of a chain (R242, R258). -/
def chainOrigin : List (Nat × Node × List (Nat × Nat)) → Pos
  | [] => ⟨0, 0, 0⟩
  | [(_, n, _)] => n.origin
  | (i, _, _) :: (j, p, k) :: r => (p.childAt (chainOrigin ((j, p, k) :: r)) (i - p.first)).1

/-- A vertex moved: the node as written, whether it escapes; or the status of a failure (R258, R264). -/
def Node.patch (n : Node) (o : Pos) (v : Nat) (d : Pos) : Except Nat (Node × Bool) :=
  let p := (n.pos o v).add d
  let q := p.sub o
  let c := n.cell
  let mine (e : Esc) : Bool := e.used && e.vidx == v
  if q.all fun x => decide (0 ≤ x) && decide (x ≤ 2 ^ n.level) && x % c == 0 then
    .ok ({ n with verts := n.verts.set v ⟨q.x / c, q.y / c, q.z / c⟩
                  esc := n.esc.map fun e => if mine e then { e with used := false } else e }, false)
  else if p.all fun x => decide (-(2 ^ 47) ≤ x) && decide (x < 2 ^ 47) then
    let new : Esc := { p := p, vidx := v, used := true }
    if n.esc.any mine then .ok ({ n with esc := replaceFirst mine new n.esc, ext := true }, true)
    else if n.esc.any fun e => !e.used then .ok ({ n with esc := replaceFirst (fun e => !e.used) new n.esc, ext := true }, true)
    else .error 2
  else .error 2

/-- One lane of a GPATCH: its status, and the homes of the ancestors in which EXT is still to be set; none while the node's
line is in flight (R179, R258). -/
def State.patchLane (s : State) (w : Who) (t : Tensor) (host : Nat) (a : List Word) : Option (State × Nat × List Nat) :=
  let v (i : Nat) : Nat := (a.getD i 0).toNat
  match s.patchChain w t none (v 0 + 2 ^ 32 * (v 1 % 256)) false 65 with
  | (s1, .error e) => some (s1, e, [])
  | (s1, .ok []) => some (s1, 3, [])
  | (s1, .ok ((i, n, ps) :: up)) =>
    let vn := v 1 / 256 % 32
    if vn ≥ n.verts.length then some (s1, 3, []) else
    match n.patch (chainOrigin ((i, n, ps) :: up)) vn ⟨sgn 32 (v 2), sgn 32 (v 3), sgn 32 (v 4)⟩ with
    | .error e => some (s1, e, [])
    | .ok (n1, out) =>
      if s1.flightParts ps then none else
      some (s1.storeParts host (leBytes 128 n1.bits) ps, if out then 1 else 0,
        if out then up.map (fun x => (x.2.2.getD 0 (0, 0)).1) else [])

/-- EXT of a node set at its home (R258, R264). -/
def State.setExt (s : State) (host key : Nat) : State :=
  s.storeHome (some host) key (leBytes 1 (s.homeNat key 1 ||| 8)) 0

/-! ## Statistics (R262) -/

/-- A counter of a context's geometry statistics record increased at its home. -/
def State.stat (s : State) (ctx i n : Nat) : State :=
  if n = 0 then s else (s.atomic none .add .n64 ((s.ctx ctx).qkey (0x80 + 8 * i)) (BitVec.ofNat 64 n) 0 0).1

/-- Counters of the record increased in turn. -/
def State.stats (s : State) (ctx : Nat) (l : List (Nat × Nat)) : State := l.foldl (fun x y => x.stat ctx y.1 y.2) s

end Sys2Proof.Machine
end

