-- ==== Sys2Proof/Machine/Raster.lean ====
section
/-!
DEFINITION. The rasteriser (R246, R249, R250, R262, R263): GRAS, its node fetches and sample commits, and replay.
-/
namespace Sys2Proof.Machine

open Sys2Proof

/-! ## GRAS (R249) -/

/-- The root that a pair of words gives; none where R249 raises PROT. -/
def Context.root (c : Context) (w0 w1 : Word) : Option Root :=
  let gtid : Tid := w1.extractLsb' 8 10
  let node := w0.toNat + 2 ^ 32 * (w1.toNat % 256)
  match c.geom gtid.toNat with
  | none => none
  | some t =>
    if w1.toNat / 2 ^ 30 = 3 ∨ t.nodes ≤ node then none
    else some { node := node, cull := w1.extractLsb' 30 2, inst := w1.extractLsb' 18 12, gtid := gtid
                image := c.tensor gtid.toNat }

/-- The first task of a root. -/
def Root.task (r : Root) : RasterTask := .visit r r.node 0 0 0 none

/-- Roots of a list of word pairs, in order; none at the first failure. -/
def Context.roots (c : Context) : List (Word × Word) → Option (List Root)
  | [] => some []
  | (w0, w1) :: r =>
    match c.root w0 w1, c.roots r with
    | some x, some xs => some (x :: xs)
    | _, _ => none

/-- GRAS (R249). -/
def Issue.gras (m : Issue) (vtid : Tid) (words : List (Word × Word)) : State :=
  if m.g.tidBusy vtid.toNat || words.any (fun w => m.g.tidBusy ((w.2.extractLsb' 8 10).toNat)) then m.stall else
  match m.ctx.vbuf vtid.toNat, m.ctx.roots words with
  | some _, some rs => m.addOp (.gras vtid (m.ctx.tensor vtid.toNat) rs (rs.map Root.task) 0 0 0 0 0 0)
  | _, _ => m.raise .prot 7 0

/-- GRAS with one root (R249). -/
def execGrasS (h : Hd) (vtid : Tid) (a : RegNo) (s : State) : Host.Outcome State Fault Refusal :=
  issue (.grasS h vtid a) h s fun m => m.gras vtid [(m.sget a.toNat, m.sget (a.toNat + 1))]
/-- GRAS with a root per active lane (R249). -/
def execGrasV (h : Hd) (vtid : Tid) (a : RegNo) (s : State) : Host.Outcome State Fault Refusal :=
  issue (.grasV h vtid a) h s fun m =>
    m.gras vtid (m.active.map fun i => (lane (m.vget a.toNat) i, lane (m.vget (a.toNat + 1)) i))

/-! ## Drawing (R246, R250) -/

/-- The pixels from lo to hi whose sample lies between two screen coordinates, below a limit (R239). -/
def pixelRange (lo hi : Int) (limit : Nat) : List Nat :=
  let first := (max 0 ((lo - 128 + 255) / 256)).toNat
  (List.range (min ((hi - 128) / 256 + 1).toNat limit - first)).map (first + ·)

/-- The depth of a sample in a triangle with its area term positive; none where the sample is not covered or is discarded
(R246). -/
def sampleDepth (v0 v1 v2 : Pos) (area px py : Int) : Option Nat :=
  let e (a b : Pos) : Int := edgeFn a.x a.y b.x b.y px py
  let covers (w : Int) (a b : Pos) : Bool := decide (w > 0) || (w == 0 && claimed a.x a.y b.x b.y)
  let w0 := e v1 v2
  let w1 := e v2 v0
  let w2 := e v0 v1
  let d := (w0 * v0.z + w1 * v1.z + w2 * v2.z) / area
  if covers w0 v1 v2 && covers w1 v2 v0 && covers w2 v0 v1 && decide (0 ≤ d) && decide (d ≤ 0xFFFFFFFE) then some d.toNat
  else none

/-- The commits of a triangle (R246, R249, R250): no sample outside the triangle's bounds is covered. -/
def triangleSamples (v0 v1 v2 : Pos) (cull : BitVec 2) (width height : Nat) (ident : DWord) : List RasterTask :=
  let area := edgeFn v0.x v0.y v1.x v1.y v2.x v2.y
  if area = 0 ∨ (cull = 1 ∧ area < 0) ∨ (cull = 2 ∧ area > 0) then [] else
  let (u1, u2) := if area < 0 then (v2, v1) else (v1, v2)
  let ys := pixelRange (min v0.y (min v1.y v2.y)) (max v0.y (max v1.y v2.y)) height
  let xs := pixelRange (min v0.x (min v1.x v2.x)) (max v0.x (max v1.x v2.x)) width
  (ys.map fun (y : Nat) => xs.filterMap fun (x : Nat) =>
    (sampleDepth v0 u1 u2 area.natAbs (256 * x + 128) (256 * y + 128)).map fun d => RasterTask.commit x y d ident).flatten

/-- The primitive identifier (R244, R250). -/
def primitive (node tri : Nat) (inst : BitVec 12) : DWord :=
  BitVec.ofNat 64 (node % 2 ^ 40 * 2 ^ 24 + tri % 2 ^ 12 * 2 ^ 12 + inst.toNat)

/-- What a visit of a node adds: its tasks, and the counts PRIMS, SAMPLES, BADNODE, POISONNODE (R250, R262). -/
structure Visit where
  tasks : List RasterTask
  prims : Nat
  samples : Nat
  bad : Nat
  poison : Nat

/-- A visit of a node (R250). -/
def State.rasterVisit (s : State) (w : Who) (ctx : Nat) (buf : Tensor) (r : Root) (i : Nat) (o : Pos) (lev : Option Nat) :
    State × Visit :=
  match s.fetchNode w (s.entryNow ctx r.gtid r.image) i false with
  | .poison s1 => (s1, ⟨[], 0, 0, 0, 1⟩)
  | .bad s1 => (s1, ⟨[], 0, 0, 1, 0⟩)
  | .node s1 n _ =>
    let fits := match lev with
      | none => n.kind == 1
      | some l => n.kind == 0 && n.level == l
    if !n.ok || decide ((s.entryNow ctx r.gtid r.image).nodes ≤ i) || !n.dim || !fits then (s1, ⟨[], 0, 0, 1, 0⟩) else
    let o1 := if n.kind = 1 then n.origin else o
    let tris := (numbered 0 n.tris).map fun t =>
      let p (v : Nat) : Pos := n.pos o1 v
      triangleSamples (p t.2.1) (p t.2.2.1) (p t.2.2.2) r.cull (buf.cols / 4) buf.rows (primitive i t.1 r.inst)
    let kids := (List.range n.childs.length).map fun j =>
      let c := n.childAt o1 j
      RasterTask.visit r (n.first + j) c.1.x c.1.y c.1.z (some c.2)
    (s1, ⟨tris.flatten ++ kids, (tris.filter fun l => !l.isEmpty).length, tris.flatten.length, 0, 0⟩)

/-- ENGINE_LINE of a GRAS: the task at a place is a visit, and it is made (R250). -/
def tryGrasLine (q : QId) (op line : Nat) (s : State) : Option State :=
  if s.stilled q then none else
  match s.group? q with
  | none => none
  | some g =>
    match g.op? op with
    | none => none
    | some o =>
      match o.kind with
      | .gras vtid img roots work prims samples passed bad poison drops =>
        match work[line]? with
        | some (.visit r i x y z lev) =>
          let (s1, v) := s.rasterVisit (s.who g) g.ctx (tensorOf img) r i ⟨x, y, z⟩ lev
          let k : TileKind := .gras vtid img roots (work.take line ++ v.tasks ++ work.drop (line + 1)) (prims + v.prims)
            (samples + v.samples) passed (bad + v.bad) (poison + v.poison) drops
          some ((s1.count (g.host / 8) (some g.ctx) 0x0D 1).setGroup q (g.setOp { o with kind := k }))
        | _ => none
      | _ => none

/-- The commits that may be made now, by their places: those before the next visit, the first of each element (R250). -/
def ableCommits : List RasterTask → List (Nat × Nat) → Nat → List Nat
  | .commit x y _ _ :: r, seen, i =>
    if seen.contains (x, y) then ableCommits r seen (i + 1) else i :: ableCommits r ((x, y) :: seen) (i + 1)
  | _, _, _ => []

/-- A sample commit at its element's home: least key wins (R250). The flags: passed, dropped. None while the element's line is
in flight (R179). -/
def State.commitSample (s : State) (w : Who) (host : Nat) (buf : Tensor) (x y depth : Nat) (ident : DWord) :
    Option (State × Bool × Bool) :=
  match Chk.parts { s := s, memo := [] } w buf.space (buf.elementAt x y) 16 false true with
  | (c, .error _) => some (c.s, false, true)
  | (c, .ok ps) =>
    let key := depth * 2 ^ 64 + ident.toNat
    let old := leNat ((c.s.readParts ps).take 12)
    if c.s.flightParts ps then none
    else some (if key < old then c.s.storeParts host (leBytes 16 key) ps else c.s, decide (key ≤ old), false)

/-- SAMPLE_COMMIT: one of the commits that may be made now is made, and counted unless R400 drops it (R250, R262, R313;
notes/assumptions/115.md). -/
def trySampleCommit (q : QId) (op : Nat) (s : State) : Option State :=
  if s.stilled q then none else
  match s.group? q with
  | none => none
  | some g =>
    match g.op? op with
    | none => none
    | some o =>
      match o.kind with
      | .gras vtid img roots work prims samples passed bad poison drops =>
        let able := ableCommits work [] 0
        let (s0, v) := s.pick
        let i := able.getD (v % able.length) 0
        match able, work[i]? with
        | _ :: _, some (.commit x y d ident) =>
          (s0.commitSample (s.who g) g.host (tensorOf img) x y d ident).map fun (s1, pass, drop) =>
          let k : TileKind := .gras vtid img roots (work.eraseIdx i) prims samples (passed + pass.toNat) bad poison
            (drops + drop.toNat)
          (s1.count (g.host / 8) (some g.ctx) 0x0C (!drop).toNat).setGroup q (g.setOp { o with kind := k })
        | _, _ => none
      | _ => none

/-- SAMPLE_COMMIT (R250). -/
def execSampleCommit (q : QId) (op : Nat) (s : State) : Host.Outcome State Fault Refusal := event (trySampleCommit q op) s

/-- A GRAS killed and started again: its commits stand, its counts are dropped (R263). -/
def TileKind.replay : TileKind → TileKind
  | .gras vtid img roots _ _ _ _ _ _ _ => .gras vtid img roots (roots.map Root.task) 0 0 0 0 0 0
  | k => k

/-- GRAS_REPLAY (R263). -/
def tryGrasReplay (q : QId) (op : Nat) (s : State) : Option State :=
  match s.group? q with
  | none => none
  | some g =>
    match g.op? op with
    | none => none
    | some o => some (s.setGroup q (g.setOp { o with kind := o.kind.replay }))

/-- GRAS_REPLAY (R263). -/
def execGrasReplay (q : QId) (op : Nat) (s : State) : Host.Outcome State Fault Refusal := event (tryGrasReplay q op) s

end Sys2Proof.Machine
end

