-- ==== Sys2Proof/Machine/Query.lean ====
section
/-!
DEFINITION. The traversal and query unit (R247, R254-R257, R259, R263): rays, the walk of a query node by node, its rounds,
GQRY and GPOP.
-/
namespace Sys2Proof.Machine

open Sys2Proof

/-! ## Exact numbers -/

/-- m × 2^e. -/
def dyadic (m e : Int) : Rat := if e < 0 then mkRat m (2 ^ (-e).toNat) else ((m * 2 ^ e.toNat : Int) : Rat)

/-- The value of a bit pattern; none for a NaN or an infinity. -/
def ratOf (f : Fmt) (v : Nat) : Option Rat :=
  match f.val v with
  | .fin n m e => some (dyadic (if n then -(m : Int) else m) e)
  | _ => none

/-- A dyadic number rounded down to f64 (R247). -/
def downF64 (r : Rat) : Rat :=
  if r = 0 then 0 else
  let f := fmtOf .f64
  (ratOf f (roundBits f ⟨.dn, false, false, 0⟩ (decide (r < 0)) r.num.natAbs (-(Nat.log2 r.den : Int)) false).1).getD 0

/-- A number rounded to f32, nearest-even (R247). -/
def nearF32 (r : Rat) : Word :=
  if r = 0 then 0 else BitVec.ofNat 32 (divFin (fmtOf .f32) rne (decide (r < 0)) r.num.natAbs 0 r.den 0).1

/-! ## Rays (R247) -/

/-- A ray: origin, direction, the axes of R247, the shear, and the greatest parameter, none for infinity. -/
structure Ray where
  o    : Nat → Rat
  d    : Nat → Rat
  kx   : Nat
  ky   : Nat
  kz   : Nat
  sx   : Rat
  sy   : Rat
  tmax : Option Rat

/-- The coordinates of a pair of words, in 48.16 or as an integer. -/
def recAxis (q : List Word) (i : Nat) : Int := sgn 64 ((q.getD (2 * i) 0).toNat + 2 ^ 32 * (q.getD (2 * i + 1) 0).toNat)

/-- The ray of a query record; none where nothing can be hit: a direction with a NaN or infinite component or of zeros, a
NaN as tmax, or a negative one (R247). -/
def rayOf (q : List Word) : Option Ray :=
  let f := fmtOf .f32
  let w (i : Nat) : Nat := (q.getD i 0).toNat
  match ratOf f (w 6), ratOf f (w 7), ratOf f (w 8) with
  | some x, some y, some z =>
    let d (k : Nat) : Rat := if k = 0 then x else if k = 1 then y else z
    let mag (k : Nat) : Rat := (d k).abs
    let kz := if mag 0 ≥ mag 1 ∧ mag 0 ≥ mag 2 then 0 else if mag 1 ≥ mag 2 then 1 else 2
    if d kz = 0 ∨ f.isNan (w 9) then none else
    let a := (kz + 1) % 3
    let b := (kz + 2) % 3
    let (kx, ky) := if d kz < 0 then (b, a) else (a, b)
    let wide (k : Nat) : Nat := (cvtFF f (fmtOf .f64) rne (w (6 + k))).1
    let shear (k : Nat) : Rat := (ratOf (fmtOf .f64) (fDiv (fmtOf .f64) rne false (wide k) (wide kz)).1).getD 0
    let tmax := ratOf f (w 9)
    if (match tmax with | some t => decide (t < 0) | none => f.neg (w 9)) then none else
    some { o := fun k => mkRat (recAxis q k) 65536, d := d, kx := kx, ky := ky, kz := kz, sx := shear kx, sy := shear ky
           tmax := tmax }
  | _, _, _ => none

/-- A vertex in the sheared plane of a ray (R247). -/
def Ray.flat (r : Ray) (v : Pos) : Rat × Rat :=
  let p (k : Nat) : Rat := (v.axis k : Rat) - r.o k
  (downF64 (p r.kx - r.sx * p r.kz), downF64 (p r.ky - r.sy * p r.kz))

/-- The parameter at which a ray hits a triangle (R247). -/
def Ray.hit (r : Ray) (v0 v1 v2 : Pos) : Option Rat :=
  let a := r.flat v0
  let b := r.flat v1
  let c := r.flat v2
  let u (p q : Rat × Rat) : Rat := p.1 * q.2 - p.2 * q.1
  let claims (p q : Rat × Rat) : Bool := decide (q.2 < p.2) || (decide (q.2 = p.2) && decide (p.1 < q.1))
  let counts (p q : Rat × Rat) : Bool := u p q != 0 || claims p q
  let us := [u a b, u b c, u c a]
  let inside := (us.all (fun x => decide (0 ≤ x)) || us.all (fun x => decide (x ≤ 0))) && !us.all (· == 0)
  if !(inside && counts a b && counts b c && counts c a) then none else
  let e := v1.sub v0
  let g := v2.sub v0
  let n (k : Nat) : Rat :=
    let i := (k + 1) % 3
    let j := (k + 2) % 3
    ((e.axis i * g.axis j - e.axis j * g.axis i : Int) : Rat)
  let den := n 0 * r.d 0 + n 1 * r.d 1 + n 2 * r.d 2
  if den = 0 then none else
  let p (k : Nat) : Rat := (v0.axis k : Rat) - r.o k
  let t := (n 0 * p 0 + n 1 * p 1 + n 2 * p 2) / den
  if decide (t < 0) || (match r.tmax with | some x => decide (x < t) | none => false) then none else some t

/-- The bounds that one axis of a box puts on the parameter of a ray; none where the ray misses it. -/
def Ray.slab (r : Ray) (k : Nat) (lo hi : Int) (x : Option (Rat × Option Rat)) : Option (Rat × Option Rat) :=
  match x with
  | none => none
  | some (t0, t1) =>
    if r.d k = 0 then (if (lo : Rat) ≤ r.o k ∧ r.o k ≤ hi then x else none) else
    let a := ((lo : Rat) - r.o k) / r.d k
    let b := ((hi : Rat) - r.o k) / r.d k
    let n0 := max t0 (min a b)
    let n1 := match t1 with | some t => min t (max a b) | none => max a b
    if n1 < n0 then none else some (n0, some n1)

/-- A ray shares a point with a box (R255). -/
def Ray.meets (r : Ray) (o : Pos) (size : Int) : Bool :=
  let start : Option (Rat × Option Rat) := some (0, r.tmax)
  (r.slab 2 o.z (o.z + size) (r.slab 1 o.y (o.y + size) (r.slab 0 o.x (o.x + size) start))).isSome

/-! ## Points (R255) -/

/-- A squared distance, saturated (R255). -/
def satDist (a b : Pos) : Nat :=
  let d := a.sub b
  min (d.x * d.x + d.y * d.y + d.z * d.z).toNat (2 ^ 64 - 1)

/-- The point of a box that is nearest to a centre. -/
def nearestIn (c o : Pos) (size : Int) : Pos :=
  let f (c o : Int) : Int := max o (min c (o + size))
  ⟨f c.x o.x, f c.y o.y, f c.z o.z⟩

/-! ## Queries (R254) -/

/-- The centre of a point query. -/
def recCentre (q : List Word) : Pos := ⟨recAxis q 0, recAxis q 1, recAxis q 2⟩
/-- A 64-bit field of a record. -/
def recPair (q : List Word) (i : Nat) : Nat := (q.getD i 0).toNat + 2 ^ 32 * (q.getD (i + 1) 0).toNat
/-- The geometry tensor, root and instance of a record. -/
def recGtid (q : List Word) : Tid := (q.getD 11 0).extractLsb' 8 10
def recRoot (q : List Word) : Nat := (q.getD 10 0).toNat + 2 ^ 32 * ((q.getD 11 0).toNat % 256)
def recInst (q : List Word) : BitVec 12 := (q.getD 11 0).extractLsb' 18 12

/-- The fields marked zero, and k (R254). -/
def recOk (mode : QMode) (q : List Word) : Bool :=
  let w (i : Nat) : Nat := (q.getD i 0).toNat
  decide (w 11 < 2 ^ 30) &&
  match mode with
  | .near | .any => true
  | .rad => w 9 == 0
  | .knn => w 9 == 0 && decide (1 ≤ w 6) && decide (w 6 ≤ 16)
  | .key => w 6 == 0 && w 7 == 0 && w 8 == 0 && w 9 == 0

/-- The first task of a walk. -/
def rootTask (q : List Word) : QTask := { node := recRoot q, x := 0, y := 0, z := 0, lev := none, quiet := false }

/-- A query as it starts. -/
def newQuery (slot : Nat) (mode : QMode) (q : List Word) (img : BitVec 256) : QSlot :=
  { slot := slot, active := true, ready := false, mode := mode, qrec := q, image := img, status := 0, results := []
    delivered := 0, owed := true, walk := [rootTask q], found := [] }

/-- A query slot of a group. -/
def Group.qslot (g : Group) (n : Nat) : Option QSlot := g.queries.find? fun x => x.slot == n
/-- A query put into its slot, any query there being abandoned: the tiles counter no longer counts that one (R254). -/
def Group.startQuery (g : Group) (x : QSlot) : Group :=
  let owed := match g.qslot x.slot with | some y => y.owed.toNat | none => 0
  { g with queries := upsert (fun y => y.slot == x.slot) x g.queries, tiles := g.tiles - owed + 1 }

/-- GQRY: the checks, then every query starts (R254, R349). -/
def Issue.gqry (m : Issue) (mode : QMode) (tid : Tid) (recs : List (Nat × List Word)) (fin : Issue → Issue) : State :=
  if m.g.tidBusy tid.toNat || recs.any (fun r => m.g.tidBusy (recGtid r.2).toNat) then m.stall
  else if (m.ctx.geom tid.toNat).isNone || recs.any (fun r => (m.ctx.geom (recGtid r.2).toNat).isNone || !recOk mode r.2) then
    m.raise .prot 7 0
  else if m.g.tiles + recs.length > 65535 then m.stall
  else
    let g := recs.foldl (fun g r => g.startQuery (newQuery r.1 mode r.2 (m.ctx.tensor (recGtid r.2).toNat))) m.g
    (fin { m with g := g }).done

/-- GQRY in lanes (R254). -/
def execGqryV (h : Hd) (mode : QMode) (d a : Opnd) (tid : Tid) (s : State) : Host.Outcome State Fault Refusal :=
  issue (.gqryV h mode d a tid) h s fun m =>
    let n := m.reg a
    m.gqry mode tid (m.active.map fun l => (l, (List.range 12).map fun i => lane (m.vget (n + i)) l)) fun m =>
      m.vput (m.reg d) m.active fun l => BitVec.ofNat 32 l
/-- GQRY in scalars (R254). -/
def execGqryS (h : Hd) (mode : QMode) (d a : Opnd) (tid : Tid) (s : State) : Host.Outcome State Fault Refusal :=
  issue (.gqryS h mode d a tid) h s fun m =>
    let n := m.reg a
    if n < 3 then m.raise .illegal 0 0 else
    m.gqry mode tid [(96, (List.range 12).map fun i => m.sget (n + i))] fun m => m.sput (m.reg d) 96

/-! ## The walk (R255, R256) -/

/-- What a visit of a node gives: the status that ends the query, or tasks and hits. -/
inductive QVisit where
  | fail (status : Byte)
  | go (tasks : List QTask) (hits : List QHit)

/-- Hits of a ray in a node, by triangle (R255). -/
def Node.rayHits (n : Node) (r : Ray) (o : Pos) (i : Nat) (inst : BitVec 12) : List QHit :=
  (numbered 0 n.tris).filterMap fun t =>
    (r.hit (n.pos o t.2.1) (n.pos o t.2.2.1) (n.pos o t.2.2.2)).map fun x =>
      { ident := primitive i t.1 inst, key := (nearF32 x).setWidth 64, ord := x }

/-- The vertices of a node without triangles, with their distances (R255). -/
def Node.points (n : Node) (c o : Pos) (i : Nat) (inst : BitVec 12) : List QHit :=
  if !n.tris.isEmpty then [] else
  (List.range n.verts.length).map fun v =>
    let d := satDist (n.pos o v) c
    { ident := primitive i v inst, key := BitVec.ofNat 64 d, ord := (d : Rat) }

/-- A visit of a box node (R255). -/
def boxVisit (x : QSlot) (t : QTask) (n : Node) : QVisit :=
  let fits := match t.lev with
    | none => n.kind == 1
    | some l => n.kind == 0 && n.level == l
  if !n.ok || n.dim || !fits then .fail 3 else
  let o := if n.kind = 1 then n.origin else ⟨t.x, t.y, t.z⟩
  let size : Int := 2 ^ n.level
  let ray := rayOf x.qrec
  let isRay := x.mode == .near || x.mode == .any
  let touches : Bool := match x.mode with
    | .rad => decide (satDist (nearestIn (recCentre x.qrec) o size) (recCentre x.qrec) ≤ recPair x.qrec 6)
    | .knn | .key => true
    | _ => match ray with | some r => r.meets o size | none => false
  let skip := t.lev.isSome && !n.ext && !touches
  if skip && !isRay then .go [] [] else
  let quiet := t.quiet || skip
  let kids := (List.range n.childs.length).map fun j =>
    let c := n.childAt o j
    QTask.mk (n.first + j) c.1.x c.1.y c.1.z (some c.2) quiet
  let inst := recInst x.qrec
  let hits := if isRay then (match ray with | some r => n.rayHits r o t.node inst | none => [])
    else (n.points (recCentre x.qrec) o t.node inst).filter fun h => x.mode != .rad || decide (h.key.toNat ≤ recPair x.qrec 6)
  .go kids hits

/-- A field of a user node; none where it reaches past byte 127 (R256). -/
def userField (v off size : Nat) : Option Nat :=
  if off + size > 128 then none else some ((v >>> (8 * off)) % 2 ^ (8 * size))

/-- Fields of a user node in a row. -/
def userFields (v off size n : Nat) : Option (List Nat) :=
  ((List.range n).map fun i => userField v (off + i * size) size).foldr (fun x l => match x, l with
    | some a, some b => some (a :: b)
    | _, _ => none) (some [])

/-- A visit of a user node, with its descriptor (R256). -/
def userVisit (x : QSlot) (v desc : Nat) : QVisit :=
  let code := bitsOf desc 1 0
  let size := if code % 2 = 0 then 4 else 8
  let signed := decide (2 ≤ code)
  let key (k : Nat) : Int := if signed then sgn (8 * size) k else k
  let bound (i : Nat) : Int := if signed then sgn 64 (recPair x.qrec i) else recPair x.qrec i
  let lo := bound 0
  let hi := bound 2
  if bitsOf v 1 0 ≠ 2 ∨ bitOf desc 7 = false then .fail 3 else
  match userField v (bitsOf desc 23 16) 1 with
  | none => .fail 3
  | some n =>
    if bitsOf desc 15 8 < n then .fail 3 else
    let leaf := bitOf v 6
    match userFields v (bitsOf desc 31 24) size n,
        userFields v (if leaf then bitsOf desc 47 40 else bitsOf desc 39 32) 4 (if leaf then n else n + 1) with
    | some ks, some xs =>
      let keys := ks.map key
      if !(List.range (n - 1)).all fun i => decide (keys.getD i 0 < keys.getD (i + 1) 0) then .fail 3
      else if leaf then
        .go [] (((keys.zip xs).filter fun y => decide (lo ≤ y.1) && decide (y.1 ≤ hi)).map fun y =>
          { ident := BitVec.ofNat 64 y.2, key := BitVec.ofNat 64 (lowBits 64 y.1), ord := (y.1 : Rat) })
      else
        .go (((numbered 0 xs).filter fun y =>
          decide (lo ≤ hi) && (y.1 == 0 || decide (keys.getD (y.1 - 1) 0 ≤ hi)) && (y.1 == n || decide (lo < keys.getD y.1 0))).map
            fun y => QTask.mk y.2 0 0 0 (some 0) false) []
    | _, _ => .fail 3

/-- A visit of a node by a query (R255, R256, R261). -/
def State.queryVisit (s : State) (w : Who) (ctx : Nat) (x : QSlot) (t : QTask) : State × QVisit :=
  match s.fetchNode w (s.entryNow ctx (recGtid x.qrec) x.image) t.node false with
  | .poison s1 => (s1, .fail 2)
  | .bad s1 => (s1, .fail 3)
  | .node s1 n _ =>
    if (s.entryNow ctx (recGtid x.qrec) x.image).nodes ≤ t.node then (s1, .fail 3)
    else if x.mode = .key then
      (s1, userVisit x n.raw (s1.homeNat ((s1.ctx ctx).qkey (0x100 + 16 * bitsOf n.raw 5 2)) 16))
    else (s1, boxVisit x t n)

/-- A hit put in order of its value, then of its identifier (R255). -/
def insertHit (h : QHit) : List QHit → List QHit
  | [] => [h]
  | y :: r => if h.ord < y.ord ∨ (h.ord = y.ord ∧ h.ident < y.ident) then h :: y :: r else y :: insertHit h r

/-- Hits of a visit joined with those found so far (R255). -/
def QSlot.join (x : QSlot) (hits : List QHit) : List QHit :=
  match x.mode with
  | .rad => x.found ++ hits
  | .any => (x.found ++ hits).take 1
  | .near => (hits.foldl (fun l h => insertHit h l) x.found).take 1
  | .knn => (hits.foldl (fun l h => insertHit h l) x.found).take (x.qrec.getD 6 0).toNat
  | .key => hits.foldl (fun l h => insertHit h l) x.found

/-- A round ends (R255, R257): up to three results past those delivered, MORE while results are left, else the status that
ends the query. -/
def QSlot.round (x : QSlot) (status : Byte) : QSlot :=
  let found := if status != 0 && (x.mode == .near || x.mode == .knn) then [] else x.found
  let left := found.drop x.delivered
  { x with ready := true, owed := false, walk := [], found := []
           status := if left.length > 3 then 1 else status
           results := (left.take 3).map fun h => ⟨h.ident, h.key⟩ }

/-- The walk of a round is over: nothing is left to visit, or what is found suffices (R255). -/
def QSlot.over (x : QSlot) : Bool :=
  x.walk.isEmpty || (x.mode == .any && !x.found.isEmpty) || (x.mode == .rad && decide (x.delivered + 3 < x.found.length))

/-- A query's slot replaced; where its round has become ready, the statistics and the tiles counter (R254, R262). -/
def State.putQuery (s : State) (q : QId) (x : QSlot) : State :=
  match s.group? q with
  | none => s
  | some g =>
    let s1 := s.setGroup q { g with queries := replaceFirst (fun y => y.slot == x.slot) x g.queries }
    if !x.ready then s1 else
    (if x.status = 1 then s1 else s1.stat g.ctx 6 1).countDown q .tiles

/-- QUERY_ROUND_READY: the traversal unit takes the next step of the round in progress: a visit of a node; with the last
the round is ready (R254, R255). -/
def tryQueryRoundReady (q : QId) (slot : Nat) (s : State) : Option State :=
  match s.group? q with
  | none => none
  | some g =>
    match g.qslot slot with
    | none => none
    | some x =>
      if !x.active || x.ready then none
      else if x.over then some (s.putQuery q (x.round 0))
      else
        match x.walk with
        | [] => none
        | t :: r =>
          match (s.count (g.host / 8) (some g.ctx) 0x0D 1).queryVisit (s.who g) g.ctx x t with
          | (s1, .fail st) => some (s1.putQuery q (if t.quiet then { x with walk := r } else x.round st))
          | (s1, .go tasks hits) =>
            let y : QSlot := { x with walk := tasks ++ r, found := x.join hits }
            some (s1.putQuery q (if y.over then y.round 0 else y))

/-- QUERY_ROUND_READY (R255). -/
def execQueryRoundReady (q : QId) (slot : Nat) (s : State) : Host.Outcome State Fault Refusal :=
  event (tryQueryRoundReady q slot) s

/-! ## GPOP (R257) -/

/-- The thirteen words of a pop (R257). -/
def popWords (x : Option QSlot) : List Word :=
  match x with
  | none => List.replicate 13 0
  | some x =>
    BitVec.ofNat 32 (x.status.toNat + 256 * x.results.length) ::
      ((List.range 3).map fun i =>
        match x.results[i]? with
        | some r => [r.ident.setWidth 32, r.ident.extractLsb' 32 32, r.key.setWidth 32, r.key.extractLsb' 32 32]
        | none => [0, 0, 0, 0]).flatten

/-- A slot popped: after MORE its next round starts, else it holds no query (R257). -/
def Group.popped (g : Group) (x : QSlot) : Group :=
  if x.status = 1 then
    { g with tiles := g.tiles + 1
             queries := replaceFirst (fun y => y.slot == x.slot)
               { x with ready := false, owed := true, delivered := x.delivered + x.results.length, results := []
                        walk := [rootTask x.qrec], found := [] } g.queries }
  else { g with queries := g.queries.filter fun y => !(y.slot == x.slot) }

/-- GPOP on slots: PROT, a stall until every round is ready, then the words of each and its next round (R257, R349). -/
def Issue.gpop (m : Issue) (slots : List Nat) (put : Issue → (Nat → List Word) → Issue) : State :=
  if slots.any fun n => n > 96 then m.raise .prot 0 0
  else if slots.any (fun n => match m.g.qslot n with | some x => x.active && !x.ready | none => false) ||
      m.g.tiles + slots.length > 65535 then m.stall
  else
    let words (n : Nat) : List Word := popWords (m.g.qslot n)
    let popped := m.g.queries.filter fun x => slots.contains x.slot
    let n := put m words
    ({ n with g := popped.foldl (fun g x => g.popped x) n.g }).done

/-- GPOP in lanes (R257). -/
def execGpopV (h : Hd) (d a : Opnd) (s : State) : Host.Outcome State Fault Refusal :=
  issue (.gpopV h d a) h s fun m =>
    let slot (l : Nat) : Nat := (lane (m.vget (m.reg a)) l).toNat
    if m.active.isEmpty then m.done else
    m.gpop (m.active.map slot) fun n words =>
      (List.range 13).foldl (fun (x : Issue) r => x.vput (m.reg d + r) m.active fun l => (words (slot l)).getD r 0) n
/-- GPOP in scalars (R257). -/
def execGpopS (h : Hd) (d a : Opnd) (s : State) : Host.Outcome State Fault Refusal :=
  issue (.gpopS h d a) h s fun m =>
    let slot := (m.sget (m.reg a)).toNat
    if m.reg d < 3 then m.raise .illegal 0 0 else
    m.gpop [slot] fun n words => (List.range 13).foldl (fun (x : Issue) r => x.sput (m.reg d + r) ((words slot).getD r 0)) n

end Sys2Proof.Machine
end

