-- ==== Sys2Proof/Machine/Tiles.lean ====
section
/-!
DEFINITION. The steps of engines for tile operations (R205, R212, R250, R251, R253, R258): ENGINE_LINE for every kind of
engine work, and TILE_OP_COMPLETE.
-/
namespace Sys2Proof.Machine

open Sys2Proof

/-- No earlier GBLD of the group on the same record has yet to take its step (R253). -/
def Group.buildTurn (g : Group) (id off : Nat) : Bool :=
  (g.ops.takeWhile fun o => !(o.id == id)).all fun o =>
    match o.kind with | .gbld _ _ _ _ x _ _ taken => x != off || taken | _ => true

/-- ENGINE_LINE of GREP, GBLD and GPATCH: the lane of a GREP with the number of the line; the record step of a GBLD; the
next lane of a GPATCH, or one of the EXT steps that its last lane left (R251, R258, R350). -/
def tryGeomLine (q : QId) (op line : Nat) (s : State) : Option State :=
  match s.group? q with
  | none => none
  | some g =>
    match g.op? op with
    | none => none
    | some o =>
      let words (a : List VReg) (l : Nat) : List Word := a.map fun v => lane v l
      match o.kind with
      | .grep img dest todo a rejects =>
        if !todo.contains line then none else
        let (s1, code) := s.grepLane (s.who g) (tensorOf img) (words a line)
        let k : TileKind := .grep img dest (todo.filter fun l => l != line) a (rejects + if code = 0 then 0 else 1)
        some (s1.setGroup q ((g.putLane dest line (BitVec.ofNat 32 code)).setOp { o with kind := k }))
      | .gbld tri commit tid img off ls a false =>
        if !g.buildTurn op off then none else
        (s.buildStep (s.who g) g.ctx tri commit tid img off ls a).map fun s1 =>
          s1.setGroup q (g.setOp { o with kind := .gbld tri commit tid img off ls a true })
      | .gpatch tid img dest todo exts a =>
        match exts, todo with
        | _ :: _, _ =>
          match exts[line]? with
          | some key =>
            if s.inFlightAt key 1 then none else
            some ((s.setExt g.host key).setGroup q
              (g.setOp { o with kind := .gpatch tid img dest todo (exts.eraseIdx line) a }))
          | none => none
        | [], l :: r =>
          (s.patchLane (s.who g) (s.entryNow g.ctx tid img) g.host (words a l)).map fun (s1, st, up) =>
            s1.setGroup q ((g.putLane dest l (BitVec.ofNat 32 st)).setOp { o with kind := .gpatch tid img dest r up a })
        | [], [] => none
      | _ => none

/-- ENGINE_LINE: one line step of engine work (R197). -/
def tryEngineLine (w : EngWork) (line : Nat) (s : State) : Option State :=
  match w with
  | .copy cmd => tryCopyLine cmd line s
  | .wbuf core entry => tryWeightLine core entry line s
  | .tile q op => (((tryMrdLine q op line s).or (tryGrasLine q op line s)).or (tryGeomLine q op line s))

/-- ENGINE_LINE (R197, R205). -/
def execEngineLine (w : EngWork) (line : Nat) (s : State) : Host.Outcome State Fault Refusal := event (tryEngineLine w line) s

/-- The statistics that an operation adds as it completes; none while a geometry operation has work left (R262). -/
def TileKind.counts : TileKind → Option (List (Nat × Nat))
  | .gras _ _ _ [] prims samples passed bad poison drops =>
    some [(0, prims), (1, samples), (2, passed), (3, bad), (4, poison), (7, drops)]
  | .grep _ _ [] _ rejects => some [(5, rejects)]
  | .gbld _ _ _ _ _ _ _ true => some []
  | .gpatch _ _ _ [] [] _ => some []
  | _ => none

/-- Blocks of 32 of a product (R220, R313). -/
def TileKind.blocks : TileKind → Nat
  | .mma _ _ aty _ _ _ => tileK aty / 32
  | _ => 0

/-- TILE_OP_COMPLETE: the operation's effect and flags, its statistics, and the tiles counter (R149, R212, R262). -/
def tryTileOpComplete (q : QId) (op : Nat) (s : State) : Option State :=
  if s.stilled q then none else
  match s.group? q with
  | none => none
  | some g =>
    match g.op? op with
    | none => none
    | some o =>
      match o.kind with
      | .publish tid (some old) => if s.inFlight g.ctx tid old then none else some (s.opDone q op)
      | .tdef tid _ true => if s.tidUsed g.ctx tid then none else some (s.opDone q op)
      | k =>
        match k.counts with
        | some l => some ((s.stats g.ctx l).opDone q op)
        | none => (g.tileDone o).map fun g1 => ((s.count (g.host / 8) (some g.ctx) 0x0B o.kind.blocks).setGroup q g1).opDone q op

/-- TILE_OP_COMPLETE (R212). -/
def execTileOpComplete (q : QId) (op : Nat) (s : State) : Host.Outcome State Fault Refusal := event (tryTileOpComplete q op) s

end Sys2Proof.Machine
end

