-- ==== Sys2Proof/Machine/Sillage.lean ====
section
/-!
DEFINITION. Steps that groups take between their runs: trap entry and forwarded faults (R210, R272, R273, R277, R304),
Sillage's early transfers (R112, R116, R118, R124), and the ends of waits for cycles and promises (R336, R375, R396).
-/
namespace Sys2Proof.Machine

open Sys2Proof

/-- A group may take steps of its own: its gang is RESIDENT, or it is a front (R31). -/
def State.onCore (s : State) : QId → Bool
  | .group g _ => (s.gang? g).any fun x => x.state == .resident
  | .front _ => true

/-! ## Traps -/

/-- A trap that waits for its group's operations is settled, when it goes to the host as `host` says (R210). -/
def State.settleAs (s : State) (a : Agent) (host : Bool) : Option State :=
  match s.group? (qidOf a) with
  | none => none
  | some g =>
    match g.split? (splitNoOf a) with
    | none => none
    | some k => if k.trap.isNone || !g.entryDue k || g.forwards k != host then none else some (s.settleTrap a)

/-- TRAP_ENTRY: a trapped split enters its handler once its group's queues are empty and its counters zero (R210,
R272). -/
def execTrapEntry (a : Agent) (s : State) : Host.Outcome State Fault Refusal := event (fun s => s.settleAs a false) s

/-- FAULT_FORWARD: a trap that goes to the host, or the fault that an engine meets at the next line of a command or weight
load: a record is made and what met the fault sleeps (R188, R216, R273). -/
def tryFaultForward (src : FaultSrc) (s : State) : Option State :=
  match src with
  | .agent a => s.settleAs a true
  | .copy id =>
    match s.cmd? id with
    | none => none
    | some c =>
      match s.nextLine c with
      | none => none
      | some n => (tryCopyLine id n s).filter fun t => (t.cmd? id).any fun x => x.paused
  | .wbuf core e =>
    match (s.core core).wbuf.find? fun w => w.no == e with
    | none => none
    | some w => (tryWeightLine core e w.cursor s).filter fun t => (t.core core).wbuf.any fun x => x.no == e && x.paused

/-- FAULT_FORWARD (R273). -/
def execFaultForward (src : FaultSrc) (s : State) : Host.Outcome State Fault Refusal := event (tryFaultForward src) s

/-- FAULT_RECORD_APPEND: the oldest record that waits is written at TAIL of the fault ring, which has room (R277, R304). -/
def tryFaultRecordAppend (ctx : Nat) (s : State) : Option State :=
  match s.ctx? ctx with
  | none => none
  | some c =>
    match c.heldFaults, s.ring? c 0x20 64 with
    | fr :: rest, some r =>
      if r.count ≥ r.cap then none else
      some (((s.setCtx { c with heldFaults := rest }).storeHome none (c.qkey (r.entry 64 r.tail)) (leBytes 64 fr.toNat) 0).ringPush r)
    | _, _ => none

/-- FAULT_RECORD_APPEND (R304). -/
def execFaultRecordAppend (ctx : Nat) (s : State) : Host.Outcome State Fault Refusal := event (tryFaultRecordAppend ctx) s

/-! ## Early transfers (R116) -/

/-- SILLAGE_SPILL: a spillable slot, or the lowest stack entry of more than 16 held, is spilled early; a transfer that meets
a fault is abandoned (R112, R116, R124). -/
def trySillageSpill (q : QId) (what : SpillWhat) (s : State) : Option State :=
  match s.group? q with
  | none => none
  | some g =>
    if g.isFront || !s.onCore q then none else
    let keep (x : State × Except Sill Group) : Option State :=
      match x with
      | (s1, .ok g1) => some (s1.setGroup q g1)
      | (_, .error _) => none
    match what with
    | .slot n =>
      if n < 8 || (g.at' n).abs != some n || (g.at' n).clean || !g.spillable n || g.vecPending n || g.scalPending (.slot n) then none
      else keep (s.spillSlot g n)
    | .entry i => if i != g.spilled || g.held ≤ 16 then none else keep (s.spillEntry g)

/-- SILLAGE_SPILL (R116). -/
def execSillageSpill (q : QId) (what : SpillWhat) (s : State) : Host.Outcome State Fault Refusal := event (trySillageSpill q what) s

/-- The ring position of a slot that lies in the spill area may take it: it holds nothing, or a dead slot or a clean copy that
no live split needs and no load or operation has yet to write. -/
def Group.positionFree (g : Group) (n : Nat) : Bool :=
  let r := g.at' n
  match r.abs with
  | none => true
  | some a => (g.dead (g.bases ++ g.parkedBases) a || (r.clean && g.spillable a)) && !g.vecPending a && !g.scalPending (.slot a)

/-- The clean copy that gives way to a refilled slot lies in the spill area only; a dead slot is discarded (R109). -/
def Group.yield (g : Group) (n : Nat) : Group :=
  match (g.at' n).abs with
  | some a =>
    if (g.at' n).clean && a != n && !g.dead (g.bases ++ g.parkedBases) a then { g with out := a :: g.out } else g
  | none => g

/-- The queue position of a refill of a slot: that of the release that created a split whose window holds the slot, or the end of
the queues (R118). -/
def Group.refillPos (g : Group) (n : Nat) : Nat :=
  ((g.splits.find? fun k => g.inWindow k.base n).map (·.pos)).getD g.nextPos

/-- SILLAGE_REFILL: a slot of the spill area comes back early where its ring position is free, or the topmost spilled stack
entry where the core holds fewer than 16; a transfer that meets a fault is abandoned (R116, R118, R124). -/
def trySillageRefill (q : QId) (what : SpillWhat) (s : State) : Option State :=
  match s.group? q with
  | none => none
  | some g =>
    if g.isFront || !s.onCore q then none else
    match what with
    | .slot n =>
      if !g.out.contains n || !g.positionFree n then none else
      match s.fillWindow (g.refillPos n) (g.bases ++ g.parkedBases) (g.yield n) [n] with
      | (s1, g1, .ok) => some (s1.setGroup q g1)
      | _ => none
    | .entry i =>
      if g.spilled = 0 || i + 1 != g.spilled || decide (16 ≤ g.held) then none else
      match s.refillEntry g with
      | (s1, g1, .ok) => some (s1.setGroup q g1)
      | _ => none

/-- SILLAGE_REFILL (R118). -/
def execSillageRefill (q : QId) (what : SpillWhat) (s : State) : Host.Outcome State Fault Refusal := event (trySillageRefill q what) s

/-! ## Waits for cycles, and promises that have passed -/

/-- A waiting agent of a resident gang, or a front. -/
def State.waiter (s : State) (a : Agent) : Option Issue :=
  if !s.onCore (qidOf a) then none else (s.issueOf a ⟨false, .l0, 0⟩).filter fun m => m.k.waiting

/-- A wait ends and the agent goes on after its one-word instruction. -/
def Issue.waitOver (m : Issue) : State := ({ m with k := m.k.resume 1 (m.s.now m.g) }).commit

/-- SLEEP_EXPIRE (R375). -/
def trySleepExpire (a : Agent) (s : State) : Option State :=
  match s.waiter a with
  | none => none
  | some m =>
    match m.k.wait with
    | .sleep till => if till ≤ s.cycle m.g.host then some m.waitOver else none
    | _ => none

/-- SLEEP_EXPIRE (R375). -/
def execSleepExpire (a : Agent) (s : State) : Host.Outcome State Fault Refusal := event (trySleepExpire a) s

/-- WAKEAT_EXPIRE: the target has been reached; PROMISE where a command promised up to it is incomplete, which no gang raises
while it is being evicted (R289, R396). -/
def tryWakeatExpire (a : Agent) (s : State) : Option State :=
  match s.waiter a with
  | none => none
  | some m =>
    match m.k.wait with
    | .wakeat till =>
      let late := s.lateFor (qidOf a) m.g.host m.k.wait
      if s.cycle m.g.host < till then none
      else if late.isEmpty then some m.waitOver
      else if m.k.state = .blocked && !s.evicting (qidOf a) then some (m.raiseLate late) else none
    | _ => none

/-- WAKEAT_EXPIRE (R396). -/
def execWakeatExpire (a : Agent) (s : State) : Host.Outcome State Fault Refusal := event (tryWakeatExpire a) s

/-- PROMISE_EXPIRE: a waiting WAIT, BBW or WAKEAT depends on a command that is incomplete at its promised cycle; no gang raises
it while it is being evicted (R192, R289, R326, R336). -/
def tryPromiseExpire (a : Agent) (s : State) : Option State :=
  match s.waiter a with
  | none => none
  | some m =>
    let late := s.lateFor (qidOf a) m.g.host m.k.wait
    if late.isEmpty || m.k.state != .blocked || s.evicting (qidOf a) then none else some (m.raiseLate late)

/-- PROMISE_EXPIRE (R336). -/
def execPromiseExpire (a : Agent) (s : State) : Host.Outcome State Fault Refusal := event (tryPromiseExpire a) s

end Sys2Proof.Machine
end

