-- ==== Sys2Proof/Machine/Evict.lean ====
section
/-!
DEFINITION. Partial eviction and placement after it: the choice of victims (R38, R278, R279, R310), quiescence of copies (R284,
R285), the save area (R280-R282), the eviction ring (R306), restoration (R286, R287, R290, R291), and the core state of a
context that moves off a core (R233, R234, R288).
-/
namespace Sys2Proof.Machine

open Sys2Proof

/-! ## The save pool (R279) -/

/-- An area of n bytes that the pool of a context can supply: its offset (R279). -/
def Context.areaFor (c : Context) (n : Nat) : Option Nat := place 128 n (c.saveSz * 4096) c.areas
/-- Bytes that the device writes into the pool, with the poison marks of their lines. The host reads them as they stand
(R279). -/
def State.poolPut (s : State) (key : Nat) (bytes : List Byte) (poison : List Nat) : State :=
  let s1 := (s.rawPut key bytes).clearPoison (linesOf key bytes.length)
  { s1 with poisoned := poison ++ s1.poisoned }

/-! ## Layouts (R280-R282, R285) -/

/-- A split's state in a split record (R282). -/
def splitCode : SplitState → Nat
  | .ready | .issuing => 1
  | .blocked => 2
  | .sleeping | .trapped => 3
  | .held => 4

/-- A loop level in a split record (R282). -/
def levelBits (l : Option Level) : List (Nat × Nat) :=
  match l with
  | some l => [(56, l.start.toNat), (56, l.last.toNat), (2, l.ctr.toNat), (13, 0), (1, 1)]
  | none => [(128, 0)]

/-- A split record of 128 bytes (R282). -/
def Split.image (k : Split) : List Byte :=
  let lv (i : Nat) := levelBits (k.levels.reverse[i]?)
  leBytes 128 (packBits ([(56, k.pc.toNat), (8, 0), (96, k.mask.toNat), (32, k.base), (32, (k.lcGet 0).toNat), (32, (k.lcGet 1).toNat),
    (32, (k.lcGet 2).toNat), (3, splitCode k.state), (3, if k.state = .held then splitCode k.prior else 0), (26, 0)] ++ lv 0 ++
    lv 1 ++ lv 2 ++ [(32, k.trapCause.toNat), (64, k.trapPc.toNat), (64, k.trapAddr.toNat), (96, k.entryMask.toNat),
    (32, k.entryBase), (1, if k.inHandler then 1 else 0), (1, if k.demoted then 1 else 0), (2, k.no)]))

/-- A query slot record of 128 bytes (R282). -/
def QSlot.saveImage (x : QSlot) : List Byte :=
  leBytes 128 (packBits ((x.qrec.map fun w => (32, w.toNat)) ++ [(3, (qmodeCode x.mode).toNat), (1, if x.active then 1 else 0),
    (1, if x.ready then 1 else 0), (3, 0), (8, x.status.toNat), (8, if x.ready then x.results.length else 0), (8, 0),
    (32, x.delivered)] ++ (x.results.map fun r => [(64, r.ident.toNat), (64, r.key.toNat)]).flatten))

/-- A slot image of the save area: with the slot's number and whether the position held it (R282). -/
def saveSlot (v : VReg) (w : Word) (abs : Option Nat) : List Byte :=
  (slotImage v w).take 507 ++ (match abs with
    | some n => (0x80 : Byte) :: leBytes 4 n
    | none => List.replicate 5 0)

/-- Exactly n bytes: cut, or filled with zeros. -/
def padTo (n : Nat) (l : List Byte) : List Byte := l.take n ++ List.replicate (n - l.length) 0

/-- The group header of 128 bytes (R282). -/
def Group.headImage (g : Group) : List Byte :=
  leBytes 128 (packBits [(32, (word g.x 0).toNat), (32, (word g.x 1).toNat), (32, (word g.x 2).toNat), (32, (word g.x 3).toNat),
    (16, g.loads), (16, g.stores), (16, g.copies), (16, g.tiles), (32, g.fpmode.toNat), (32, g.fpflags.toNat),
    (16, g.stack.length), (4, (g.splits.map fun k => 2 ^ k.no).sum), (4, 0), (64, g.tbase.toNat)])

/-- The 16 topmost stack entries, bottom first (R114, R282). -/
def Group.heldEntries (g : Group) : List StackEntry := g.stack.reverse.drop (max g.spilled (g.stack.length - 16))

/-- A group block (R282). -/
def Group.image (g : Group) : List Byte :=
  g.headImage ++
  ((List.range 4).map fun n => match g.split? n with | some k => k.image | none => List.replicate 128 0).flatten ++
  padTo 1024 (g.heldEntries.map stackImage).flatten ++
  ((List.range 97).map fun n => match g.qslot n with | some x => x.saveImage | none => List.replicate 128 0).flatten ++
  ((List.range 8).map fun i => saveSlot (g.vec i) (g.scal i) (some i)).flatten ++
  (g.ring.map fun r => saveSlot r.vec r.scal r.abs).flatten ++
  (g.acc.map fun t => (t.map fun row => (row.map fun x => leBytes 4 x.1.toNat ++ leBytes 4 x.2.toNat).flatten).flatten).flatten

/-- Bits [hi:lo] of a number replaced. -/
def putBits (v hi lo x : Nat) : Nat := v - bitsOf v hi lo * 2 ^ lo + x % 2 ^ (hi + 1 - lo) * 2 ^ lo

/-- A copy place: the request as it stands, with the fields of R285. -/
def CopyCmd.image (c : CopyCmd) : List Byte :=
  let r := c.req
  let v0 := putBits (putBits r.raw.toNat 450 448 (cmodeCode r.mode).toNat) 55 0 r.src.toNat
  let v1 := putBits (putBits v0 119 64 r.dst.toNat) 159 128 r.rows
  let v2 := putBits (putBits v1 191 160 r.len) 311 256 r.idx.toNat
  let (front, grp) := match c.issuer with | .front _ => (1, 0) | .group _ i => (0, i)
  leBytes 64 (putBits (putBits (putBits (putBits (putBits v2 503 472 c.headSkip) 508 505 grp) 509 509 front) 510 510
    (if c.fromCpy then 1 else 0)) 511 511 1)

/-- SPAN as the job descriptor has it. -/
def spanCode (n : Nat) : Nat := if n = 24 then 0 else if n = 40 then 1 else 2

/-- The gang header of 256 bytes (R281). -/
def Gang.headImage (x : Gang) (j : Job) : List Byte :=
  leBytes 256 (packBits [(19, j.cidx), (29, 0), (16, x.worker), (8, 0), (2, j.prio), (4, j.gangN), (11, j.spUnits), (3, j.acct),
    (2, spanCode j.span), (10, j.allot), (12, x.cmds.length), (3, 0), (9, x.lcore),
    (16, (x.groups.map fun g => if g.retired then 2 ^ g.idx else 0).sum)])

/-- The save area but for the scratchpad image (R280). -/
def Gang.image (x : Gang) (j : Job) : List Byte :=
  x.headImage j ++ padTo 16384 (x.cmds.map CopyCmd.image).flatten ++
    (x.groups.map fun g => padTo (blockSize j.allot j.acct) g.image).flatten

/-- The records of an EVICTED gang written again, after the host has changed one (R289). -/
def State.resave (s : State) (gang : Nat) : State :=
  match s.gang? gang with
  | none => s
  | some x =>
    match s.job? x.job with
    | none => s
    | some j => if x.state = .evicted then s.poolPut ((s.ctx j.ctx).poolKey x.saveOff) (x.image j) [] else s

/-! ## The choice of a victim (R38, R279, R306, R310) -/

/-- PRIO of a gang's job. -/
def State.prioOf (s : State) (x : Gang) : Nat := ((s.job? x.job).map (·.prio)).getD 0

/-- A gang may be chosen on account of a pending gang: RESIDENT and not itself being evicted or restored, of strictly lower priority, its context's pool can supply
its save area, and its eviction ring has room (R38, R279, R306). -/
def State.mayEvict (s : State) (p x : Gang) : Bool :=
  x.state == .resident && x.stage == 0 && decide (s.prioOf p < s.prioOf x) &&
  match s.job? x.job with
  | none => false
  | some j =>
    let c := s.ctx j.ctx
    (c.areaFor j.areaSize).isSome && (match s.ring? c 0x40 16 with | some r => decide (r.count < r.cap) | none => false)

/-- Lowest priority first, then youngest placement first (R38). -/
def State.victimBefore (s : State) (a b : Gang) : Bool :=
  decide (s.prioOf b < s.prioOf a) || (s.prioOf a == s.prioOf b && decide (b.age < a.age))

/-- The first victim among those that may be chosen. -/
def State.firstVictim (s : State) : List Gang → Option Gang
  | [] => none
  | x :: r => some (r.foldl (fun b y => if s.victimBefore y b then y else b) x)

/-- The cores on which a pending gang may evict: its own, or every core of a cluster whose mode it needs changed (R310). -/
def State.evictCores (s : State) (p : Gang) (j : Job) : List Nat :=
  let cl := p.lcore / 8
  if (s.cluster cl).fixed = (s.ctx j.ctx).fixed then [p.lcore] else (List.range 8).map fun i => 8 * cl + i

/-- What a pending gang needs is there once a list of gangs has gone: room on its core, the front where its job has one, and where its cluster must change its
mode no gang and no front on it (R37, R310). -/
def State.enoughWithout (s : State) (p : Gang) (j : Job) (gone : List Nat) : Bool :=
  let away (g : Gang) : Gang := if gone.contains g.uid then { g with state := .evicted } else g
  let s1 : State := { s with gangs := s.gangs.map away }
  let cl := p.lcore / 8
  let modes := (s.cluster cl).fixed == (s.ctx j.ctx).fixed ||
    ((List.range 8).all fun i => (s1.holding (8 * cl + i)).isEmpty && (s.core (8 * cl + i)).front.isNone)
  modes && s1.frontFree j p.lcore && (s1.room p.lcore j).isSome

/-- The gang that the device evicts next on account of a pending gang: one at a time, only where the placement needs it and
the victims that may be chosen suffice (R38). -/
def State.victimFor (s : State) (p : Gang) : Option Gang :=
  match s.job? p.job with
  | none => none
  | some j =>
    if p.state != .pending || j.state != .active || !s.firstFor p p.lcore then none else
    let here := s.gangs.filter fun x => (s.evictCores p j).contains x.host && x.state == .resident
    let able := here.filter fun x => s.mayEvict p x
    if here.any (fun x => x.stage == 1 || x.stage == 2) || s.enoughWithout p j [] || !s.enoughWithout p j (able.map (·.uid)) then none
    else s.firstVictim able

/-- GANG_EVICT: a victim is chosen; it issues no further run (R38, R54, R278). -/
def tryGangEvict (gang : Nat) (s : State) : Option State :=
  match s.gang? gang with
  | none => none
  | some x =>
    match s.job? x.job with
    | none => none
    | some j =>
      let c := s.ctx j.ctx
      match s.gangs.find? fun p => (s.victimFor p).any fun v => v.uid == gang, c.areaFor j.areaSize with
      | none, _ | _, none => none
      | some p, some off =>
        some ((s.setGang { x with held := true, stage := 1, saveOff := off, evictor := some p.uid }).setCtx
          { c with areas := (off, j.areaSize) :: c.areas })

/-- GANG_EVICT (R278). -/
def execGangEvict (gang : Nat) (s : State) : Host.Outcome State Fault Refusal := event (tryGangEvict gang) s

/-! ## Quiescence (R263, R278, R284) -/

/-- The agents of a gang that have a run in progress. -/
def State.issuing (s : State) (gang : Nat) : Bool :=
  s.runs.any fun r => match r.agent with | .split g _ _ => g == gang | .front _ => false

/-- Steps 1 to 3 of R278 are over for a group: no trap is to be taken, its queues are empty, no operation but a GRAS is in
progress, and no query is within a round. -/
def Group.settled (g : Group) : Bool :=
  g.splits.all (fun k => k.trap.isNone) && g.drained &&
  g.ops.all (fun o => match o.kind with | .gras .. => true | _ => false) && g.queries.all fun x => !x.active || x.ready

/-- The front that a gang serves has an entry for its scratchpad region. -/
def State.frontBusy (s : State) (x : Gang) : Bool :=
  match (s.core x.lcore).front with
  | none => false
  | some f => f.job == x.job && f.group.worker == x.worker && f.group.queue.any fun e =>
      !e.isMark && decide (spKey x.host x.spBase ≤ e.key) && decide (e.key < spKey x.host (x.spBase + x.spSize))

/-- COPY_QUIESCE: steps 1 to 3 of R278 are over for every group, its weight loads are complete (R362), and no exchange copy is
unfinished (R278): a GRAS is killed
(R263), and the copy engine takes no new line of the gang beyond the last that has landed of each command (R284). -/
def tryCopyQuiesce (gang : Nat) (s : State) : Option State :=
  match s.gang? gang with
  | none => none
  | some x =>
    if x.stage != 1 || x.state != .resident || s.issuing gang || !x.groups.all Group.settled || s.frontBusy x ||
        x.groups.any (fun g => s.loadsWeights (.group gang g.idx)) ||
        x.cmds.any (fun c => c.req.mode == .xch) then none
    else
      let kill (g : Group) : Group :=
        { g with ops := g.ops.map fun (o : TileOp) => { o with kind := o.kind.replay } }
      some (s.setGang { x with stage := 2, groups := x.groups.map kill })

/-- COPY_QUIESCE (R284). -/
def execCopyQuiesce (gang : Nat) (s : State) : Host.Outcome State Fault Refusal := event (tryCopyQuiesce gang) s

/-- The line before a line of a command, in line order. -/
def State.prevLine (s : State) (c : CopyCmd) (n : Nat) : Option Nat :=
  let i := n / c.req.perRow
  if n % c.req.perRow ≠ 0 then some (n - 1)
  else if i = 0 then none
  else some ((i - 1) * c.req.perRow + (s.pieces c (i - 1) - 1))

/-- The landed lines of a command form a prefix, and each has been counted (R284). -/
def State.quiesced (s : State) (c : CopyCmd) : Bool :=
  c.landed.all fun n => c.counted.contains n && (match s.prevLine c n with | some p => c.landed.contains p | none => true)

/-- Bytes of the landed lines of a row. -/
def State.rowLanded (s : State) (c : CopyCmd) (i : Nat) : Nat :=
  ((c.landed.filter fun n => n / c.req.perRow == i).map fun n => ((s.line? c n).map (·.2.2)).getD 0).sum

/-- A command as its place describes it: the lines that remain, to be accepted and promised no more (R285, R286). -/
def State.suffix (s : State) (c : CopyCmd) : CopyCmd :=
  let r := c.req
  let n := ((List.range (r.rowCount)).map (s.rowLanded c)).sum
  let plus (d : DWord) (k : Nat) : DWord := d + BitVec.ofNat 64 k
  let whole := ((List.range r.rowCount).filter fun i =>
    decide (s.rowLanded c i + (if i = 0 then c.headSkip else 0) ≥ r.rowBytes)).length
  let r1 : CopyReq := match r.mode with
    | .lin | .red => { r with src := plus r.src n, dst := plus r.dst n, len := r.len - n }
    | .s2d => { r with src := r.rowSrc whole, dst := s.rowDst r whole, rows := r.rows - whole }
    | .gat => { r with idx := plus r.idx (4 * (n / r.esize)), dst := plus r.dst (r.esize * (n / r.esize)), rows := r.rows - n / r.esize }
    | .sca => { r with idx := plus r.idx (4 * (n / r.esize)), src := plus r.src (r.esize * (n / r.esize)), rows := r.rows - n / r.esize }
    | .xch => r
  { c with req := r1
           headSkip := if r.mode = .s2d then s.rowLanded c whole + (if whole = 0 then c.headSkip else 0) else 0
           accepted := false, again := true, landed := [], counted := [], pc := 0, paused := false, promise := none }

/-! ## EVICT_SAVE and GANG_RESTORE -/

/-- A split as it is saved: a BLOCKED one keeps the PC of its instruction, which is evaluated afresh; one that waits for a window,
or raises PROT at its first instruction, still does (R111, R274, R278; notes/assumptions/98.md). -/
def Split.saved (k : Split) : Split :=
  { k with hold := if k.stopped then .again else match k.hold with
             | .prot => .prot
             | .window b => .window b
             | _ => .none
           wait := match k.wait with | .deq n q d b => .deq n q d b | _ => .none
           levels := k.levels.map fun (l : Level) => { l with buf := [], bufOn := false, armed := false, discard := false } }

/-- A line of the save area's scratchpad image is poisoned as the line of the region is. -/
def poisonMoved (l : List Nat) (src dst n : Nat) : List Nat :=
  ((List.range (n / 128)).filter fun i => l.contains (src / 128 + i)).map (dst / 128 + ·)

/-- EVICT_SAVE: the queues of the groups are empty still, the commands are quiesced and no exchange copy is unfinished; the save area is written and named in the eviction ring, the gang's resources are
released, and it is EVICTED (R278-R285, R306). -/
def tryEvictSave (gang : Nat) (s : State) : Option State :=
  match s.gang? gang with
  | none => none
  | some x =>
    match s.job? x.job with
    | none => none
    | some j =>
      let c := s.ctx j.ctx
      match s.ring? c 0x40 16 with
      | none => none
      | some r =>
        if x.stage != 2 || x.state != .resident || !x.groups.all Group.settled || s.frontBusy x ||
            x.cmds.any (fun c => c.req.mode == .xch) || !x.cmds.all s.quiesced || decide (r.count ≥ r.cap) then none
        else
          let ids := x.cmds.map (·.id)
          let grp (g : Group) : Group := { g with queue := [], splits := g.splits.map Split.saved, arrived := none }
          let x1 : Gang := { x with state := .evicted, stage := 0, listSeq := r.tail, groups := x.groups.map grp
                                    cmds := x.cmds.map s.suffix }
          let sp := spKey x.host x.spBase
          let key := c.poolKey x.saveOff
          let img := x1.image j
          let s1 := ((s.count (x.host / 8) (some j.ctx) 0x0F 1).setGang x1).poolPut key (img ++ cellsGet s.mem sp x.spSize)
            (poisonMoved s.poisoned sp (key + img.length) x.spSize)
          let c1 := s1.ctx j.ctx
          let s2 := s1.setCtx { c1 with sleepers := c1.sleepers.filter fun f =>
            match f.2 with | .copy id => !ids.contains id | _ => true }
          some ((s2.storeHome none (c.qkey (r.entry 16 r.tail))
            (leBytes 16 (packBits [(19, j.cidx), (13, 0), (16, x.worker), (16, 0), (64, x.saveOff)])) 0).ringPush r)

/-- EVICT_SAVE (R280). -/
def execEvictSave (gang : Nat) (s : State) : Host.Outcome State Fault Refusal := event (tryEvictSave gang) s

/-- A split as it goes on after placement, in the state in which it was saved (R278, R287). -/
def Split.restored (k : Split) (now : Nat) : Split := { k with stamp := now }

/-- The stack entries that the core holds, as the group block of a save area has them (R125, R282); deeper ones stay in the
spill area. -/
def State.savedStack (s : State) (g : Group) (block : Nat) : List StackEntry :=
  let held := g.heldEntries.length
  ((List.range held).map fun i => imageStack (s.readHome (block + 0x280 + 64 * i) 64)).reverse ++ g.stack.drop held

/-- A group on its hosting core with the stack of its save area: ring positions are clean copies no more. -/
def Group.restored (g : Group) (c : Core) (at' : Nat × Nat) (sp : Nat) (stack : List StackEntry) : Group :=
  { g with stack := stack, host := c.idx, sched := at'.1, slot0 := at'.2, spBase := sp, lastRun := 0
           ring := g.ring.map fun (r : RingSlot) => { r with clean := false }
           splits := g.splits.map fun (k : Split) => k.restored (c.now at'.1) }

/-- PLACED and HOST written into the entry of the eviction ring, where HEAD has not passed it (R290, R306). -/
def State.markPlaced (s : State) (c : Context) (seq host : Nat) : State :=
  match s.ring? c 0x40 16 with
  | none => s
  | some r =>
    if (r.tail + 2 ^ 64 - seq) % 2 ^ 64 ≤ r.count then
      let k := c.qkey (r.entry 16 seq)
      s.storeNat k 8 (putBits (s.homeNat k 8) 57 48 (512 + host))
    else s

/-- The gang on whose account a gang was evicted has still to be placed: it is considered first (R290). -/
def State.evictorWaits (s : State) (x : Gang) : Bool :=
  s.gangs.any fun p => x.evictor == some p.uid && p.state == .pending

/-- GANG_RESTORE: an evicted gang takes the resources of its hosting core; its scratchpad and its groups are restored, its
commands are to be accepted again, and with the last of them its area returns to the pool (R286, R287, R290, R291). -/
def tryGangRestore (gang : Nat) (s : State) : Option State :=
  match s.gang? gang with
  | none => none
  | some x =>
    match s.job? x.job with
    | none => none
    | some j =>
      if x.state != .evicted then none else
      match s.restoreAt x j with
      | none => none
      | some (core, places, sp) =>
        if !s.firstFor x core || s.evictorWaits x then none else
        let c := s.ctx j.ctx
        let key := c.poolKey x.saveOff + (x.image j).length
        let dst := spKey core sp
        let hit (l : Nat) : Bool := decide (dst ≤ l * 128) && decide (l * 128 < dst + x.spSize)
        let k : Core := { s.core core with idx := core }
        let block (g : Group) : Nat := c.poolKey x.saveOff + 0x4100 + g.idx * blockSize j.allot j.acct
        let grp (y : Group × (Nat × Nat)) : Group := y.1.restored k y.2 sp (s.savedStack y.1 (block y.1))
        let cmd (y : CopyCmd) : CopyCmd :=
          { y with pos := match y.issuer with
              | .group _ i => ((x.groups.find? fun g => g.idx == i).map (·.nextPos)).getD y.pos
              | .front _ => y.pos }
        let s1 : State := { s with
          mem := cellsPut s.mem dst (cellsGet s.mem key x.spSize)
          poisoned := poisonMoved s.poisoned key dst x.spSize ++ s.poisoned.filter fun l => !hit l
          nextUid := s.nextUid + 1 }
        let s2 := s1.setGang { x with state := .resident, held := false, stage := 3, evictor := none, host := core, spBase := sp
                                      age := s.nextUid, groups := (x.groups.zip places).map grp
                                      cmds := x.cmds.map cmd }
        some ((s2.restoredArea x.uid).markPlaced c x.listSeq core)

/-- GANG_RESTORE (R286). -/
def execGangRestore (gang : Nat) (s : State) : Host.Outcome State Fault Refusal := event (tryGangRestore gang) s

/-! ## Core state (R233, R234, R288) -/

/-- Bytes of a core-state area (R288). -/
def coreAreaSize : Nat := 71424

/-- The front or group that a weight load owes its tiles counter: FRONT and LANEBASE (R288). -/
def State.owes (s : State) (w : WEntry) : Nat × Nat :=
  match w.issuer with
  | .front _ => (1, 0)
  | q => (0, ((s.group? q).map fun g => g.laneBase.toNat).getD 0)

/-- The cursor of a load: how far the next byte to fetch lies from the first byte of the stored tile, the scale byte of each block
and the padding of the last counted as they lie in memory, and for a generated tile its position, the number of elements before it
(R142, R215, R234, R288; notes/assumptions/64.md). -/
def WEntry.cursorBits (w : WEntry) : Nat × Nat :=
  let t := tensorOf w.image
  let all := tileFetch t w.prog w.r0 w.c0 w.layer
  match w.st, all.head?, all[w.cursor]? with
  | .loading, some a, some f =>
    let n := ((all.take w.cursor).filter fun x => !x.scale).length
    ((f.va + 2 ^ 64 - a.va) % 2 ^ 64, if t.comp then n / unitBytes t.ty * unitElems t.ty else 0)
  | _, _, _ => (0, 0)

/-- A weight-buffer entry of 4,352 bytes, with its rank in least-recent naming (R288). -/
def State.wImage (s : State) (w : WEntry) (rank : Nat) : List Byte :=
  let load := decide (w.st = .loading)
  let (front, base) := if load then s.owes w else (0, 0)
  leBytes 128 (packBits [(96, 0), (32, w.r0), (32, w.c0), (16, w.layer), (4, w.pslot), (32, w.gen.toNat), (4, rank), (8, 0),
    (10, w.tid.toNat), (2, if load then 1 else 2), (20, 0), (64, w.cursorBits.2), (64, w.cursorBits.1), (32, base), (1, front)]) ++
    padTo 4096 w.elems ++ padTo 128 w.scales

/-- A pattern slot of 64 bytes (R288). -/
def PSlot.bytes (p : PSlot) : List Byte :=
  leBytes 64 (packBits [(256, p.image.toNat), (32, p.gen.toNat), (1, if p.inv then 1 else 0)])

/-- The core-state area of a context on a logical core (R288). -/
def State.coreImage (s : State) (core : Nat) (ws : List WEntry) (ps : List (Nat × PSlot)) (ds : List Decision) : List Byte :=
  let bits (l : List Nat) : Nat := (l.map fun n => 2 ^ n).sum
  leBytes 256 (packBits [(9, core), (7, 0), (6, ds.length), (10, 0), (16, bits (ws.map (·.no))),
    (16, bits ((ps.filter fun p => p.2.loaded).map (·.1)))]) ++
  padTo 512 (ds.map fun d => leBytes 16 (packBits [(64, d.val.toNat), (19, ((s.job? d.job).map (·.cidx)).getD 0)])).flatten ++
  ((List.range 16).map fun n => match ps.find? fun p => p.1 == n with
    | some p => p.2.bytes
    | none => List.replicate 64 0).flatten ++
  ((List.range 16).map fun n => match ws.find? fun w => w.no == n with
    | some w => s.wImage w (ws.filter fun x => decide (x.age < w.age)).length
    | none => List.replicate 4352 0).flatten

/-- A decision's job is of a context. -/
def State.decisionOf (s : State) (ctx : Nat) (d : Decision) : Bool := (s.job? d.job).any fun j => j.ctx == ctx

/-- CORE_STATE_HANDOVER: a context's slots, entries and decisions on a core are written into an area of its pool, and the
core's are free (R233, R234, R288). -/
def tryCoreStateHandover (core ctx : Nat) (s : State) : Option State :=
  match s.ctx? ctx with
  | none => none
  | some c =>
    let k := s.core core
    let ws := k.wbuf.filter fun w => w.owner == ctx
    let ps := k.pslots.filter fun p => p.2.owner == ctx
    let ds := k.dq.filter (s.decisionOf ctx)
    if (ws.isEmpty && ps.isEmpty && ds.isEmpty) || s.coreAway core ctx then none else
    match c.areaFor coreAreaSize with
    | none => none
    | some off =>
      let s1 := s.poolPut (c.poolKey off) (s.coreImage core ws ps ds) []
      let k1 : Core := { k with wbuf := k.wbuf.filter fun w => w.owner != ctx
                                pslots := k.pslots.filter fun p => p.2.owner != ctx
                                dq := k.dq.filter fun d => !s.decisionOf ctx d
                                saved := (ctx, ws, ps, ds) :: k.saved, away := (ctx, off) :: k.away }
      some ((s1.setCore k1).setCtx { c with areas := (off, coreAreaSize) :: c.areas })

/-- CORE_STATE_HANDOVER (R233). -/
def execCoreStateHandover (core ctx : Nat) (s : State) : Host.Outcome State Fault Refusal := event (tryCoreStateHandover core ctx) s

/-- CORE_STATE_RESTORE: the state comes back where no other context holds an entry or slot of the same number and its
decisions have room, and the area returns to the pool (R51, R233, R288). -/
def tryCoreStateRestore (core ctx : Nat) (s : State) : Option State :=
  match s.ctx? ctx with
  | none => none
  | some c =>
    let k := s.core core
    match k.saved.find? fun x => x.1 == ctx with
    | none => none
    | some (_, ws, ps, ds) =>
      let clash := ws.any (fun w => k.wbuf.any fun x => x.no == w.no) || ps.any (fun p => k.pslots.any fun x => x.1 == p.1)
      if clash || decide (32 < k.dq.length + ds.length) then none else
      let offs := (k.away.filter fun a => a.1 == ctx).map (·.2)
      let k1 : Core := { k with wbuf := k.wbuf ++ ws, pslots := k.pslots ++ ps, dq := ds ++ k.dq
                                saved := k.saved.filter fun x => x.1 != ctx, away := k.away.filter fun a => a.1 != ctx }
      let s1 := offs.foldl (fun s off => s.areaLeft (c.poolKey off) coreAreaSize) (s.setCore k1)
      some ((s1.setCtx { c with areas := c.areas.filter fun a => !offs.contains a.1 }).dqServeAll core)

/-- CORE_STATE_RESTORE (R288). -/
def execCoreStateRestore (core ctx : Nat) (s : State) : Host.Outcome State Fault Refusal := event (tryCoreStateRestore core ctx) s

end Sys2Proof.Machine
end

