-- ==== Sys2Proof/Machine/HostSide.lean ====
section
/-!
DEFINITION. What the outside does: module reset and firmware (R3), links and versions (R294-R296), the control page (R295, R297,
R307, R313), contexts (R297-R299), host accesses (R207, R294), SPDM (R314), the pod (R307-R309), clocks (R309-R312), soft
errors (R180) and refresh (R171).
-/
namespace Sys2Proof.Machine

open Sys2Proof

/-! ## Reset and links -/

/-- A firmware image passes the checks of reset: its signature under the fused key and its security version (R3). -/
def State.imageBoots (s : State) : Bool :=
  Config.ecdsaVerify s.flash.digest s.flash.sig s.fuseKey && decide (s.fuseMin ≤ s.flash.version)

/-- The bytes of memory that module reset leaves: host memory and the memory of peer modules. -/
def outside (m : List Host.Cell) : List Host.Cell := m.filter fun c => decide (2 ^ 64 ≤ c.1)

/-- MODULE_RESET: the module as at reset, with the flash, the fuses and all that lies outside it as they were; the image of
the flash runs where it passes the checks (R3; notes/assumptions/16.md). -/
def execModuleReset (s : State) : Host.Outcome State Fault Refusal :=
  .next { State.reset with
    booted := s.imageBoots, flash := s.flash, measured := if s.imageBoots then s.flash.digest else 0
    fwVersion := if s.imageBoots then s.flash.version else 0, fuseKey := s.fuseKey, fuseMin := s.fuseMin, fuseCfg := s.fuseCfg, idKey := s.idKey, mem := outside s.mem, peers := s.peers
    poisoned := s.poisoned.filter fun l => decide (2 ^ 64 ≤ l * 128), agenda := s.agenda, choices := s.choices }

/-- FIRMWARE_UPDATE: a whole new image in the flash; it takes effect at the next reset (R3). -/
def execFirmwareUpdate (img : FwImage) (s : State) : Host.Outcome State Fault Refusal := .next { s with flash := img }

/-- A bit of a pair of bits set or cleared. -/
def setLink (v : BitVec 2) (link on : Bool) : BitVec 2 :=
  let b : BitVec 2 := if link then 2 else 1
  if on then v ||| b else v &&& ~~~b
/-- A host link is trained. -/
def State.up (s : State) (link : Bool) : Bool := s.linkUp.getLsbD (if link then 1 else 0)

/-- HOST_LINK_TRAIN: LINKUP of the link, and whether it completes AtomicOps (R169, R294, R295). -/
def execHostLinkTrain (link ok atomics : Bool) (s : State) : Host.Outcome State Fault Refusal :=
  .next { s with linkUp := setLink s.linkUp link ok, linkAtomics := setLink s.linkAtomics link (ok && atomics) }

/-- Lowest and highest Guluirel protocol version of this module (R295). -/
def glMin : Nat := 1
def glMax : Nat := 2

/-- GULUIREL_LINK_UP: the link runs the highest version that both ends support, or stays down (R296). -/
def execGulLinkUp (link : BitVec 4) (peerMin peerMax : BitVec 8) (s : State) : Host.Outcome State Fault Refusal :=
  let v := min glMax peerMax.toNat
  let rest := s.gulVer.filter fun x => x.1 != link.toNat
  .next { s with gulVer := if max glMin peerMin.toNat ≤ v then (link.toNat, v) :: rest else rest }

/-! ## The control page (R295, R297, R307, R313) -/

/-- VERSION as it reads back: 0 where it is out of range; a module that has not booted stays unattached (R3, R295). -/
def State.selectVersion (s : State) (v : Nat) : State := { s with hifVer := if s.booted && v == 1 then 1 else 0 }

/-- HIF_VERSION_SELECT (R295). -/
def execHifVersionSelect (version : BitVec 8) (s : State) : Host.Outcome State Fault Refusal := .next (s.selectVersion version.toNat)

/-- WSDROP_CLEAR: writing 1 clears WSDROP (R295). -/
def execWsdropClear (s : State) : Host.Outcome State Fault Refusal := .next { s with wsDrop := false }

/-- The counter k of a cluster; 0 and stopped where the host has not written it (R313). -/
def State.counterOf (s : State) (cluster k : Nat) : EvCounter :=
  (s.evCounters.find? fun c => c.cluster == cluster && c.k == k).getD
    { cluster := cluster, k := k, enable := false, allCtx := false, ctx := 0, source := 0, count := 0 }

/-- A counter as it reads (R313). -/
def EvCounter.bits (c : EvCounter) : Nat :=
  packBits [(64, c.count.toNat), (8, c.source.toNat), (6, c.ctx), (1, if c.allCtx then 1 else 0), (1, if c.enable then 1 else 0)]

/-- A counter written; a source outside 0x01 to 0x11 stops it at its value (R313). -/
def State.writeCounter (s : State) (cluster k v : Nat) : State :=
  if cluster ≥ Config.numClusters then s else
  let old := s.counterOf cluster k
  let src := bitsOf v 71 64
  let stop := src == 0 || decide (0x11 < src)
  let c : EvCounter := { cluster := cluster, k := k, enable := bitOf v 79, allCtx := bitOf v 78, ctx := bitsOf v 77 72
                         source := BitVec.ofNat 8 src, count := if stop then old.count else BitVec.ofNat 64 v }
  { s with evCounters := upsert (fun x => x.cluster == cluster && x.k == k) c s.evCounters }

/-- EVENT_COUNTER_WRITE (R313). -/
def execEventCounterWrite (cluster : Nat) (k : BitVec 4) (v : BitVec 128) (s : State) : Host.Outcome State Fault Refusal :=
  .next (s.writeCounter cluster k.toNat v.toNat)

/-- MODINFO (R295). -/
def State.modinfo (s : State) : Nat :=
  packBits [(8, 1), (8, 1), (8, glMin), (8, glMax), (4, 0), (2, s.linkUp.toNat), (10, s.devid.toNat)]

/-- The route table entry of a device id (R307). -/
def State.route (s : State) (i : Nat) : Nat := ((s.routes.find? fun r => r.1 == i).map fun r => r.2.toNat).getD 0

/-- Byte i of a number. -/
def byteAt (v i : Nat) : Byte := BitVec.ofNat 8 (v >>> (8 * i))

/-- A byte of the control page; what it does not lay out reads as zero (R295, R297, R307, R313). -/
def State.ctrlByte (s : State) (off : Nat) : Byte :=
  if off < 0x08 then byteAt s.modinfo off
  else if off < 0x10 then byteAt (s.hifVer.toNat + if s.wsDrop then 256 else 0) (off - 0x08)
  else if off < 0x18 then byteAt s.devid.toNat (off - 0x10)
  else if 0x40 ≤ off ∧ off < 0x44 then byteAt s.ctxcmd.toNat (off - 0x40)
  else if 0x80 ≤ off ∧ off < 0x100 then byteAt s.mailbox.toNat (off - 0x80)
  else if 0x1000 ≤ off ∧ off < 0x1800 then byteAt (s.route ((off - 0x1000) / 2)) (off % 2)
  else if 0x10000 ≤ off ∧ off < 0x10000 + 256 * Config.numClusters then
    byteAt (s.counterOf ((off - 0x10000) / 256) (off / 16 % 16)).bits (off % 16)
  else 0

/-- A register of n bytes at an offset of the control page with the bytes of a write laid over it; none where the write
does not touch it. -/
def State.overlay (s : State) (reg n off : Nat) (bytes : List Byte) : Option Nat :=
  if off + bytes.length ≤ reg ∨ reg + n ≤ off ∨ bytes.isEmpty then none
  else some (leNat ((List.range n).map fun i =>
    if off ≤ reg + i ∧ reg + i < off + bytes.length then bytes.getD (reg + i - off) 0 else s.ctrlByte (reg + i)))

/-- A register written where a write touches it. -/
def State.ctrlReg (s : State) (reg n off : Nat) (bytes : List Byte) (f : State → Nat → State) : State :=
  match s.overlay reg n off bytes with
  | some v => f s v
  | none => s

/-- A route table entry written (R307). -/
def State.setRoute (s : State) (i v : Nat) : State := { s with routes := upsert (fun r => r.1 == i) (i, BitVec.ofNat 16 v) s.routes }

/-- A create that has not been processed: the device accepts no CTXCMD write before it has been (R299). -/
def State.creating (s : State) : Bool := s.ctxPend && s.ctxcmd.toNat % 256 == 1

/-- A write to the control page: HIFSEL, DEVID, CTXCMD (whose DONE it clears), the mailbox, the route table, the event counters
(R17, R295, R297, R307, R313). -/
def State.ctrlWrite (s : State) (off : Nat) (bytes : List Byte) : State :=
  let s1 := s.ctrlReg 0x08 1 off bytes State.selectVersion
  let s2 := if decide (off ≤ 0x09) && decide (0x09 < off + bytes.length) && (bytes.getD (0x09 - off) 0).getLsbD 0
    then { s1 with wsDrop := false } else s1
  let s3 := s2.ctrlReg 0x10 8 off bytes fun s v => { s with devid := BitVec.ofNat 10 v }
  let s4 := s3.ctrlReg 0x40 4 off bytes fun s v =>
    { s with ctxcmd := (s.ctxcmd &&& 0x00FF0000) ||| BitVec.ofNat 32 (v % 2 ^ 14), ctxPend := true }
  let s5 := s4.ctrlReg 0x80 128 off bytes fun s v => { s with mailbox := BitVec.ofNat 1024 v }
  let touched (base size n : Nat) : List Nat := (List.range n).filter fun i =>
    decide (off < base + size * (i + 1)) && decide (base + size * i < off + bytes.length)
  let s6 := (touched 0x1000 2 1024).foldl (fun s i => s.ctrlReg (0x1000 + 2 * i) 2 off bytes fun s v => s.setRoute i v) s5
  (touched 0x10000 16 (16 * Config.numClusters)).foldl (fun s i =>
    s.ctrlReg (0x10000 + 16 * i) 16 off bytes fun s v => s.writeCounter (i / 16) (i % 16) v) s6

/-- A write to the control page touches CTXCMD while the device does not accept it (R299). -/
def State.ctxBusy (s : State) (off : Nat) (bytes : List Byte) : Bool := s.creating && (s.overlay 0x40 4 off bytes).isSome

/-- REGISTER_WRITE: a write to the control page, once the device accepts it (R295, R299, R307). -/
def execRegisterWrite (off : Nat) (bytes : List Byte) (s : State) : Host.Outcome State Fault Refusal :=
  event (fun s => if s.ctxBusy off bytes then none else some (s.ctrlWrite off bytes)) s

/-! ## Contexts (R297-R299) -/

/-- Two ranges (first, length) share a unit. -/
def meet (a b : Nat × Nat) : Bool := decide (a.1 < b.1 + b.2) && decide (b.1 < a.1 + a.2) && a.2 != 0 && b.2 != 0

/-- The reserved fields of a context record are zero, its alignments hold and its ranges keep their limits (R297, R298). -/
def recordOk (r : Nat) : Bool :=
  zeroBits r [(1023, 424), (331, 329), (319, 314), (303, 298), (287, 285), (271, 269), (255, 248), (235, 235), (191, 184), (63, 56)] &&
  bitsOf r 379 368 == 0 && bitsOf r 139 128 == 0 && bitsOf r 17 0 == 0 &&
  decide (1 ≤ bitsOf r 247 236) && decide (bitsOf r 234 224 + bitsOf r 247 236 ≤ 2048) &&
  decide (bitsOf r 268 256 + bitsOf r 284 272 ≤ 4096) && decide (bitsOf r 297 288 + bitsOf r 313 304 ≤ 768)

/-- A byte of device memory as BAR4 gives it: the marker of a poisoned line, else the host copy; zero outside (R180, R207,
R294). -/
def State.bar4Byte (s : State) (a : Nat) : Byte :=
  if !deviceExists a then 0 else if s.poisonAt a then markerByte a else s.hostByte a

/-- The image of n bytes that the host has put at a device address. -/
def State.bar4Nat (s : State) (a n : Nat) : Nat := leNat ((List.range n).map fun i => s.bar4Byte (a + i))

/-- The initial tensor table: the entries of the image at TENSORS, none where one of them fails or the image does not lie in
device memory; an invalid one is all zero (R299). -/
def State.tensorImage (s : State) (a : Nat) : Option (List (Nat × BitVec 256)) :=
  if a = 0 then some [] else
  let inside := (isNear a && isNear (a + 32767)) || (isGddr a && isGddr (a + 32767))
  let es := (List.range 1024).map fun i => (i, BitVec.ofNat 256 (s.bar4Nat (a + 32 * i) 32))
  if !inside || !es.all (fun e => tdefOk e.2) then none
  else some (es.filter fun e => (tensorOf e.2).valid)

/-- The context that a record describes (R297). -/
def contextOf (r : Nat) (tensors : List (Nat × BitVec 256)) : Context :=
  { Context.blank (bitsOf r 325 320) with
    ttroot := BitVec.ofNat 64 (bitsOf r 55 0), seed := BitVec.ofNat 64 (bitsOf r 127 64)
    savePool := BitVec.ofNat 64 (bitsOf r 183 128), saveSz := bitsOf r 223 192, qaBase := bitsOf r 234 224
    qaSize := bitsOf r 247 236, wsBase := bitsOf r 268 256, wsSize := bitsOf r 284 272, nmBase := bitsOf r 297 288
    nmSize := bitsOf r 313 304, fragMode := bitOf r 326, poisonTrap := bitOf r 327, fixed := bitOf r 328
    podTag := BitVec.ofNat 32 (bitsOf r 367 336), tensors := tensors }

/-- A context cannot be created beside another (R298). -/
def Context.clashes (c x : Context) : Bool :=
  x.id == c.id || meet (c.qaBase, c.qaSize) (x.qaBase, x.qaSize) || meet (c.wsBase, c.wsSize) (x.wsBase, x.wsSize) ||
    meet (c.nmBase, c.nmSize) (x.nmBase, x.nmSize)

/-- CTXCMD as it is pending: OP and CTXID; none once it has been processed (R297; notes/assumptions/97.md). -/
def State.ctxAsked (s : State) : Option (Nat × Nat) :=
  if s.ctxPend && s.booted then some (s.ctxcmd.toNat % 256, bitsOf s.ctxcmd.toNat 13 8) else none

/-- CTXCMD done: STATUS, then DONE; OP and CTXID stay as the host wrote them (R297). -/
def State.ctxDone (s : State) (status : Nat) : State :=
  { s with ctxcmd := (s.ctxcmd &&& 0x00003FFF) ||| BitVec.ofNat 32 (packBits [(16, 0), (8, status), (7, 0), (1, 1)]), ctxPend := false }

/-- The Quay area of a context holds zeros (R16, R33, R299, R300, R302; notes/assumptions/93.md). -/
def State.zeroArea (s : State) (c : Context) : State :=
  { s with mem := s.mem.filter fun x => decide (x.1 < c.qkey 0) || decide (c.qkey c.qaBytes ≤ x.1)
           poisoned := s.poisoned.filter fun l => decide (l * 128 < c.qkey 0) || decide (c.qkey c.qaBytes ≤ l * 128) }

/-- CONTEXT_CREATE: CTXCMD with OP 1 and the record of the mailbox; the fields of the Quay area take their reset values
(R16, R297-R299). -/
def tryContextCreate (s : State) : Option State :=
  if (s.ctxAsked.map (·.1)) ≠ some 1 then none else
  let r := s.mailbox.toNat
  if bitsOf r 335 332 ≠ 1 then some (s.ctxDone 4)
  else if !recordOk r then some (s.ctxDone 2)
  else
    match s.tensorImage (bitsOf r 423 368) with
    | none => some (s.ctxDone 2)
    | some ts =>
      let c := contextOf r ts
      if s.contexts.any c.clashes then some (s.ctxDone 3)
      else some ((({ s with contexts := s.contexts ++ [c] } : State).zeroArea c).ctxDone 0)

/-- CONTEXT_CREATE (R297). -/
def execContextCreate (s : State) : Host.Outcome State Fault Refusal := event tryContextCreate s

/-- A core with nothing left of a context. -/
def Core.without (k : Core) (ctx : Nat) (jobs : List Nat) : Core :=
  { k with wbuf := k.wbuf.filter fun w => w.owner != ctx, pslots := k.pslots.filter fun p => p.2.owner != ctx
           dq := k.dq.filter fun d => !jobs.contains d.job, away := k.away.filter fun a => a.1 != ctx
           saved := k.saved.filter fun x => x.1 != ctx, tlb := k.tlb.filter fun e => e.ctx != ctx, walks := k.walks.filter fun e => e.ctx != ctx
           front := k.front.filter fun f => !jobs.contains f.job }

/-- Operations of a group have not been performed (R30). -/
def Group.unfinished (g : Group) : Bool := !g.drained || !g.ops.isEmpty

/-- CONTEXT_DESTROY: CTXCMD with OP 2 for a context: BUSY while a job is not COMPLETE, a QUEUED one included (R32), or the context is gone with its ranges, its binding and its Quay
area zeroed; outstanding accesses of completed jobs are performed first (R30, R297, R299). The status for a context that is
not resident is free. -/
def tryContextDestroy (ctx : BitVec 6) (s : State) : Option State :=
  if s.ctxAsked ≠ some (2, ctx.toNat) then none else
  match s.ctx? ctx.toNat with
  | none => let (s1, v) := s.pick
            some (s1.ctxDone (v % 5))
  | some c =>
    let jobs := (s.jobs.filter fun j => j.ctx == c.id).map (·.uid)
    let mine := s.gangs.filter fun g => jobs.contains g.job
    if s.jobs.any (fun j => j.ctx == c.id && j.state != .complete) || !(s.queuedJobs c).isEmpty || mine.any (fun g => g.state == .evicted) then
      some (s.ctxDone 1)
    else if mine.any (fun g => !g.cmds.isEmpty || g.groups.any Group.unfinished) ||
        s.cores.any (fun k => k.front.any fun f => jobs.contains f.job && f.group.unfinished) ||
        s.migrations.any (fun m => m.ctx == c.id) then none
    else
      let s1 : State := { s with contexts := s.contexts.filter fun x => x.id != c.id
                                 jobs := s.jobs.filter fun j => j.ctx != c.id
                                 gangs := s.gangs.filter fun g => !jobs.contains g.job
                                 tdisp := s.tdisp.filter fun b => b.ctx != c.id
                                 cores := s.cores.map fun k => k.without c.id jobs }
      some ((s1.zeroArea c).ctxDone 0)

/-- CONTEXT_DESTROY (R299). -/
def execContextDestroy (ctx : BitVec 6) (s : State) : Host.Outcome State Fault Refusal := event (tryContextDestroy ctx) s

/-- CTXCMD_BAD_OP: an OP other than 1 and 2 sets STATUS 2 (R297). -/
def execCtxcmdBadOp (op : Byte) (s : State) : Host.Outcome State Fault Refusal :=
  event (fun s => if op == 1 || op == 2 || (s.ctxAsked.map (·.1)) != some op.toNat then none else some (s.ctxDone 2)) s

/-! ## Host accesses (R207, R294) -/

/-- A byte that the host reads. -/
def State.hostSees (s : State) (t : HostTarget) (off : Nat) : Byte :=
  match t with
  | .quay => if s.attached && decide (off < 0x800000) then (s.readHome (quayKey off) 1).getD 0 0 else 0
  | .control => s.ctrlByte off
  | .weights => if off < 2 ^ 33 then (s.readHome (wsKey off) 1).getD 0 0 else 0
  | .device => s.bar4Byte off
  | .hostMem => (s.readHome (hostKey off) 1).getD 0 0

/-- Traffic of a link comes on the IDE stream of a binding. -/
def Binding.carries (b : Binding) (p : HostPath) : Bool := p.link == b.link && p.stream == some b.stream

/-- A byte of the Quay area or of the BAR4 pages of a context: device memory that its tables map, or that is allotted to it
(R163, R315; notes/assumptions/92.md). -/
def State.belongs (s : State) (ctx : Nat) (t : HostTarget) (off : Nat) : Bool :=
  let c := s.ctx ctx
  match t with
  | .quay => decide (c.qaBase * 4096 ≤ off) && decide (off < (c.qaBase + c.qaSize) * 4096)
  | .device => (decide (c.nmBase * 2 ^ 21 ≤ off) && decide (off < (c.nmBase + c.nmSize) * 2 ^ 21)) || inPages (s.ctxPages ctx) off
  | _ => false

/-- An access is kept from a byte: an interface in RUN lets only the traffic on its IDE stream reach its context's Quay area
and BAR4 pages, and the control page refuses that traffic (R315). -/
def State.refuses (s : State) (p : HostPath) (t : HostTarget) (off : Nat) : Bool :=
  s.tdisp.any fun b => b.run && (match t with
    | .control => b.carries p
    | _ => !b.carries p && s.belongs b.ctx t off)

/-- HOST_READ; a byte that is refused comes back with any value (R207, R294, R315; notes/assumptions/92.md). -/
def tryHostRead (p : HostPath) (t : HostTarget) (off n : Nat) (s : State) : Option State :=
  if !s.up p.link && t != .hostMem then none else
  let (s1, v) := if s.tdisp.isEmpty then (s, 0) else s.pick
  let seen (i : Nat) : Byte := if s.refuses p t (off + i) then byteAt v i else s.hostSees t (off + i)
  some { s1 with hostData := (List.range n).map seen }

/-- HOST_READ (R207, R294). -/
def execHostRead (path : HostPath) (t : HostTarget) (off n : Nat) (s : State) : Host.Outcome State Fault Refusal :=
  event (tryHostRead path t off n) s

/-- A byte of the weight store lies in the allotment of a context with an ACTIVE job (R294). -/
def State.wsActive (s : State) (off : Nat) : Bool :=
  s.contexts.any fun c => decide (c.wsBase * 2 ^ 21 ≤ off) && decide (off < (c.wsBase + c.wsSize) * 2 ^ 21) &&
    s.jobs.any fun j => j.ctx == c.id && j.state == .active

/-- A write through BAR2: its bytes land at their homes, but for those of an active allotment, which are dropped and set
WSDROP (R294). -/
def State.wsWrite (s : State) (off : Nat) (bytes : List Byte) : State :=
  let lands (i : Nat) : Bool := decide (off + i < 2 ^ 33)
  let dropped := (List.range bytes.length).any fun i => lands i && s.wsActive (off + i)
  let whole := !dropped && (List.range bytes.length).all lands
  let s1 := if whole then s.storeHome none (wsKey off) bytes 0
    else (List.range bytes.length).foldl (fun t i =>
      if lands i && !s.wsActive (off + i) then t.storeHome none (wsKey (off + i)) [bytes.getD i 0] 0 else t) s
  if dropped then { s1 with wsDrop := true } else s1

/-- WS_HOST_WRITE (R294). -/
def execWsHostWrite (off : Nat) (bytes : List Byte) (s : State) : Host.Outcome State Fault Refusal := .next (s.wsWrite off bytes)

/-- A byte of TAIL of a queue that the device fills: a host write to it is discarded (R44). -/
def State.tailByte (s : State) (off : Nat) : Bool :=
  s.contexts.any fun c =>
    let b := c.qaBase * 4096 + 0x600
    decide (b ≤ off) && decide (off < b + 2048) && decide (16 ≤ (off - b) % 32) && decide ((off - b) % 32 < 24) &&
      !(s.qhead c ((off - b) / 32)).hostp

/-- A host write to bytes of the Quay window, those that `lands` accepts: as one step where it accepts them all. -/
def State.quayWrite (s : State) (off : Nat) (bytes : List Byte) (lands : Nat → Bool) : State :=
  let ok (i : Nat) : Bool := decide (off + i < 0x800000) && lands (off + i)
  if (List.range bytes.length).all ok then s.storeHome none (quayKey off) bytes 0
  else (List.range bytes.length).foldl (fun t i =>
    if ok i then t.storeHome none (quayKey (off + i)) [bytes.getD i 0] 0 else t) s

/-- A host write that lands: in the Quay window at its home, in device memory as pending in the host copy; bytes that an
interface in RUN refuses are dropped (R44, R207, R294, R315). -/
def State.hostLands (s : State) (p : HostPath) (t : HostTarget) (off : Nat) (bytes : List Byte) : State :=
  match t with
  | .quay => if s.attached then s.quayWrite off bytes (fun o => !s.tailByte o && !s.refuses p .quay o) else s
  | .control => if s.refuses p .control off then s else s.ctrlWrite off bytes
  | .weights => s.wsWrite off bytes
  | .device =>
    let cells := ((List.range bytes.length).map fun i => (off + i, bytes.getD i 0)).filter fun c =>
      deviceExists c.1 && !s.refuses p .device c.1
    if cells.isEmpty then s else { s with pending := s.pending ++ [cells] }
  | .hostMem => s.storeHome none (hostKey off) bytes 0

/-- HOST_WRITE (R207, R294, R299). -/
def execHostWrite (path : HostPath) (t : HostTarget) (off : Nat) (bytes : List Byte) (s : State) :
    Host.Outcome State Fault Refusal :=
  event (fun s => if (!s.up path.link && t != .hostMem) || (t == .control && s.ctxBusy off bytes) then none
    else some (s.hostLands path t off bytes)) s

/-! ## SPDM, links and pod (R307, R308, R314, R316) -/

/-- The attach state: HIFSEL as it reads (R295; notes/assumptions/94.md). -/
def State.attachState (s : State) : DWord := BitVec.ofNat 64 (s.hifVer.toNat + (if s.wsDrop then 256 else 0))

/-- The signed measurements: firmware digest, fused configuration, attach state, under SPDM 1.3 or 1.2 (R314). -/
def State.measurements (s : State) (link v13 : Bool) : SpdmAnswer :=
  let ver : Byte := if v13 then 0x13 else 0x12
  { link := link, version := ver, digest := s.measured, config := s.fuseCfg, attach := s.attachState
    sig := Config.spdmSign s.idKey ver s.measured s.fuseCfg s.attachState }

/-- SPDM_MESSAGE over a trained link: an answer with the measurements (R314), or a step of a context's TDISP interface: bound
to a stream of the link, in RUN, unbound (R315; notes/assumptions/92.md). -/
def trySpdmMessage (m : SpdmMsg) (s : State) : Option State :=
  if !s.up m.link then none else
  match m.req with
  | .measure v13 => some { s with spdm := some (s.measurements m.link v13) }
  | .bind ctx stream =>
    if (s.ctx? ctx).isNone || s.tdisp.any (fun b => b.ctx == ctx) then none
    else some { s with tdisp := s.tdisp ++ [{ ctx := ctx, link := m.link, stream := stream, run := false }] }
  | .run ctx =>
    if s.tdisp.any fun b => b.ctx == ctx && b.link == m.link && !b.run then
      some { s with tdisp := s.tdisp.map fun b => if b.ctx = ctx then { b with run := true } else b }
    else none
  | .unbind ctx =>
    if s.tdisp.any fun b => b.ctx == ctx && b.link == m.link then some { s with tdisp := s.tdisp.filter fun b => b.ctx != ctx }
    else none

/-- SPDM_MESSAGE (R314, R315). -/
def execSpdmMessage (msg : SpdmMsg) (s : State) : Host.Outcome State Fault Refusal := event (trySpdmMessage msg) s

/-- LINK_BLOCK_RESEND: a block of flits whose authentication fails is sent again; no state of the module changes (R316). -/
def execLinkBlockResend (_link : BitVec 4) (s : State) : Host.Outcome State Fault Refusal := .next s

/-- The lowest link of a route mask (R307). -/
def lowestLink (mask : Nat) : Option Nat := (List.range 16).find? fun i => bitOf mask i

/-- POD_FORWARD: traffic for a destination leaves on the lowest link of its mask (R307). -/
def execPodForward (dest : BitVec 10) (payload : List Byte) (s : State) : Host.Outcome State Fault Refusal :=
  event (fun s => (lowestLink (s.route dest.toNat)).map fun l => { s with podSent := s.podSent ++ [(l, dest.toNat, payload)] }) s

/-- A pod access translated by a context of this module: the key of its first byte; none where it is refused (R161, R308,
R366). -/
def State.podKey (s : State) (c : Context) (a : PodAccess) : Option Nat :=
  let va := a.va.toNat
  let (rd, wr, atomic) := match a.op with
    | .read _ => (true, false, false)
    | .write .. => (false, true, false)
    | .atom .. => (true, true, true)
  let n := match a.op with | .read n => n | .write bs _ => bs.length | .atom _ t .. => tyBytes t
  if 2 ^ 56 ≤ va then none else
  match s.walk c.ttroot.toNat va with
  | .fault => none
  | .page b z pte =>
    let p := pageOf b z pte
    let key := s.keyAt p (va - b)
    if (atomic && p.target != 0) || !s.pageOpen c.id p (va - b) n || (wr && !p.w) || decide (b + z < va + n) ||
        (rd && c.poisonTrap && (s.firstPoison key n).isSome) then none
    else some key

/-- The release set that a store of another module brings: of a cumulative one, every store at its home here before it (R200,
R209; notes/assumptions/76.md). -/
def State.podSet (s : State) (cumul : Bool) : Nat := if cumul then s.nextSeq else 0

/-- POD_ACCESS_ARRIVAL: an access of another module is performed at its home by the resident context of its PODTAG, or is
refused; a store to a line in flight waits (R161, R179, R209, R308). -/
def tryPodAccess (a : PodAccess) (s : State) : Option State :=
  let reply (s : State) (r : Option (List Byte)) : State := { s with podReply := s.podReply ++ [r] }
  match s.contexts.find? fun c => c.podTag == a.tag && a.tag != 0 with
  | none => some (reply s none)
  | some c =>
    match s.podKey c a with
    | none => some (reply s none)
    | some key =>
      match a.op with
      | .read n => some (reply s (some (s.readHome key n)))
      | .write bs cumul =>
        if s.inFlightAt key bs.length then none else some (reply (s.storeHome none key bs (s.podSet cumul)) (some []))
      | .atom o t x y cumul =>
        if s.inFlightAt key (tyBytes t) then none else
        let (s1, old) := s.atomic none o t key x y (s.podSet cumul)
        some (reply s1 (some (leBytes (tyBytes t) old.1)))

/-- POD_ACCESS_ARRIVAL (R308). -/
def execPodAccessArrival (acc : PodAccess) (s : State) : Host.Outcome State Fault Refusal := event (tryPodAccess acc) s

/-! ## Clocks, refresh and errors (R171, R180, R309-R312) -/

/-- A cluster replaced. -/
def State.setCluster (s : State) (c : Cluster) : State := { s with clusters := upsert (fun x => x.idx == c.idx) c s.clusters }

/-- The end of the refresh window of a bank: FCOUNT of the next multiple of 1,280 (R171). -/
def refreshEnd (fcount : Nat) : Nat := (fcount / 1280 + 1) * 1280

/-- The cycles of every cluster's own clock: of the elastic ones their own, of the fixed ones m, with the event counters of
cycles (R309, R312, R313). -/
def State.cycles (s : State) (n m : Nat) : State :=
  let own (c : Cluster) : Nat := if c.fixed then m else n * c.mhz / 800
  let s1 : State := { s with clusters := (List.range Config.numClusters).map fun i =>
    let c := s.cluster i
    if c.fixed then c else { c with cycle := c.cycle + own c } }
  if s.evCounters.isEmpty then s1 else
  (List.range Config.numClusters).foldl (fun t i => t.count i none 1 (own (s.cluster i))) s1

/-- n cycles of the fixed-timing clock: FCOUNT advances, and every elastic cluster counts its own cycles (R309, R312). -/
def State.tick (s : State) (n : Nat) : State := { s.cycles n n with fcount := s.fcount + n }

/-- A byte of the weight store lies in the bank that refreshes (R170, R171). -/
def State.refreshing (s : State) (off : Nat) : Bool := off / 256 % 32 == s.fcount / 1280 % 32

/-- The weight loads and weight-store loads that stand before the refreshing bank: the clusters and contexts whose cycles they
stall (R171, R313). -/
def State.refreshStalls (s : State) : List (Nat × Nat) :=
  let load (w : WEntry) : Option (Nat × Nat) :=
    let t := tensorOf w.image
    match lineAt (tileFetch t w.prog w.r0 w.c0 w.layer) w.cursor, s.group? w.issuer with
    | f :: _, some g =>
      if w.st == .loading && !w.paused && t.space == .ws && s.refreshing f.va then some (g.host / 8, w.owner) else none
    | _, _ => none
  let queued (g : Group) : Bool := g.queue.any fun e =>
    e.isLoad && decide (wsKey 0 ≤ e.key) && decide (e.key < spKey 0 0) && s.refreshing (e.key - wsKey 0)
  let of (gs : List Group) : List (Nat × Nat) := (gs.filter queued).map fun g => (g.host / 8, g.ctx)
  ((s.cores.map fun c => c.wbuf.filterMap load ++ of (match c.front with | some f => [f.group] | none => [])).flatten ++
    (s.gangs.map fun x => if x.state = .resident then of x.groups else []).flatten).eraseDups

/-- WS_REFRESH_WINDOW: the refreshing bank's window ends, and with it the stall of what met it; only time passes, and each
cluster counts, for a context that it stalled, some of the window's cycles (R171, R313; notes/assumptions/13.md). -/
def execWsRefreshWindow (s : State) : Host.Outcome State Fault Refusal :=
  let n := refreshEnd s.fcount - s.fcount
  let own (i : Nat) : Nat := let c := s.cluster i; if c.fixed then n else n * c.mhz / 800
  .next (s.refreshStalls.foldl (fun t x =>
    let y := t.pick
    y.1.count x.1 (some x.2) 0x0A (y.2 % (own x.1 + 1))) (s.tick n))

/-- POWER_BUBBLE: a cycle of stopped clock in every fixed-timing cluster and in FCOUNT, at most one cycle in 16; elastic
clusters go on (R311). -/
def tryPowerBubble (s : State) : Option State :=
  if s.lastBubble.any fun f => decide (s.fcount < f + 15) then none else
  some (((List.range Config.numClusters).filter fun i => (s.cluster i).fixed).foldl (fun t i => t.count i none 0x10 1)
    { s.cycles 1 0 with lastBubble := some s.fcount })

/-- POWER_BUBBLE (R311). -/
def execPowerBubble (s : State) : Host.Outcome State Fault Refusal := event tryPowerBubble s

/-- CYCLE_STRETCH: a cycle of an elastic cluster is stretched (R309). -/
def execCycleStretch (cluster : Nat) (s : State) : Host.Outcome State Fault Refusal :=
  event (fun s =>
    let c := s.cluster cluster
    if c.fixed || decide (Config.numClusters ≤ cluster) then none
    else some (((s.setCluster { c with cycle := c.cycle + 1, stretched := c.stretched + 1 }).count cluster none 1 1).count
      cluster none 0x11 1)) s

/-- A cluster holds no gang's resources and no front (R310). -/
def State.drained (s : State) (cluster : Nat) : Bool :=
  (List.range 8).all fun i => (s.holding (8 * cluster + i)).isEmpty && (s.core (8 * cluster + i)).front.isNone

/-- CLUSTER_MODE_CHANGE: a drained cluster changes mode; its CYCLE goes on from what it held (R310, R312). -/
def execClusterModeChange (cluster : Nat) (fixed : Bool) (s : State) : Host.Outcome State Fault Refusal :=
  event (fun s =>
    let c := s.cluster cluster
    if c.fixed == fixed || decide (Config.numClusters ≤ cluster) || !s.drained cluster then none
    else some (s.setCluster { c with fixed := fixed, cycle := if fixed then c.cycle else s.fcount, mhz := 800 })) s

/-- ELASTIC_CLOCK_CHANGE: the clock of an elastic cluster, from 400 to 960 MHz (R309). -/
def execElasticClockChange (cluster mhz : Nat) (s : State) : Host.Outcome State Fault Refusal :=
  event (fun s =>
    let c := s.cluster cluster
    if c.fixed || decide (Config.numClusters ≤ cluster) || decide (mhz < 400) || decide (960 < mhz) then none
    else some (s.setCluster { c with mhz := mhz })) s

/-- SOFT_ERROR: an uncorrectable error marks a line of device memory poisoned, or leaves a reserved tag in the metadata of a
line that may be held compressed (R176, R180). -/
def trySoftError (addr : Nat) (s : State) : Option State :=
  if !deviceExists addr then none
  else if s.poisonAt addr || !s.compressible addr then some (s.poison addr)
  else
    let (s1, tag) := s.toss
    let (s2, v) := s1.pick
    some (if tag then s2.setTag (lineOf addr) (7 + v % 9) else s2.poison addr)

/-- SOFT_ERROR (R180). -/
def execSoftError (addr : Nat) (s : State) : Host.Outcome State Fault Refusal := event (trySoftError addr) s

end Sys2Proof.Machine
end

