-- ==== Sys2Proof/Machine/Commands.lean ====
section
/-!
DEFINITION. The command ring (R304): RESUME, ABORT, MIGRATE and what is ignored; page migration, line by line, and its swap
(R179, R305); resumption of agents and engines, on a core or in a save area (R273, R276, R289).
-/
namespace Sys2Proof.Machine

open Sys2Proof

/-! ## The ring (R302, R304) -/

/-- The oldest command of a context, read behind an Import step: the state, the ring, OP and ARG (R304). -/
def State.command (s : State) (ctx : Nat) : Option (State × Ring × Nat × Nat) :=
  match s.ctx? ctx with
  | none => none
  | some c =>
    match s.ring? c 0x60 16 with
    | none => none
    | some r =>
      if !s.attached || r.count = 0 || s.importStalls then none else
      let s1 := s.importStep none
      let v := s1.homeNat (c.qkey (r.entry 16 r.head)) 16
      some (s1, r, v % 256, v / 2 ^ 64)

/-- A command with an OP that `is` accepts is acted on, and HEAD advances (R304). -/
def State.act (s : State) (ctx : Nat) (is : Nat → Bool) (f : State → Nat → Option State) : Option State :=
  match s.command ctx with
  | none => none
  | some (s1, r, op, arg) => if is op then (f s1 arg).map fun t => t.ringPop r else none

/-! ## RESUME (R273, R276, R289, R304) -/

/-- A sleeping split or front issues at TRAPPC; the siblings that its breakpoint held go on (R273, R276). -/
def State.resumeAgent (s : State) (a : Agent) : State :=
  match s.issueOf a ⟨false, .l0, 0⟩ with
  | none => s
  | some m =>
    if m.k.state != .sleeping then s else
    let g := m.g.releaseHeld m.k.no
    let k := { m.k.ready (s.now m.g) with hold := .none }
    let k := if k.inHandler then { k with pc := k.trapPc, noFuseIn := k.noFuseIn.filter (· == k.trapPc) } else k.returned
    let s1 := ({ m with g := g, k := k }).commit
    match a with
    | .split gang _ _ => s1.resave gang
    | .front _ => s1

/-- A weight load goes on from its failing line, on the core or in its core-state area. -/
def State.resumeLoad (s : State) (ctx core e : Nat) : State :=
  let k := s.core core
  let go (w : WEntry) : WEntry := if w.owner = ctx ∧ w.no = e ∧ w.st = .loading then { w with paused := false } else w
  s.setCore { k with wbuf := k.wbuf.map go, saved := k.saved.map fun x => (x.1, x.2.1.map go, x.2.2) }

/-- What a fault put to sleep goes on (R304). -/
def State.resumeSrc (s : State) (ctx : Nat) (src : FaultSrc) : State :=
  match src with
  | .agent a => s.resumeAgent a
  | .copy id =>
    match s.cmd? id with
    | some c => s.setCmd { c with paused := false }
    | none => s
  | .wbuf core e => s.resumeLoad ctx core e

/-- RESUME: the sleeper whose fault has SEQ = ARG goes on; a SEQ that names none is ignored (R304). -/
def tryResume (ctx : Nat) (s : State) : Option State :=
  s.act ctx (· == 1) fun s seq =>
    let c := s.ctx ctx
    match c.sleepers.find? fun f => f.1 == seq with
    | none => some s
    | some (_, src) => some ((s.setCtx { c with sleepers := c.sleepers.filter fun f => f.1 != seq }).resumeSrc ctx src)

/-- RESUME (R304). -/
def execResume (ctx : Nat) (s : State) : Host.Outcome State Fault Refusal := event (tryResume ctx) s

/-! ## ABORT (R304) -/

/-- An agent of a job has a run in progress that does not stall (R54). -/
def State.jobBusy (s : State) (job : Nat) : Bool :=
  s.runs.any fun r => !r.stalled && ((s.group? (qidOf r.agent)).any fun g => g.job == job)

/-- The QUEUED jobs of a context with a completion index are marked, to complete as their records are read (R32, R304;
notes/assumptions/114.md). -/
def State.abortQueued (s : State) (ctx arg : Nat) : State :=
  match s.ctx? ctx with
  | none => s
  | some c =>
    match s.ring? c 0 64 with
    | none => s
    | some q => s.setCtx { c with aborted := c.aborted ++ (s.queuedJobs c).filter fun n => s.cidxOf c q n == arg }

/-- ABORT: every job of the context with CIDX = ARG that is not COMPLETE stops, between runs; it completes behind its stores, a
QUEUED one as its record is read (R32, R47, R304). -/
def tryAbort (ctx : Nat) (s : State) : Option State :=
  s.act ctx (· == 2) fun s arg =>
    let js := s.jobs.filter fun j => j.ctx == ctx && j.cidx == arg && j.state != .complete && j.state != .stopped
    if js.any (fun j => s.jobBusy j.uid) then none
    else some ((js.foldl (fun s j => s.stopJob j stAborted) s).abortQueued ctx arg)

/-- ABORT (R304). -/
def execAbort (ctx : Nat) (s : State) : Host.Outcome State Fault Refusal := event (tryAbort ctx) s

/-- CMD_UNKNOWN: any other OP is ignored (R304). -/
def tryCmdUnknown (ctx : Nat) (s : State) : Option State :=
  s.act ctx (fun op => op != 1 && op != 2 && op != 3) fun s _ => some s

/-- CMD_UNKNOWN (R304). -/
def execCmdUnknown (ctx : Nat) (s : State) : Host.Outcome State Fault Refusal := event (tryCmdUnknown ctx) s

/-! ## Migration (R179, R305) -/

/-- The leaf that maps an address: its key, the log of its page size, and the entry (R164). -/
def leafFrom (rd : Nat → Nat) (va : Nat) : List (Nat × Nat × Option Nat) → Nat → Option (Nat × Nat × Nat)
  | [], _ => none
  | (sh, ib, lb) :: r, table =>
    let at' := table + 8 * ((va >>> sh) % 2 ^ ib)
    if !deviceExists at' then none else
    let pte := rd at'
    if !bitOf pte 0 || !pteOk pte lb r.isEmpty then none
    else if bitOf pte 1 then lb.map fun b => (at', b, pte)
    else leafFrom rd va r (bitsOf pte 51 8 * 256)

/-- A leaf of a context. -/
def State.leaf (s : State) (c : Context) (va : Nat) : Option (Nat × Nat × Nat) :=
  leafFrom (fun a => s.homeNat a 8) va levels c.ttroot.toNat

/-- NEWPTE is a leaf for a page of 2^b bytes that this module can reach (R165, R305). -/
def State.destOk (s : State) (b pte : Nat) : Bool :=
  bitOf pte 0 && bitOf pte 1 && pteOk pte (some b) true && (bitsOf pte 5 4 != 2 || s.reaches (BitVec.ofNat 32 (bitsOf pte 61 52)))

/-- RESULT and DONE of a descriptor, as one store (R305). -/
def State.migrationDone (s : State) (c : Context) (off result : Nat) : State :=
  s.storeNat (c.qkey (off + 24)) 8 (2 ^ 63 + result)

/-- MIGRATE: the descriptor is checked and a migration starts, or RESULT names what is wrong; an ARG that names no descriptor
is ignored (R305). -/
def tryMigrate (ctx : Nat) (s : State) : Option State :=
  s.act ctx (· == 3) fun s off =>
    let c := s.ctx ctx
    if off < 0x1000 ∨ off % 32 ≠ 0 ∨ c.qaBytes < off + 32 then some s else
    let d := s.homeNat (c.qkey off) 32
    let va := bitsOf d 55 0
    let new := bitsOf d 127 64
    if !zeroBits d [(254, 200), (191, 128), (63, 56)] then some (s.migrationDone c off 4)
    else
      match s.leaf c va with
      | none => some (s.migrationDone c off 1)
      | some (key, b, old) =>
        if va % 2 ^ b ≠ 0 then some (s.migrationDone c off 4)
        else if !s.destOk b new then some (s.migrationDone c off 2)
        else if s.migrations.any fun m => m.ctx == ctx && m.va == va then some (s.migrationDone c off 3)
        else
          let m : Migration := { id := s.nextUid, ctx := ctx, desc := off, va := va, size := 2 ^ b, pteKey := key
                                 src := s.keyAt (pageOf va (2 ^ b) (BitVec.ofNat 64 old)) 0
                                 dst := s.keyAt (pageOf va (2 ^ b) (BitVec.ofNat 64 new)) 0
                                 newPte := BitVec.ofNat 64 new, moved := [] }
          some { s with migrations := s.migrations ++ [m], nextUid := s.nextUid + 1 }

/-- MIGRATE (R305). -/
def execMigrate (ctx : Nat) (s : State) : Host.Outcome State Fault Refusal := event (tryMigrate ctx) s

/-- The Guluirel version of the link on which traffic for a module leaves; 0 for a link that is down (R296, R307). -/
def State.podVersion (s : State) (dev : Nat) : Nat :=
  ((lowestLink (s.route dev)).bind fun l => (s.gulVer.find? fun v => v.1 == l).map (·.2)).getD 0

/-- A migrated line travels compressed, with its tag: to another module over a link of version 2, where its page may be held
compressed there (R179, R296). -/
def State.travels (s : State) (m : Migration) (src dst : Nat) : Bool :=
  let pte := m.newPte.toNat
  let dev := bitsOf pte 61 52
  bitsOf pte 5 4 == 2 && dev != s.devid.toNat && s.podVersion dev == 2 && s.compressible dst && s.tagOf (lineOf src) != 0

/-- MIGRATE_LINE: a line of the page is copied to its destination, with its poison mark, and stored there in the encoding in which
it travels or that its controller chooses (R177, R179, R296); from then on a write is performed at both (R179). -/
def tryMigrateLine (mig line : Nat) (s : State) : Option State :=
  match s.migrations.find? fun m => m.id == mig with
  | none => none
  | some m =>
    if m.moved.contains line || decide (m.size / 128 ≤ line) then none else
    let src := m.src + 128 * line
    let dst := m.dst + 128 * line
    let bad := s.poisonAt src && stored dst
    let s1 := (s.rawPut dst (cellsGet s.mem src 128)).clearPoison [lineOf dst]
    let s2 := if bad then s1.poison dst
      else if s.travels m src dst then s1.setTag (lineOf dst) (s.tagOf (lineOf src))
      else s1.recompress dst 128
    some { s2 with migrations := replaceFirst (fun x => x.id == mig) { m with moved := line :: m.moved } s2.migrations }

/-- MIGRATE_LINE (R179). -/
def execMigrateLine (mig line : Nat) (s : State) : Host.Outcome State Fault Refusal := event (tryMigrateLine mig line) s

/-- The keys that a tile operation has yet to write. -/
def TileKind.keys : TileKind → List Nat
  | .mrdS _ _ _ _ lines => lines.map fun x => x.2.1
  | .mrdRec writes _ => writes.map (·.1)
  | .mrdTick _ _ ctr dst _ _ writes _ _ => ctr :: (dst.map fun x => x.2.1) ++ writes.map (·.1)
  | .gpatch _ _ _ _ exts _ => exts
  | _ => []

/-- Accesses of a group that have been translated lie in a range of keys. -/
def Group.uses (g : Group) (key n : Nat) : Bool :=
  (g.queue.any fun e => decide (e.key < key + n) && decide (key < e.key + e.n)) ||
  g.ops.any fun o => o.kind.keys.any fun k => decide (key ≤ k) && decide (k < key + n)

/-- The counts of a job's reducing copies go with the n lines of a page from one line on to another (R179, R184;
notes/assumptions/112.md). -/
def Job.carryRegions (j : Job) (src dst n : Nat) : Job :=
  let within (a x : Nat) : Bool := decide (a ≤ x) && decide (x < a + n)
  { j with redNext := (j.redNext.filter fun y => !within dst y.1 || within src y.1).map fun y =>
      if within src y.1 then (dst + (y.1 - src), y.2) else y }

/-- MIGRATE_SWAP: every line has moved and the accesses translated before have been performed: the leaf entry is written, the
page's translations are dropped on every core, the counts of reducing copies go with its lines, and RESULT and DONE are written
(R179, R184, R305). -/
def tryMigrateSwap (mig : Nat) (s : State) : Option State :=
  match s.migrations.find? fun m => m.id == mig with
  | none => none
  | some m =>
    let busy := s.gangs.any (fun x => x.groups.any fun g => g.uses m.src m.size) ||
      s.cores.any fun k => k.front.any fun f => f.group.uses m.src m.size
    if !(List.range (m.size / 128)).all (fun i => m.moved.contains i) || busy then none else
    let s1 := { s with migrations := s.migrations.filter fun x => x.id != mig
                       jobs := s.jobs.map fun (j : Job) => j.carryRegions (lineOf m.src) (lineOf m.dst) (m.size / 128) }
    let s2 := s1.storeNat m.pteKey 8 m.newPte.toNat
    let s3 := { s2 with cores := s2.cores.map fun (k : Core) => k.dropTlb m.ctx (some m.va) }
    some (s3.migrationDone (s3.ctx m.ctx) m.desc 0)

/-- MIGRATE_SWAP (R305). -/
def execMigrateSwap (mig : Nat) (s : State) : Host.Outcome State Fault Refusal := event (tryMigrateSwap mig) s

end Sys2Proof.Machine
end

