-- ==== Sys2Proof/Machine/Fused.lean ====
section
/-!
DEFINITION. The fused sequence VMAX, VSUB, VEXP2, VADD (R156, R157).
-/
namespace Sys2Proof.Machine

open Sys2Proof

/-- A header that the decoder fuses: LEN 00 or 01; the first three without BND (R156). -/
def fuseHd (h : Hd) (last : Bool) : Bool := (h.len == .l0 || h.len == .l1) && (last || !h.bnd)

/-- Four instructions of the fused shape (R156). -/
def fusedOf : List Instr → Option FusedOps
  | [.vmax h1 .f32 m p (.reg q), .vsub h2 .f32 .ne e x (.reg m'), .vexp2 h3 .f32 .ne f e', .vadd h4 .f32 .ne s t (.reg f')] =>
    if fuseHd h1 false && fuseHd h2 false && fuseHd h3 false && fuseHd h4 true &&
        !([m, p, q, e, x, m', f, e', s, t, f'].any (·.ind)) && m == m' && e == e' && f == f' then
      some { h1 := h1, h2 := h2, h3 := h3, h4 := h4, vM := m.n, vP := p.n, vQ := q.n, vE := e.n, vX := x.n, vF := f.n
             vS := s.n, vT := t.n }
    else none
  | _ => none

/-- The four instructions of a fused sequence, in order. -/
def fusedInstrs (f : FusedOps) : List Instr :=
  [.vmax f.h1 .f32 (plain f.vM) (plain f.vP) (.reg (plain f.vQ)),
   .vsub f.h2 .f32 .ne (plain f.vE) (plain f.vX) (.reg (plain f.vM)),
   .vexp2 f.h3 .f32 .ne (plain f.vF) (plain f.vE),
   .vadd f.h4 .f32 .ne (plain f.vS) (plain f.vT) (.reg (plain f.vF))]

/-- The words of the first three instructions. -/
def fusedLead (f : FusedOps) : Nat := lenWords f.h1.len + lenWords f.h2.len + lenWords f.h3.len

/-- One of the four: its lanes written, its flags beside those so far. -/
def Issue.fuseStep (x : Issue × FFlags) (d : RegNo) (r : Issue → Nat → Res) : Issue × FFlags :=
  let rs := x.1.active.map fun i => (i, r x.1 i)
  (x.1.vputT .f32 d.toNat x.1.active fun i => ((rs.find? fun y => y.1 == i).map (·.2.1)).getD 0,
   rs.foldl (fun fl y => fl ||| y.2.2) x.2)

/-- The fused operation: the registers and flags of the four in sequence, each rounded as written; a trap of any of them is
raised at the VMAX with nothing changed, and that VMAX does not fuse when it issues again (R156, R157). -/
def Issue.fused (m : Issue) (f : FusedOps) : State :=
  let mode := m.g.fpmode
  let a1 := Issue.fuseStep (m, 0) f.vM fun n i => arith2 .max .f32 mode .ne (n.vval .f32 f.vP.toNat i) (n.vval .f32 f.vQ.toNat i)
  let a2 := Issue.fuseStep a1 f.vE fun n i => arith2 .sub .f32 mode .ne (n.vval .f32 f.vX.toNat i) (n.vval .f32 f.vM.toNat i)
  let a3 := Issue.fuseStep a2 f.vF fun n i => funOp .exp2 .f32 mode .ne (n.vval .f32 f.vE.toNat i)
  let a4 := Issue.fuseStep a3 f.vS fun n i => arith2 .add .f32 mode .ne (n.vval .f32 f.vT.toNat i) (n.vval .f32 f.vF.toNat i)
  if m.g.fpTraps a4.2 then ({ m with k := m.k.setAlone m.k.inHandler (some m.k.pc) }).raise .fpexc 0 0
  else
    let n := a4.1
    ({ n with g := n.g.orFlags a4.2, h := f.h4
              k := { n.k with pc := n.k.pc + BitVec.ofNat 64 (4 * fusedLead f) } }).done

/-- FUSED_EXP_SUM: the checks of the four, then the fused operation (R156). -/
def execFusedExpSum (f : FusedOps) (s : State) : Host.Outcome State Fault Refusal :=
  match s.issuer f.h1 with
  | none => .fault .noIssuer
  | some m =>
    let vs := (fusedInstrs f).map m.verdict
    .next (match vs.find? (· != .go) with
      | some (.trap c) => m.raise c 0 0
      | some .stall => m.stall
      | _ => ({ m with mf := (fusedInstrs f).any fun i => mayFault i m.g.fpmode } : Issue).fused f)

end Sys2Proof.Machine
end

