-- ==== Sys2Proof/Machine/Queues.lean ====
section
/-!
DEFINITION. The record queues: EMIT, ENQ and reservations (R43, R44, R343-R346), the gatherer and DEQ (R45, R48, R338).
-/
namespace Sys2Proof.Machine

open Sys2Proof

/-! ## Producers -/

/-- The capacity of a queue in records: R42 gives LOG2CAP the values 0 to 20, and another leaves it free, within 2^20 records
(R11; notes/assumptions/89.md). -/
def QHead.cap (h : QHead) : Nat := if h.lg ≤ 20 then 2 ^ h.lg else Config.queueCap h.lg % 2 ^ 20 + 1
/-- Records between HEAD and TAIL. -/
def QHead.count (h : QHead) : Nat := (h.tail + 2 ^ 64 - h.head) % 2 ^ 64
/-- The virtual address of record n (R42). -/
def QHead.record (h : QHead) (n : Nat) : Nat := h.base + 64 * (n % h.cap)

/-- The queue that a scalar names: below 64, bound to the job and enabled (R48, R344); none raises PROT. -/
def Issue.queueOf (m : Issue) (q : Word) : Option (Nat × QHead) :=
  let bound := ((m.s.jobOf m.g).map (·.qmask)).getD 0
  if q.toNat ≥ 64 || !bound.getLsbD q.toNat then none else
  let h := m.s.qhead m.ctx q.toNat
  if h.en then some (q.toNat, h) else none

/-- An entry point that EMIT and ENQ accept (R343). -/
def entryOk (e : Nat) : Bool := e != 0 && e % 4 == 0 && decide (e < 2 ^ 56)
/-- The entry point of a record. -/
def entryPoint (r : List Byte) : Nat := leNat (r.take 8)

/-- What a reservation meets: no room or unsettled queues, a failed write check, or the first sequence number (R43, R44,
R346). -/
inductive Reserved where
  | wait (s : State)
  | bad (s : State) (b : Bad)
  | diverged (s : State)
  | done (s : State) (first : Nat)

/-- A reservation at the queue's home, by the instruction at a position of its group's queues: once the older stores have drained
and the older loads been performed, the records are written as cumulative releases, then TAIL advances (R43, R346). -/
def State.reserve (s : State) (g : Group) (pos q : Nat) (recs : List (List Byte)) : Reserved :=
  let h := s.qhead (s.ctx g.ctx) q
  if h.count + recs.length > h.cap || g.queue.any (fun e => !e.isMark && decide (e.pos < pos)) then .wait s else
  let places := (List.range recs.length).map fun i => (i, h.record (h.tail + i))
  match Chk.all { s := s, memo := [] } (fun c a => c.loc (s.who g) .gv a 64 false true) places with
  | (c, .error b) => .bad c.s b
  | (c, .ok ls) =>
    if ls.any fun x => c.s.inFlightAt x.2.key 64 then .wait c.s else
    match c.s.traced g.job g.lcore .reservation (g.tracedAs ++ [q, h.tail, recs.length]) with
    | .later => .wait c.s
    | .diverged => .diverged (((c.s.job? g.job).map fun j => c.s.stopJob j stTraceDiverge).getD c.s)
    | .ok s1 =>
      let s2 := ls.foldl (fun s x => s.storeHome (some g.host) x.2.key (recs.getD x.1 []) s.nextSeq) s1
      .done (s2.storeNat (h.key + 16) 8 (h.tail + recs.length)) h.tail

/-- The instruction whose reservation is made is complete: ENQ receives the first number (R345). -/
def Issue.reserved (m : Issue) (dest : Option (SReg × SReg)) (first : Nat) : Issue :=
  let v : DWord := BitVec.ofNat 64 first
  match dest with
  | none => m
  | some (a, b) =>
    let put (m : Issue) (r : SReg) (w : Word) : Issue :=
      match r with
      | .mask _ i => m.sput i w
      | .slot n => { m with g := m.g.setScal n w }
    put (put m a (v.extractLsb' 0 32)) b (v.extractLsb' 32 32)

/-- EMIT and ENQ behind their checks: the reservation is made at once, or a group's split holds it, READY but not eligible,
and a front stalls (R44, R346). -/
def Issue.produce (m : Issue) (q : Nat) (recs : List (List Byte)) (dest : Option (SReg × SReg)) (access : BitVec 4) : State :=
  match m.s.reserve m.g m.g.nextPos q recs with
  | .done s1 first => (({ m with s := s1 }).reserved dest first).done
  | .bad s1 b => m.fail s1 b access
  | .diverged s1 => s1
  | .wait s1 =>
    let h : Hold := .reserve q recs dest
    let n := { m with s := s1, k := { m.k with pos := m.g.nextPos } }
    if m.g.isFront then ({ n with k := { n.k with hold := h } }).stallKeep else n.holdAt h

/-- EMIT: one record per active lane (R344, R346). -/
def execEmit (h : Hd) (a b : RegNo) (s : State) : Host.Outcome State Fault Refusal :=
  issue (.emit h a b) h s fun m =>
    if m.active.isEmpty then m.done else
    match m.queueOf (m.sget a.toNat) with
    | none => m.raise .prot 2 0
    | some (q, hd) =>
      let recs := m.active.map fun i =>
        ((List.range 16).map fun w => leBytes 4 (lane (m.vget (b.toNat + w)) i).toNat).flatten
      if hd.hostp || decide (m.active.length > hd.cap) || !recs.all (fun r => entryOk (entryPoint r)) then m.raise .prot 2 0
      else m.produce q recs none 2

/-- ENQ: the checks of R345 in order, the records read from scratchpad as loads in the issuer's queue (R319, R345, R346). -/
def execEnq (h : Hd) (d a b : RegNo) (cnt : BitVec 3) (s : State) : Host.Outcome State Fault Refusal :=
  issue (.enq h d a b cnt) h s fun m =>
    match m.k.hold, (m.s.who m.g).sp with
    | .reserve .., _ => m.stall
    | _, none => m.stall
    | _, some _ =>
      match m.queueOf (m.sget a.toNat) with
      | none => m.raise .prot 6 0
      | some (q, hd) =>
        let n := cnt.toNat + 1
        let off := (m.sget b.toNat).toNat
        if hd.hostp then m.raise .prot 6 0
        else if off % 64 ≠ 0 then m.raise .align 6 off
        else
          let at' (rd : Bool) := Chk.loc { s := m.s, memo := [] } (m.s.who m.g) .sp off (64 * n) rd false
          match at' false, at' true with
          | (c, .error x), _ => m.fail c.s x 6
          | _, (c, r) =>
            if n > hd.cap then m.fail c.s ⟨.prot, 0⟩ 6 else
            match r with
            | .error x => m.fail c.s x 6
            | .ok l =>
            match m.g.loadNow c.s l.key (64 * n) false with
            | none => ({ m with s := c.s }).stall
            | some (s1, bs) =>
              let recs := (List.range n).map fun i => (bs.drop (64 * i)).take 64
              if !recs.all (fun r => entryOk (entryPoint r)) then m.fail s1 ⟨.prot, 0⟩ 6
              else ({ m with s := s1 }).produce q recs (some (m.sreg d.toNat, m.sreg (d.toNat + 1))) 6

/-- QUEUE_RESERVE: a held reservation is made once the queue has room and the issuer's older accesses are over; the instruction
is complete (R44, R346). One that fails its check while a breakpoint holds its split, or while its gang is being evicted, stays (R29,
R289; notes/assumptions/98.md). -/
def tryQueueReserve (a : Agent) (s : State) : Option State :=
  match s.issueOf a ⟨false, .l0, 0⟩ with
  | none => none
  | some m =>
    match m.k.hold with
    | .reserve q recs dest =>
      let ready (s : State) : State := { s with runs := s.runs.filter fun r => !(r.agent == a) }
      match s.reserve m.g m.k.pos q recs with
      | .wait _ => none
      | .diverged s1 => some s1
      | .bad s1 b => if m.k.state = .held || s.evicting (qidOf a) then none else some ((ready s1).raiseTrap a b.cause (if dest.isSome then 6 else 2) m.k.pc b.addr 0)
      | .done s1 first =>
        let n := ({ m with s := s1, k := { m.k with hold := .none } }).reserved dest first
        some (ready ({ n with k := n.k.resume 1 (n.s.now n.g) }).commit)
    | _ => none

/-- QUEUE_RESERVE (R44). -/
def execQueueReserve (a : Agent) (s : State) : Host.Outcome State Fault Refusal := event (tryQueueReserve a) s

/-! ## The gatherer (R44, R45) -/

/-- What the gatherer holds of a queue of a context. -/
def Context.gather (c : Context) (q : Nat) : Gather :=
  (c.gathers.find? fun g => g.q == q).getD { q := q, delivered := [], hold := none, seenTail := 0 }
def Context.setGather (c : Context) (g : Gather) : Context :=
  { c with gathers := upsert (fun x => x.q == g.q) g c.gathers }

/-- QUEUE_HOST_IMPORT: the gatherer observes a host write that has advanced TAIL, and takes an Import step (R44). -/
def tryQueueHostImport (ctx q : Nat) (s : State) : Option State :=
  match s.ctx? ctx with
  | none => none
  | some c =>
    let h := s.qhead c q
    if q ≥ 64 || !h.hostp || (c.gather q).seenTail = h.tail || s.importStalls then none
    else
      let s1 := s.importStep none
      some (s1.setCtx ((s1.ctx ctx).setGather { c.gather q with seenTail := h.tail }))

/-- QUEUE_HOST_IMPORT (R44). -/
def execQueueHostImport (ctx q : Nat) (s : State) : Host.Outcome State Fault Refusal := event (tryQueueHostImport ctx q) s

/-- The DEQs that wait on a queue of a context, on resident gangs: arrival, agent, D and B (R45, R338). -/
def State.deqWaiters (s : State) (ctx q : Nat) : List (Nat × Agent × Nat × Nat) :=
  ((s.gangs.filter fun x => x.state == .resident && !x.held).map fun x =>
    (x.groups.map fun g =>
      if g.ctx ≠ ctx then [] else
      (g.splits.map fun k =>
        match k.waiting, k.wait with
        | true, .deq n q' d b => if q' = q then [(n, Agent.split x.uid g.idx k.no, d, b)] else []
        | _, _ => []).flatten).flatten).flatten

/-- Waiters in the order in which they reached the gatherer. -/
def insertWaiter (w : Nat × Agent × Nat × Nat) : List (Nat × Agent × Nat × Nat) → List (Nat × Agent × Nat × Nat)
  | [] => [w]
  | x :: r => if w.1 < x.1 then w :: x :: r else x :: insertWaiter w r

/-- The entry point of a record, read at its home; none where the read meets a fault (R45). -/
def State.entryAt (s : State) (ctx va : Nat) : Option Nat :=
  if va ≥ 2 ^ 56 then none else
  match s.walk (s.ctx ctx).ttroot.toNat va with
  | .fault => none
  | .page b z pte =>
    let p := pageOf b z pte
    let key := s.keyAt p (va - b)
    if !s.pageOpen ctx p (va - b) 64 || ((s.ctx ctx).poisonTrap && (s.firstPoison key 64).isSome) then none
    else some (s.homeNat key 8)

/-- Further records may still arrive on a queue (R45). -/
def State.mayArrive (s : State) (ctx q : Nat) (h : QHead) : Bool :=
  h.hostp || s.reserving (fun g => g.ctx == ctx) (some q) ||
  s.jobs.any fun j => j.ctx == ctx && j.qmask.getLsbD q && j.state != .complete && !s.allInDeq j.uid

/-- The window of undelivered records of a queue; of one that the host fills, those that an Import step stands behind (R44,
R45). -/
def gatherWindow (h : QHead) (g : Gather) : List Nat :=
  let seen := (g.seenTail + 2 ^ 64 - h.head) % 2 ^ 64
  let n := min (if !h.hostp then h.count else if seen ≤ h.count then seen else 0) 4096
  ((List.range n).map fun i => (h.head + i) % 2 ^ 64).filter fun x => !g.delivered.contains x

/-- HEAD past every delivered record at its front (R45). -/
def advanceHead : Nat → Nat → List Nat → Nat × List Nat
  | 0, head, d => (head, d)
  | n + 1, head, d =>
    if d.contains head then advanceHead n ((head + 1) % 2 ^ 64) (d.filter (· != head)) else (head, d)

/-- The checks of a batch's payload reads: every key, or the failure at the lowest record address (R48, R338). -/
def batchReads (w : Who) : Chk → List Nat → Chk × List Nat × Option Bad
  | c, [] => (c, [], none)
  | c, a :: r =>
    let (c1, x) := c.loc w .gv a 64 true false
    let (c2, ks, b) := batchReads w c1 r
    match x, b with
    | .ok l, b => (c2, l.key :: ks, b)
    | .error e, none => (c2, ks, some e)
    | .error e, some b => (c2, ks, some (if e.addr < b.addr then e else b))

/-- A batch reaches a DEQ: payload registers, mask and entry pair; each record is read at its home by the core, whose view
takes its release set. A fault of a read changes nothing, and the batch goes back undelivered (R43, R48, R338, R346). -/
def State.giveBatch (s : State) (ctx q : Nat) (h : QHead) (ag : Agent) (d b : Nat) (batch : List Nat) : Option State :=
  match s.issueOf ag ⟨false, .l0, 0⟩ with
  | none => none
  | some m =>
    match batchReads (s.who m.g) { s := s, memo := [] } (batch.map h.record) with
    | (c, _, some e) => some (c.s.raiseTrap ag e.cause 1 m.k.pc e.addr 0)
    | (c, keys, none) =>
      c.s.inTrace m.g.job m.g.lcore .batch (m.g.tracedAs ++ q :: batch) fun s =>
        let recs := keys.map fun k => s.readHome k 64
        let s1 := keys.foldl (fun s k => if viewed k then s.viewHome m.g.host k 64 else s) s
        let n := batch.length
        let m1 : Issue := { m with s := s1 }
        let m2 := (List.range 14).foldl (fun (m : Issue) w =>
          m.vput (d + w) (List.range n) fun i => BitVec.ofNat 32 (leNat (((recs.getD i []).drop (8 + 4 * w)).take 4))) m1
        let m3 : Issue := { m2 with k := { m2.k with mask := maskOf (List.range n) &&& m2.k.owned } }
        let m4 := m3.sput2 b (BitVec.ofNat 64 (entryPoint (recs.getD 0 [])))
        let s2 := ({ m4 with k := m4.k.resume 1 (m4.s.now m4.g) }).commit
        let c2 := s2.ctx ctx
        let g2 := c2.gather q
        let (head, left) := advanceHead 4096 h.head (g2.delivered ++ batch)
        let s3 := s2.setCtx (c2.setGather { g2 with delivered := left, hold := none })
        some (if head = h.head then s3 else s3.storeNat (h.key + 24) 8 head)

/-- What a replay says of a waiting DEQ: the recorded batch is handed out, it waits for its turn or its records, or the
records are not those of the recording (R59). -/
inductive Replay where
  | give (batch : List Nat)
  | later
  | diverged

/-- The recorded batch of a group's DEQ on a queue. It is handed out when it is its core's next event, at most 96 records in
ascending order with one entry point (R11, R45); it waits while its records have still to arrive, while its group's batches come
later in the trace, and while another batch that the trace still awaits, or another job, may take the records that stand there
(R59; notes/assumptions/15.md). -/
def State.replayBatch (s : State) (j : Job) (grp : Group) (c : Context) (q : Nat) (h : QHead) (window : List Nat) : Replay :=
  let kind := TraceKind.batch.code
  let mine := j.awaited grp.lcore
  let own (x : List Nat) : Bool := x.take 5 == grp.lcore :: kind :: (grp.tracedAs ++ [q])
  let entry (x : Nat) : Option Nat := s.entryAt c.id (h.record x)
  let gone (x : Nat) : Bool := (c.gather q).delivered.contains x || decide (x < h.head)
  let due := ((j.expected.filter fun x => x[1]? == some kind && x[4]? == some q).map (·.drop 5)).flatten
  let shared := s.jobs.any fun o => o.uid != j.uid && o.ctx == j.ctx && o.qmask.getLsbD q && o.state != .complete
  match mine.head?.filter own with
  | some x =>
    let batch := x.drop 5
    if batch.isEmpty || decide (96 < batch.length) || batch.any gone then .diverged
    else if !batch.all window.contains then .later
    else if window.filter batch.contains == batch && batch.all (fun y => entry y == entry (batch.getD 0 0)) then .give batch
    else .diverged
  | none => if mine.any own || shared || window.all due.contains then .later else .diverged

/-- What the gatherer does for one waiting DEQ: it starts a hold, keeps holding, or hands out a batch; with `expire` only a
hold whose time has passed. A replay takes the recorded batch, without a hold (R45, R59). -/
def State.gatherFor (s : State) (c : Context) (q : Nat) (expire : Bool) (w : Nat × Agent × Nat × Nat) : Option State :=
  let (_, ag, d, b) := w
  let h := s.qhead c q
  let g := c.gather q
  let job := ((s.group? (qidOf ag)).bind s.jobOf)
  let gdelay := (job.map (·.gdelay)).getD 0
  let window := gatherWindow h g
  match job.filter fun j => j.det && j.replay, window with
  | some j, _ =>
    match if expire then none else s.group? (qidOf ag) with
    | none => none
    | some grp =>
      match s.replayBatch j grp c q h window with
      | .give batch => s.giveBatch c.id q h ag d b batch
      | .later => none
      | .diverged => some (s.stopJob j stTraceDiverge)
  | none, [] => none
  | none, x :: r =>
    match s.entryAt c.id (h.record x) with
    | none => if expire then none else s.giveBatch c.id q h ag d b [x]
    | some e =>
      let cand := x :: r.filter fun y => s.entryAt c.id (h.record y) == some e
      let start := match g.hold with
        | some (e', t) => if e' = BitVec.ofNat 64 e then some t else none
        | none => none
      let passed := decide (s.fcount ≥ start.getD s.fcount + gdelay)
      if expire && (start.isNone || !passed) then none
      else if cand.length < 96 && !passed && s.mayArrive c.id q h then
        (if start.isSome then none
         else some (s.setCtx (c.setGather { g with hold := some (BitVec.ofNat 64 e, s.fcount) })))
      else s.giveBatch c.id q h ag d b (cand.take 96)

/-- A waiting DEQ belongs to a job that replays a trace: its turn does not hold up another's. -/
def State.replays (s : State) (w : Nat × Agent × Nat × Nat) : Bool :=
  ((s.group? (qidOf w.2.1)).bind s.jobOf).any fun j => j.det && j.replay

/-- The gatherer looks at a queue for the DEQ that came first; a replay that waits for its turn is passed over (R45, R59). -/
def State.gather (s : State) (ctx q : Nat) (expire : Bool) : Option State :=
  match s.ctx? ctx with
  | none => none
  | some c =>
    let ws := (s.deqWaiters ctx q).foldl (fun l w => insertWaiter w l) []
    let turn := ws.takeWhile s.replays ++ (ws.dropWhile s.replays).take 1
    turn.findSome? (s.gatherFor c q expire)

/-- GATHER_BATCH (R45). -/
def execGatherBatch (ctx q : Nat) (s : State) : Host.Outcome State Fault Refusal := event (fun s => s.gather ctx q false) s
/-- GATHER_HOLD_EXPIRE (R45). -/
def execGatherHoldExpire (ctx q : Nat) (s : State) : Host.Outcome State Fault Refusal :=
  event (fun s => s.gather ctx q true) s

/-- DEQ: it waits at the gatherer, or returns the end token at once in a QUIESCENT job (R46, R48, R338). -/
def execDeq (h : Hd) (d a b : RegNo) (s : State) : Host.Outcome State Fault Refusal :=
  issue (.deq h d a b) h s fun m =>
    if m.g.splits.length > 1 then m.raise .convergence 0 0 else
    match m.queueOf (m.sget a.toNat) with
    | none => m.raise .prot 0 0
    | some (q, _) =>
      if (m.s.jobOf m.g).map (·.state) = some .quiescent then ({ m.endToken b.toNat with mf := true }).done
      else
        ({ m with s := { m.s with nextUid := m.s.nextUid + 1 } }).block (.deq m.s.nextUid q d.toNat b.toNat)

end Sys2Proof.Machine
end

