-- ==== Sys2Proof/Machine/System.lean ====
section
/-!
DEFINITION. The special registers: SRD and SWR (R17, R40, R105, R148, R172, R267, R268, R376, R377).
-/
namespace Sys2Proof.Machine

open Sys2Proof

/-- WSREFRESH: the calendar of refresh windows, 32 banks of 1,280 cycles, aligned to CYCLE in a fixed-timing cluster (R171,
R172). -/
def State.wsRefresh (s : State) (core : Nat) : Nat :=
  let bank := (s.fcount % 40960) / 1280
  if (s.cluster (core / 8)).fixed then
    ((s.fcount / 1280 + 1) * 1280 % 2 ^ 32) <<< 16 + 0x60 + bank
  else 0x20 + bank

/-- The value of a special register (R105), zero-extended to 64 bits. -/
def Issue.special (m : Issue) (reg : Byte) : Nat :=
  match reg.toNat with
  | 0x00 => m.g.lcore
  | 0x01 => m.g.worker
  | 0x02 => m.g.idx
  | 0x03 => m.g.laneBase.toNat
  | 0x04 => m.k.base
  | 0x05 => m.s.cycle m.g.host
  | 0x06 => m.s.wsRefresh m.g.host
  | 0x07 => m.g.fpmode.toNat
  | 0x08 => m.g.fpflags.toNat
  | 0x09 => m.ctx.seed.toNat
  | 0x10 => m.g.tbase.toNat
  | 0x11 => m.k.trapCause.toNat
  | 0x12 => m.k.trapPc.toNat
  | 0x13 => m.k.trapAddr.toNat
  | n => (word m.g.args (n - 0x20)).toNat

/-- SRD to a register (R376). -/
def execSrd (h : Hd) (d : RegNo) (reg : Byte) (s : State) : Host.Outcome State Fault Refusal :=
  issue (.srd h d reg) h s fun m => (m.sput d.toNat (BitVec.ofNat 32 (m.special reg))).done

/-- SRD to a pair (R93, R376). -/
def execSrdPair (h : Hd) (d : RegNo) (reg : Byte) (s : State) : Host.Outcome State Fault Refusal :=
  issue (.srdPair h d reg) h s fun m => (m.sput2 d.toNat (BitVec.ofNat 64 (m.special reg))).done

/-- A value written to a special register: reserved fields are discarded (R17), an address off a word or beyond 56 bits
raises PROT (R267, R268), and so does a register that SWR may not write (R377). -/
def Issue.writeSpecial (m : Issue) (reg : Byte) (v : DWord) : State :=
  let w := v.setWidth 32
  let bad := v.setWidth 2 != 0 || v.extractLsb' 56 8 != 0
  match reg.toNat with
  | 0x07 => ({ m with g := { m.g with fpmode := w &&& 0xDF } }).done
  | 0x08 => ({ m with g := { m.g with fpflags := w &&& 0x1F } }).done
  | 0x10 => if bad then m.raise .prot 0 0 else ({ m with g := { m.g with tbase := v } }).done
  | 0x11 => ({ m with k := { m.k with trapCause := w &&& 0xFFFF0FFF } }).done
  | 0x12 => if bad then m.raise .prot 0 0 else ({ m with k := { m.k with trapPc := v } }).done
  | _ => m.raise .prot 0 0

/-- SWR of a register: a 64-bit special register keeps its upper half (R93, R377). -/
def execSwr (h : Hd) (reg : Byte) (a : RegNo) (s : State) : Host.Outcome State Fault Refusal :=
  issue (.swr h reg a) h s fun m =>
    let hi : Nat := if sregWidth reg = some 64 then m.special reg / 2 ^ 32 else 0
    m.writeSpecial reg (BitVec.ofNat 32 hi ++ m.sget a.toNat)

/-- SWR of a pair: to a 32-bit special register the upper half must be zero (R93, R377). -/
def execSwrPair (h : Hd) (reg : Byte) (a : RegNo) (s : State) : Host.Outcome State Fault Refusal :=
  issue (.swrPair h reg a) h s fun m =>
    if sregWidth reg = some 32 && m.sget (a.toNat + 1) != 0 then m.raise .prot 0 0
    else m.writeSpecial reg (m.sget2 a.toNat)

end Sys2Proof.Machine
end

