-- ==== Sys2Proof/Machine/Dispatch.lean ====
section
/-!
DEFINITION. The dispatch: one arm per constructor of Instr, each one direct call of that instruction's meaning.
-/
namespace Sys2Proof.Machine

open Sys2Proof

/-- What an instruction or a device event does to the module. -/
def exec (i : Instr) (s : State) : Host.Outcome State Fault Refusal :=
  match i with
  | .moduleReset => Sys2Proof.Machine.execModuleReset s
  | .firmwareUpdate img => Sys2Proof.Machine.execFirmwareUpdate img s
  | .hostLinkTrain link ok atomics => Sys2Proof.Machine.execHostLinkTrain link ok atomics s
  | .gulLinkUp link peerMin peerMax => Sys2Proof.Machine.execGulLinkUp link peerMin peerMax s
  | .hifVersionSelect version => Sys2Proof.Machine.execHifVersionSelect version s
  | .wsdropClear => Sys2Proof.Machine.execWsdropClear s
  | .registerWrite off bytes => Sys2Proof.Machine.execRegisterWrite off bytes s
  | .eventCounterWrite cluster k v => Sys2Proof.Machine.execEventCounterWrite cluster k v s
  | .contextCreate => Sys2Proof.Machine.execContextCreate s
  | .contextDestroy ctx => Sys2Proof.Machine.execContextDestroy ctx s
  | .ctxcmdBadOp op => Sys2Proof.Machine.execCtxcmdBadOp op s
  | .hostRead path t off n => Sys2Proof.Machine.execHostRead path t off n s
  | .hostWrite path t off bytes => Sys2Proof.Machine.execHostWrite path t off bytes s
  | .wsHostWrite off bytes => Sys2Proof.Machine.execWsHostWrite off bytes s
  | .launchRead ctx => Sys2Proof.Machine.execLaunchRead ctx s
  | .gangPlace gang => Sys2Proof.Machine.execGangPlace gang s
  | .frontRelease core => Sys2Proof.Machine.execFrontRelease core s
  | .gangResourceRelease gang => Sys2Proof.Machine.execGangResourceRelease gang s
  | .runIssue core sched => Sys2Proof.Machine.execRunIssue core sched s
  | .fusedExpSum f => Sys2Proof.Machine.execFusedExpSum f s
  | .drain q i' => Sys2Proof.Machine.execDrain q i' s
  | .propagate core seq => Sys2Proof.Machine.execPropagate core seq s
  | .loadStep q i' => Sys2Proof.Machine.execLoadStep q i' s
  | .atomicStep q i' => Sys2Proof.Machine.execAtomicStep q i' s
  | .fenceMarkLeave q i' => Sys2Proof.Machine.execFenceMarkLeave q i' s
  | .engineAccept cmd => Sys2Proof.Machine.execEngineAccept cmd s
  | .engineLine w line => Sys2Proof.Machine.execEngineLine w line s
  | .engineArrival cmd line => Sys2Proof.Machine.execEngineArrival cmd line s
  | .select q op => Sys2Proof.Machine.execSelect q op s
  | .tensorTableStep q op => Sys2Proof.Machine.execTensorTableStep q op s
  | .patternInstall q op => Sys2Proof.Machine.execPatternInstall q op s
  | .tileOpComplete q op => Sys2Proof.Machine.execTileOpComplete q op s
  | .queryRoundReady q slot => Sys2Proof.Machine.execQueryRoundReady q slot s
  | .sampleCommit q op => Sys2Proof.Machine.execSampleCommit q op s
  | .grasReplay q op => Sys2Proof.Machine.execGrasReplay q op s
  | .queueReserve a => Sys2Proof.Machine.execQueueReserve a s
  | .queueHostImport ctx q => Sys2Proof.Machine.execQueueHostImport ctx q s
  | .gatherBatch ctx q => Sys2Proof.Machine.execGatherBatch ctx q s
  | .gatherHoldExpire ctx q => Sys2Proof.Machine.execGatherHoldExpire ctx q s
  | .jobEndCondition job => Sys2Proof.Machine.execJobEndCondition job s
  | .jobComplete job => Sys2Proof.Machine.execJobComplete job s
  | .sillageSpill q what => Sys2Proof.Machine.execSillageSpill q what s
  | .sillageRefill q what => Sys2Proof.Machine.execSillageRefill q what s
  | .trapEntry a => Sys2Proof.Machine.execTrapEntry a s
  | .faultForward src => Sys2Proof.Machine.execFaultForward src s
  | .faultRecordAppend ctx => Sys2Proof.Machine.execFaultRecordAppend ctx s
  | .resume ctx => Sys2Proof.Machine.execResume ctx s
  | .abort ctx => Sys2Proof.Machine.execAbort ctx s
  | .migrate ctx => Sys2Proof.Machine.execMigrate ctx s
  | .cmdUnknown ctx => Sys2Proof.Machine.execCmdUnknown ctx s
  | .migrateLine mig line => Sys2Proof.Machine.execMigrateLine mig line s
  | .migrateSwap mig => Sys2Proof.Machine.execMigrateSwap mig s
  | .gangEvict gang => Sys2Proof.Machine.execGangEvict gang s
  | .copyQuiesce gang => Sys2Proof.Machine.execCopyQuiesce gang s
  | .evictSave gang => Sys2Proof.Machine.execEvictSave gang s
  | .gangRestore gang => Sys2Proof.Machine.execGangRestore gang s
  | .coreStateHandover core ctx => Sys2Proof.Machine.execCoreStateHandover core ctx s
  | .coreStateRestore core ctx => Sys2Proof.Machine.execCoreStateRestore core ctx s
  | .sleepExpire a => Sys2Proof.Machine.execSleepExpire a s
  | .wakeatExpire a => Sys2Proof.Machine.execWakeatExpire a s
  | .promiseExpire a => Sys2Proof.Machine.execPromiseExpire a s
  | .wsRefreshWindow => Sys2Proof.Machine.execWsRefreshWindow s
  | .powerBubble => Sys2Proof.Machine.execPowerBubble s
  | .cycleStretch cluster => Sys2Proof.Machine.execCycleStretch cluster s
  | .clusterModeChange cluster fixed => Sys2Proof.Machine.execClusterModeChange cluster fixed s
  | .elasticClockChange cluster mhz => Sys2Proof.Machine.execElasticClockChange cluster mhz s
  | .softError addr => Sys2Proof.Machine.execSoftError addr s
  | .spdmMessage msg => Sys2Proof.Machine.execSpdmMessage msg s
  | .linkBlockResend link => Sys2Proof.Machine.execLinkBlockResend link s
  | .podForward dest payload => Sys2Proof.Machine.execPodForward dest payload s
  | .podAccessArrival acc => Sys2Proof.Machine.execPodAccessArrival acc s
  | .bra h off => Sys2Proof.Machine.execBra h off s
  | .brc h a off => Sys2Proof.Machine.execBrc h a off s
  | .brz h a off => Sys2Proof.Machine.execBrz h a off s
  | .brd h a off => Sys2Proof.Machine.execBrd h a off s
  | .jmpiS h a => Sys2Proof.Machine.execJmpiS h a s
  | .jmpiV h a => Sys2Proof.Machine.execJmpiV h a s
  | .call h k off => Sys2Proof.Machine.execCall h k off s
  | .calliS h k a => Sys2Proof.Machine.execCalliS h k a s
  | .calliV h k a => Sys2Proof.Machine.execCalliV h k a s
  | .ret h => Sys2Proof.Machine.execRet h s
  | .recv h => Sys2Proof.Machine.execRecv h s
  | .rtt h => Sys2Proof.Machine.execRtt h s
  | .loop h lc a off => Sys2Proof.Machine.execLoop h lc a off s
  | .nop h => Sys2Proof.Machine.execNop h s
  | .endI h => Sys2Proof.Machine.execEndI h s
  | .fence h order scope => Sys2Proof.Machine.execFence h order scope s
  | .trap h code => Sys2Proof.Machine.execTrap h code s
  | .bkpt h => Sys2Proof.Machine.execBkpt h s
  | .wait h cls n => Sys2Proof.Machine.execWait h cls n s
  | .sleep h a => Sys2Proof.Machine.execSleep h a s
  | .wakeat h a => Sys2Proof.Machine.execWakeat h a s
  | .sync h => Sys2Proof.Machine.execSync h s
  | .publish h tid => Sys2Proof.Machine.execPublish h tid s
  | .deq h d a b => Sys2Proof.Machine.execDeq h d a b s
  | .enq h d a b cnt => Sys2Proof.Machine.execEnq h d a b cnt s
  | .dqpop h d a j => Sys2Proof.Machine.execDqpop h d a j s
  | .dqpush h a => Sys2Proof.Machine.execDqpush h a s
  | .emit h a b => Sys2Proof.Machine.execEmit h a b s
  | .bbi h a b => Sys2Proof.Machine.execBbi h a b s
  | .bba h a b => Sys2Proof.Machine.execBba h a b s
  | .bbw h a => Sys2Proof.Machine.execBbw h a s
  | .smov h ty d a => Sys2Proof.Machine.execSmov h ty d a s
  | .sadd h ty d a b => Sys2Proof.Machine.execSadd h ty d a b s
  | .ssub h ty d a b => Sys2Proof.Machine.execSsub h ty d a b s
  | .smul h ty d a b => Sys2Proof.Machine.execSmul h ty d a b s
  | .sdiv h ty d a b => Sys2Proof.Machine.execSdiv h ty d a b s
  | .smin h ty d a b => Sys2Proof.Machine.execSmin h ty d a b s
  | .smax h ty d a b => Sys2Proof.Machine.execSmax h ty d a b s
  | .sand h ty d a b => Sys2Proof.Machine.execSand h ty d a b s
  | .sor h ty d a b => Sys2Proof.Machine.execSor h ty d a b s
  | .sxor h ty d a b => Sys2Proof.Machine.execSxor h ty d a b s
  | .sshl h ty d a b => Sys2Proof.Machine.execSshl h ty d a b s
  | .sshr h ty d a b => Sys2Proof.Machine.execSshr h ty d a b s
  | .scmp h c ty d a b => Sys2Proof.Machine.execScmp h c ty d a b s
  | .ssel h ty d a b c => Sys2Proof.Machine.execSsel h ty d a b c s
  | .sbfe h ty d a b => Sys2Proof.Machine.execSbfe h ty d a b s
  | .sbfi h ty d a b c => Sys2Proof.Machine.execSbfi h ty d a b c s
  | .smovImm h ty d i' => Sys2Proof.Machine.execSmovImm h ty d i' s
  | .saddImm h ty d a i' => Sys2Proof.Machine.execSaddImm h ty d a i' s
  | .ssubImm h ty d a i' => Sys2Proof.Machine.execSsubImm h ty d a i' s
  | .smulImm h ty d a i' => Sys2Proof.Machine.execSmulImm h ty d a i' s
  | .sdivImm h ty d a i' => Sys2Proof.Machine.execSdivImm h ty d a i' s
  | .sminImm h ty d a i' => Sys2Proof.Machine.execSminImm h ty d a i' s
  | .smaxImm h ty d a i' => Sys2Proof.Machine.execSmaxImm h ty d a i' s
  | .sandImm h ty d a i' => Sys2Proof.Machine.execSandImm h ty d a i' s
  | .sorImm h ty d a i' => Sys2Proof.Machine.execSorImm h ty d a i' s
  | .sxorImm h ty d a i' => Sys2Proof.Machine.execSxorImm h ty d a i' s
  | .sshlImm h ty d a i' => Sys2Proof.Machine.execSshlImm h ty d a i' s
  | .sshrImm h ty d a i' => Sys2Proof.Machine.execSshrImm h ty d a i' s
  | .spopc h ty d a => Sys2Proof.Machine.execSpopc h ty d a s
  | .sclz h ty d a => Sys2Proof.Machine.execSclz h ty d a s
  | .sbfeImm h ty d a i' => Sys2Proof.Machine.execSbfeImm h ty d a i' s
  | .vmov h ty d a => Sys2Proof.Machine.execVmov h ty d a s
  | .vadd h ty r d a b => Sys2Proof.Machine.execVadd h ty r d a b s
  | .vsub h ty r d a b => Sys2Proof.Machine.execVsub h ty r d a b s
  | .vmul h ty r d a b => Sys2Proof.Machine.execVmul h ty r d a b s
  | .vmad h ty r d a b c => Sys2Proof.Machine.execVmad h ty r d a b c s
  | .vdiv h ty r d a b => Sys2Proof.Machine.execVdiv h ty r d a b s
  | .vmin h ty d a b => Sys2Proof.Machine.execVmin h ty d a b s
  | .vmax h ty d a b => Sys2Proof.Machine.execVmax h ty d a b s
  | .vand h ty d a b => Sys2Proof.Machine.execVand h ty d a b s
  | .vor h ty d a b => Sys2Proof.Machine.execVor h ty d a b s
  | .vxor h ty d a b => Sys2Proof.Machine.execVxor h ty d a b s
  | .vshl h ty d a b => Sys2Proof.Machine.execVshl h ty d a b s
  | .vshr h ty d a b => Sys2Proof.Machine.execVshr h ty d a b s
  | .vbfe h ty d a b => Sys2Proof.Machine.execVbfe h ty d a b s
  | .vbfi h ty d a b c => Sys2Proof.Machine.execVbfi h ty d a b c s
  | .vsel h ty d a b c => Sys2Proof.Machine.execVsel h ty d a b c s
  | .vcmp h c ty d a b => Sys2Proof.Machine.execVcmp h c ty d a b s
  | .vabs h ty d a => Sys2Proof.Machine.execVabs h ty d a s
  | .vneg h ty d a => Sys2Proof.Machine.execVneg h ty d a s
  | .vpopc h ty d a => Sys2Proof.Machine.execVpopc h ty d a s
  | .vclz h ty d a => Sys2Proof.Machine.execVclz h ty d a s
  | .vclass h ty d a => Sys2Proof.Machine.execVclass h ty d a s
  | .vcvt h ty src r sat d a b => Sys2Proof.Machine.execVcvt h ty src r sat d a b s
  | .vrcp h ty r d a => Sys2Proof.Machine.execVrcp h ty r d a s
  | .vrsq h ty r d a => Sys2Proof.Machine.execVrsq h ty r d a s
  | .vsqrt h ty r d a => Sys2Proof.Machine.execVsqrt h ty r d a s
  | .vexp2 h ty r d a => Sys2Proof.Machine.execVexp2 h ty r d a s
  | .vlog2 h ty r d a => Sys2Proof.Machine.execVlog2 h ty r d a s
  | .vsin h ty r d a => Sys2Proof.Machine.execVsin h ty r d a s
  | .vcos h ty r d a => Sys2Proof.Machine.execVcos h ty r d a s
  | .vrnd h d a => Sys2Proof.Machine.execVrnd h d a s
  | .vmovSb h ty d a => Sys2Proof.Machine.execVmovSb h ty d a s
  | .vaddSb h ty r d a b => Sys2Proof.Machine.execVaddSb h ty r d a b s
  | .vsubSb h ty r d a b => Sys2Proof.Machine.execVsubSb h ty r d a b s
  | .vmulSb h ty r d a b => Sys2Proof.Machine.execVmulSb h ty r d a b s
  | .vmadSb h ty r d a b c => Sys2Proof.Machine.execVmadSb h ty r d a b c s
  | .vdivSb h ty r d a b => Sys2Proof.Machine.execVdivSb h ty r d a b s
  | .vminSb h ty d a b => Sys2Proof.Machine.execVminSb h ty d a b s
  | .vmaxSb h ty d a b => Sys2Proof.Machine.execVmaxSb h ty d a b s
  | .vandSb h ty d a b => Sys2Proof.Machine.execVandSb h ty d a b s
  | .vorSb h ty d a b => Sys2Proof.Machine.execVorSb h ty d a b s
  | .vxorSb h ty d a b => Sys2Proof.Machine.execVxorSb h ty d a b s
  | .vshlSb h ty d a b => Sys2Proof.Machine.execVshlSb h ty d a b s
  | .vshrSb h ty d a b => Sys2Proof.Machine.execVshrSb h ty d a b s
  | .vbfeSb h ty d a b => Sys2Proof.Machine.execVbfeSb h ty d a b s
  | .vbfiSb h ty d a b c => Sys2Proof.Machine.execVbfiSb h ty d a b c s
  | .vselSb h ty d a b c => Sys2Proof.Machine.execVselSb h ty d a b c s
  | .vcmpSb h c ty d a b => Sys2Proof.Machine.execVcmpSb h c ty d a b s
  | .vmovImm h ty d i' => Sys2Proof.Machine.execVmovImm h ty d i' s
  | .vaddImm h ty d a i' => Sys2Proof.Machine.execVaddImm h ty d a i' s
  | .vminImm h ty d a i' => Sys2Proof.Machine.execVminImm h ty d a i' s
  | .vmaxImm h ty d a i' => Sys2Proof.Machine.execVmaxImm h ty d a i' s
  | .vandImm h ty d a i' => Sys2Proof.Machine.execVandImm h ty d a i' s
  | .vorImm h ty d a i' => Sys2Proof.Machine.execVorImm h ty d a i' s
  | .vxorImm h ty d a i' => Sys2Proof.Machine.execVxorImm h ty d a i' s
  | .xsel h ty d a b => Sys2Proof.Machine.execXsel h ty d a b s
  | .xred h o ty d a => Sys2Proof.Machine.execXred h o ty d a s
  | .xscan h o seg ex ty d a b => Sys2Proof.Machine.execXscan h o seg ex ty d a b s
  | .xget h ty d a b => Sys2Proof.Machine.execXget h ty d a b s
  | .xgetImm h d a lane => Sys2Proof.Machine.execXgetImm h d a lane s
  | .xselSb h ty d a b => Sys2Proof.Machine.execXselSb h ty d a b s
  | .vshlImm h ty d a i' => Sys2Proof.Machine.execVshlImm h ty d a i' s
  | .vshrImm h ty d a i' => Sys2Proof.Machine.execVshrImm h ty d a i' s
  | .ldVA h m ty d a b => Sys2Proof.Machine.execLdVA h m ty d a b s
  | .ldSA h m ty d a b => Sys2Proof.Machine.execLdSA h m ty d a b s
  | .ldl h m a b => Sys2Proof.Machine.execLdl h m a b s
  | .lds h m ty d a b => Sys2Proof.Machine.execLds h m ty d a b s
  | .stVA h m ty d a b => Sys2Proof.Machine.execStVA h m ty d a b s
  | .stSA h m ty d a b => Sys2Proof.Machine.execStSA h m ty d a b s
  | .sts h m ty d a b => Sys2Proof.Machine.execSts h m ty d a b s
  | .ldSAVB h m ty d a b => Sys2Proof.Machine.execLdSAVB h m ty d a b s
  | .atomV h o m ty d a b c => Sys2Proof.Machine.execAtomV h o m ty d a b c s
  | .atomS h o m ty d a b c => Sys2Proof.Machine.execAtomS h o m ty d a b c s
  | .ratomV h o m ty d a b c => Sys2Proof.Machine.execRatomV h o m ty d a b c s
  | .ratomS h o m ty d a b c => Sys2Proof.Machine.execRatomS h o m ty d a b c s
  | .flush h mode scope => Sys2Proof.Machine.execFlush h mode scope s
  | .icinv h lb => Sys2Proof.Machine.execIcinv h lb s
  | .tlbinv h page scope a => Sys2Proof.Machine.execTlbinv h page scope a s
  | .cpy h mode d a => Sys2Proof.Machine.execCpy h mode d a s
  | .cpyTid h mode d a tid => Sys2Proof.Machine.execCpyTid h mode d a tid s
  | .kick h a b => Sys2Proof.Machine.execKick h a b s
  | .mma h ty acc a tid asc c => Sys2Proof.Machine.execMma h ty acc a tid asc c s
  | .mmas h t ty acc a tid ps asc c => Sys2Proof.Machine.execMmas h t ty acc a tid ps asc c s
  | .mrdV h ty cmp tick d acc b => Sys2Proof.Machine.execMrdV h ty cmp tick d acc b s
  | .mrdS h ty space cmp tick a acc b => Sys2Proof.Machine.execMrdS h ty space cmp tick a acc b s
  | .mclr h acc => Sys2Proof.Machine.execMclr h acc s
  | .mwb h tid a => Sys2Proof.Machine.execMwb h tid a s
  | .mwbLayer h tid a b => Sys2Proof.Machine.execMwbLayer h tid a b s
  | .tdef h tid a => Sys2Proof.Machine.execTdef h tid a s
  | .tdefGet h tid a => Sys2Proof.Machine.execTdefGet h tid a s
  | .pload h ps a => Sys2Proof.Machine.execPload h ps a s
  | .pgenV h t d ps a => Sys2Proof.Machine.execPgenV h t d ps a s
  | .pgenS h t d ps a => Sys2Proof.Machine.execPgenS h t d ps a s
  | .ginwSmp h d a b => Sys2Proof.Machine.execGinwSmp h d a b s
  | .ginwEdge h d a b => Sys2Proof.Machine.execGinwEdge h d a b s
  | .ginwRay h d a b => Sys2Proof.Machine.execGinwRay h d a b s
  | .grasS h vtid a => Sys2Proof.Machine.execGrasS h vtid a s
  | .grasV h vtid a => Sys2Proof.Machine.execGrasV h vtid a s
  | .grep h d a vtid => Sys2Proof.Machine.execGrep h d a vtid s
  | .gqryV h mode d a tid => Sys2Proof.Machine.execGqryV h mode d a tid s
  | .gqryS h mode d a tid => Sys2Proof.Machine.execGqryS h mode d a tid s
  | .gpopV h d a => Sys2Proof.Machine.execGpopV h d a s
  | .gpopS h d a => Sys2Proof.Machine.execGpopS h d a s
  | .gbldVtx h commit tid a b => Sys2Proof.Machine.execGbldVtx h commit tid a b s
  | .gbldTri h commit tid a b => Sys2Proof.Machine.execGbldTri h commit tid a b s
  | .gpatch h d a tid => Sys2Proof.Machine.execGpatch h d a tid s
  | .srd h d reg => Sys2Proof.Machine.execSrd h d reg s
  | .swr h reg a => Sys2Proof.Machine.execSwr h reg a s
  | .srdPair h d reg => Sys2Proof.Machine.execSrdPair h d reg s
  | .swrPair h reg a => Sys2Proof.Machine.execSwrPair h reg a s

end Sys2Proof.Machine
end

