-- ==== Sys2Proof/Decode.lean ====
section
/-!
DEFINITION. The decoder and the encoder (R60-R72, R75 steps 2 to 4, R86-R97). The words of an instruction are split into
the fields of R60, R63, R66 and R71; `build` reads an instruction off the fields, one line per opcode of the map; `toFields`
lays an instruction out in fields, one line per constructor. An instruction decodes when it is well formed and its own
layout is exactly the fields found, so that every reserved and every unused field is zero.
-/
namespace Sys2Proof

open Sys2Proof.Machine

/-- The fields of an instruction: word 0 as T3 lays it out (R60, R63), word 1 (R66), word 2 in the I layout and in the E
layout (R71), and the literal (R60). Fields of words that the length does not have are zero. -/
structure Fields where
  bnd   : Bool
  len   : Len
  op    : BitVec 8
  m     : BitVec 3
  b     : BitVec 6
  a     : BitVec 6
  d     : BitVec 6
  sc    : Bool
  bimm  : Bool
  opf   : BitVec 4
  space : BitVec 3
  order : BitVec 2
  scope : BitVec 3
  ty    : BitVec 6
  ixs   : BitVec 2
  indD  : Bool
  indA  : Bool
  indB  : Bool
  indC  : Bool
  c     : BitVec 6
  imm32 : Word
  rsvd  : BitVec 7
  mode  : BitVec 8
  accf  : BitVec 3
  ps    : BitVec 4
  tid   : BitVec 10
  lit   : DWord
  deriving DecidableEq, Repr

/-! ## Words and fields -/

/-- LEN (R60). -/
def lenOf : BitVec 2 → Len
  | 0 => .l0 | 1 => .l1 | 2 => .l2 | _ => .l3

def lenCode : Len → BitVec 2
  | .l0 => 0 | .l1 => 1 | .l2 => 2 | .l3 => 3

/-- A literal is present (R60). -/
def hasLit : Len → Bool
  | .l2 | .l3 => true
  | _ => false

/-- Word 2 of the opcode has the E layout (R86-R92). -/
def isE (op : BitVec 8) : Bool :=
  op == 0x17 || op == 0x91 || (0xA0 ≤ op && op ≤ 0xAE) || (0xC4 ≤ op && op ≤ 0xC8) || (0xCB ≤ op && op ≤ 0xCD)

/-- Word 0 (R60, R63). -/
def Fields.word0 (f : Fields) : Word :=
  (f.m ++ f.b ++ f.a ++ f.d ++ f.op ++ BitVec.ofBool f.bnd ++ lenCode f.len : BitVec 32)

/-- Word 1 (R66). -/
def Fields.word1 (f : Fields) : Word :=
  (BitVec.ofBool f.sc ++ BitVec.ofBool f.bimm ++ f.opf ++ f.space ++ f.order ++ f.scope ++ f.ty ++ f.ixs ++
    BitVec.ofBool f.indD ++ BitVec.ofBool f.indA ++ BitVec.ofBool f.indB ++ BitVec.ofBool f.indC ++ f.c : BitVec 32)

/-- Word 2 (R71). -/
def Fields.word2 (f : Fields) : Word :=
  if isE f.op then (f.rsvd ++ f.mode ++ f.accf ++ f.ps ++ f.tid : BitVec 32) else f.imm32

/-- The words of an instruction in the order of R60. -/
def Fields.words (f : Fields) : List Word :=
  match f.len with
  | .l0 => [f.word0]
  | .l1 => [f.word0, f.word1, f.word2]
  | .l2 => [f.word0, f.lit.extractLsb' 0 32, f.lit.extractLsb' 32 32]
  | .l3 => [f.word0, f.word1, f.word2, f.lit.extractLsb' 0 32, f.lit.extractLsb' 32 32]

/-- Bit i of a word. -/
def wbit (w : Word) (i : Nat) : Bool := w.getLsbD i

/-- The fields of an instruction with words w0, w1, w2 and a literal. -/
def fieldsOf (len : Len) (w0 w1 w2 : Word) (lit : DWord) : Fields :=
  let op := w0.extractLsb' 3 8
  let e := isE op
  { bnd := wbit w0 2, len := len, op := op
    m := w0.extractLsb' 29 3, b := w0.extractLsb' 23 6, a := w0.extractLsb' 17 6, d := w0.extractLsb' 11 6
    sc := wbit w1 31, bimm := wbit w1 30, opf := w1.extractLsb' 26 4, space := w1.extractLsb' 23 3
    order := w1.extractLsb' 21 2, scope := w1.extractLsb' 18 3, ty := w1.extractLsb' 12 6, ixs := w1.extractLsb' 10 2
    indD := wbit w1 9, indA := wbit w1 8, indB := wbit w1 7, indC := wbit w1 6, c := w1.extractLsb' 0 6
    imm32 := if e then 0 else w2
    rsvd := if e then w2.extractLsb' 25 7 else 0, mode := if e then w2.extractLsb' 17 8 else 0
    accf := if e then w2.extractLsb' 14 3 else 0, ps := if e then w2.extractLsb' 10 4 else 0
    tid := if e then w2.extractLsb' 0 10 else 0
    lit := lit }

/-- The first instruction of a list of words, and the words after it (R60). -/
def frame : List Word → Option (Fields × List Word)
  | [] => none
  | w0 :: r =>
    match lenOf (w0.extractLsb' 0 2), r with
    | .l0, r => some (fieldsOf .l0 w0 0 0 0, r)
    | .l1, w1 :: w2 :: r => some (fieldsOf .l1 w0 w1 w2 0, r)
    | .l2, l :: h :: r => some (fieldsOf .l2 w0 0 0 (h ++ l), r)
    | .l3, w1 :: w2 :: l :: h :: r => some (fieldsOf .l3 w0 w1 w2 (h ++ l), r)
    | _, _ => none

/-! ## Reading operands off the fields -/

/-- What every instruction carries. -/
def Fields.hd (f : Fields) : Hd := ⟨f.bnd, f.len, f.ixs⟩
def Fields.opD (f : Fields) : Opnd := ⟨f.d, f.indD⟩
def Fields.opA (f : Fields) : Opnd := ⟨f.a, f.indA⟩
def Fields.opB (f : Fields) : Opnd := ⟨f.b, f.indB⟩
def Fields.opC (f : Fields) : Opnd := ⟨f.c, f.indC⟩
/-- IMM9 (R63). -/
def Fields.imm9 (f : Fields) : BitVec 9 := f.m ++ f.b
/-- The low byte of IMM9: a trap code or special register number (R96). -/
def Fields.byte9 (f : Fields) : Byte := f.imm9.extractLsb' 0 8
/-- OFF21 (R63). -/
def Fields.off21 (f : Fields) : BitVec 21 := f.m ++ f.b ++ f.a ++ f.d
/-- Operand B (R71, R72). -/
def Fields.src (f : Fields) : SrcB :=
  if hasLit f.len then .lit f.lit else if f.bimm then .imm f.imm32 else .reg f.opB
/-- The immediate of a TI opcode (R71, R72). -/
def Fields.imm (f : Fields) : Imm :=
  match f.len with
  | .l0 => .i9 f.imm9
  | .l1 => .i32 f.imm32
  | _ => .lit f.lit
/-- The offset of CALL (R71). -/
def Fields.call (f : Fields) : CallOff :=
  if hasW1 f.len then .o32 f.imm32 else .o15 (f.m ++ f.b ++ f.a)
/-- The type where M selects it (R65, R66). -/
def Fields.tyM (f : Fields) : Option Ty := if hasW1 f.len then tyOf f.ty else some (mTy f.m)
/-- The type where the short form has a default (R65). -/
def Fields.tyD (f : Fields) (dflt : Ty) : Option Ty := if hasW1 f.len then tyOf f.ty else some dflt
/-- The rounding of OPF [60:58] (R95). -/
def Fields.rnd (f : Fields) : BitVec 3 := f.opf.extractLsb' 0 3
/-- A bit of OPF (R95). -/
def Fields.opfBit (f : Fields) (i : Nat) : Bool := f.opf.getLsbD i
/-- The memory attributes (R66, R95). -/
def Fields.mem (f : Fields) : Option MemAttr := do
  some ⟨f.opfBit 0, ← orderOf f.order f.sc, ← scopeOf f.scope, ← spaceOf f.space⟩
/-- MODE [0] (R219, R253). -/
def Fields.mode0 (f : Fields) : Bool := f.mode.getLsbD 0
/-- ACC (R71). -/
def Fields.acc (f : Fields) : AccNo := f.accf

/-! ## Laying operands out in fields -/

/-- Fields of an opcode with every operand field zero. -/
def fields (h : Hd) (op : BitVec 8) : Fields :=
  { bnd := h.bnd, len := h.len, op := op, m := 0, b := 0, a := 0, d := 0, sc := false, bimm := false, opf := 0, space
      := 0
    order := 0, scope := 0, ty := 0, ixs := h.ixs, indD := false, indA := false, indB := false, indC := false, c := 0
    imm32 := 0, rsvd := 0, mode := 0, accf := 0, ps := 0, tid := 0, lit := 0 }

/-- M of a one-bit set (R94). -/
def bitM (x : Bool) : BitVec 3 := if x then 1 else 0

def Fields.setM (f : Fields) (x : BitVec 3) : Fields := { f with m := x }
def Fields.setD (f : Fields) (x : RegNo) : Fields := { f with d := x }
def Fields.setA (f : Fields) (x : RegNo) : Fields := { f with a := x }
def Fields.setB (f : Fields) (x : RegNo) : Fields := { f with b := x }
def Fields.setC (f : Fields) (x : RegNo) : Fields := { f with c := x }
def Fields.putD (f : Fields) (o : Opnd) : Fields := { f with d := o.n, indD := o.ind }
def Fields.putA (f : Fields) (o : Opnd) : Fields := { f with a := o.n, indA := o.ind }
def Fields.putB (f : Fields) (o : Opnd) : Fields := { f with b := o.n, indB := o.ind }
def Fields.putC (f : Fields) (o : Opnd) : Fields := { f with c := o.n, indC := o.ind }
def Fields.setImm9 (f : Fields) (x : BitVec 9) : Fields := { f with m := x.extractLsb' 6 3, b := x.extractLsb' 0 6 }
def Fields.setOff21 (f : Fields) (x : BitVec 21) : Fields :=
  { f with m := x.extractLsb' 18 3, b := x.extractLsb' 12 6, a := x.extractLsb' 6 6, d := x.extractLsb' 0 6 }
def Fields.putImm (f : Fields) : Imm → Fields
  | .i9 v => f.setImm9 v
  | .i32 v => { f with imm32 := v }
  | .lit v => { f with lit := v }
def Fields.putSrc (f : Fields) : SrcB → Fields
  | .reg o => f.putB o
  | .imm v => { f with imm32 := v, bimm := true }
  | .lit v => { f with lit := v, bimm := hasW1 f.len }
def Fields.putCall (f : Fields) : CallOff → Fields
  | .o15 v => { f with m := v.extractLsb' 12 3, b := v.extractLsb' 6 6, a := v.extractLsb' 0 6 }
  | .o32 v => { f with imm32 := v }
def Fields.putTyM (f : Fields) (t : Ty) : Fields :=
  if hasW1 f.len then { f with ty := tyCode t } else { f with m := (Machine.tyM t).getD 0 }
def Fields.putTy (f : Fields) (t : Ty) : Fields := if hasW1 f.len then { f with ty := tyCode t } else f
def Fields.putOpf (f : Fields) (i : Nat) (x : Bool) : Fields :=
  { f with opf := f.opf ||| (if x then BitVec.twoPow 4 i else 0) }
def Fields.putRnd (f : Fields) (r : Rnd) : Fields := { f with opf := (rndCode r).setWidth 4 }
def Fields.putOrder (f : Fields) (o : Order) : Fields := { f with order := orderCode o, sc := orderSc o }
def Fields.putScope (f : Fields) (s : Scope) : Fields := { f with scope := scopeCode s }
def Fields.putSpace (f : Fields) (s : Space) : Fields := { f with space := spaceCode s }
def Fields.putMem (f : Fields) (m : MemAttr) : Fields :=
  (((f.putOpf 0 m.poll).putOrder m.order).putScope m.scope).putSpace m.space
def Fields.putTid (f : Fields) (t : Tid) : Fields := { f with tid := t }
def Fields.putAcc (f : Fields) (a : AccNo) : Fields := { f with accf := a }
def Fields.putPs (f : Fields) (p : PSlotNo) : Fields := { f with ps := p }
def Fields.putMode0 (f : Fields) (x : Bool) : Fields := { f with mode := if x then 1 else 0 }

/-! ## The opcode map -/

/-- The instruction that the fields of an opcode from 0x01 to 0x1F (R87) hold. -/
def buildFlow (f : Fields) : Option Instr := do
  match f.op with
  | 0x01#8 => some (.bra f.hd f.off21)
  | 0x02#8 => some (.brc f.hd f.opA f.imm)
  | 0x03#8 => some (.brz f.hd f.opA f.imm)
  | 0x04#8 => some (.brd f.hd f.opA f.imm)
  | 0x05#8 => some (.jmpiS f.hd f.a)
  | 0x06#8 => some (.call f.hd f.d f.call)
  | 0x07#8 => some (.calliS f.hd f.d f.a)
  | 0x08#8 => some (.calliV f.hd f.d f.a)
  | 0x09#8 => some (.jmpiV f.hd f.a)
  | 0x0A#8 => some (.ret f.hd )
  | 0x0B#8 => some (.recv f.hd )
  | 0x0C#8 => some (.rtt f.hd )
  | 0x0D#8 => some (.loop f.hd f.d f.opA f.imm)
  | 0x0E#8 => some (.nop f.hd )
  | 0x0F#8 => some (.endI f.hd )
  | 0x10#8 => some (.fence f.hd (← orderOf f.order f.sc) (← scopeOf f.scope))
  | 0x11#8 => some (.trap f.hd f.byte9)
  | 0x12#8 => some (.bkpt f.hd )
  | 0x13#8 => some (.wait f.hd (← clsOf f.d) f.imm)
  | 0x14#8 => some (.sleep f.hd f.a)
  | 0x15#8 => some (.wakeat f.hd f.a)
  | 0x16#8 => some (.sync f.hd )
  | 0x17#8 => some (.publish f.hd f.tid)
  | 0x18#8 => some (.deq f.hd f.d f.a f.b)
  | 0x19#8 => some (.enq f.hd f.d f.a f.b f.m)
  | 0x1A#8 => some (.dqpop f.hd f.d f.a (f.m == 1))
  | 0x1B#8 => some (.dqpush f.hd f.a)
  | 0x1C#8 => some (.emit f.hd f.a f.b)
  | 0x1D#8 => some (.bbi f.hd f.a f.b)
  | 0x1E#8 => some (.bba f.hd f.a f.b)
  | 0x1F#8 => some (.bbw f.hd f.a)
  | _ => none

/-- The instruction that the fields of an opcode from 0x20 to 0x3E (R88) hold. -/
def buildScalar (f : Fields) : Option Instr := do
  match f.op with
  | 0x20#8 => some (.smov f.hd (← f.tyM) f.opD f.opA)
  | 0x21#8 => some (.sadd f.hd (← f.tyM) f.opD f.opA f.src)
  | 0x22#8 => some (.ssub f.hd (← f.tyM) f.opD f.opA f.src)
  | 0x23#8 => some (.smul f.hd (← f.tyM) f.opD f.opA f.src)
  | 0x24#8 => some (.sdiv f.hd (← f.tyM) f.opD f.opA f.src)
  | 0x25#8 => some (.smin f.hd (← f.tyM) f.opD f.opA f.src)
  | 0x26#8 => some (.smax f.hd (← f.tyM) f.opD f.opA f.src)
  | 0x27#8 => some (.sand f.hd (← f.tyM) f.opD f.opA f.src)
  | 0x28#8 => some (.sor f.hd (← f.tyM) f.opD f.opA f.src)
  | 0x29#8 => some (.sxor f.hd (← f.tyM) f.opD f.opA f.src)
  | 0x2A#8 => some (.sshl f.hd (← f.tyM) f.opD f.opA f.src)
  | 0x2B#8 => some (.sshr f.hd (← f.tyM) f.opD f.opA f.src)
  | 0x2C#8 => some (.scmp f.hd (cmpOf f.m) (← f.tyD .i32) f.opD f.opA f.src)
  | 0x2D#8 => some (.ssel f.hd (← f.tyM) f.opD f.opA f.src f.opC)
  | 0x2E#8 => some (.sbfe f.hd (← f.tyM) f.opD f.opA f.src)
  | 0x2F#8 => some (.sbfi f.hd (← f.tyM) f.opD f.opA f.src f.opC)
  | 0x30#8 => some (.smovImm f.hd (← f.tyD .i32) f.opD f.imm)
  | 0x31#8 => some (.saddImm f.hd (← f.tyD .i32) f.opD f.opA f.imm)
  | 0x32#8 => some (.ssubImm f.hd (← f.tyD .i32) f.opD f.opA f.imm)
  | 0x33#8 => some (.smulImm f.hd (← f.tyD .i32) f.opD f.opA f.imm)
  | 0x34#8 => some (.sdivImm f.hd (← f.tyD .i32) f.opD f.opA f.imm)
  | 0x35#8 => some (.sminImm f.hd (← f.tyD .i32) f.opD f.opA f.imm)
  | 0x36#8 => some (.smaxImm f.hd (← f.tyD .i32) f.opD f.opA f.imm)
  | 0x37#8 => some (.sandImm f.hd (← f.tyD .i32) f.opD f.opA f.imm)
  | 0x38#8 => some (.sorImm f.hd (← f.tyD .i32) f.opD f.opA f.imm)
  | 0x39#8 => some (.sxorImm f.hd (← f.tyD .i32) f.opD f.opA f.imm)
  | 0x3A#8 => some (.sshlImm f.hd (← f.tyD .i32) f.opD f.opA f.imm)
  | 0x3B#8 => some (.sshrImm f.hd (← f.tyD .i32) f.opD f.opA f.imm)
  | 0x3C#8 => some (.spopc f.hd (← f.tyM) f.opD f.opA)
  | 0x3D#8 => some (.sclz f.hd (← f.tyM) f.opD f.opA)
  | 0x3E#8 => some (.sbfeImm f.hd (← f.tyD .n32) f.opD f.opA f.imm)
  | _ => none

/-- The instruction that the fields of an opcode from 0x40 to 0x5E (R89) hold. -/
def buildVecB (f : Fields) : Option Instr := do
  match f.op with
  | 0x40#8 => some (.vmov f.hd (← f.tyM) f.opD f.opA)
  | 0x41#8 => some (.vadd f.hd (← f.tyM) (← rndOf f.rnd) f.opD f.opA f.src)
  | 0x42#8 => some (.vsub f.hd (← f.tyM) (← rndOf f.rnd) f.opD f.opA f.src)
  | 0x43#8 => some (.vmul f.hd (← f.tyM) (← rndOf f.rnd) f.opD f.opA f.src)
  | 0x44#8 => some (.vmad f.hd (← f.tyM) (← rndOf f.rnd) f.opD f.opA f.src f.opC)
  | 0x45#8 => some (.vdiv f.hd (← f.tyM) (← rndOf f.rnd) f.opD f.opA f.src)
  | 0x46#8 => some (.vmin f.hd (← f.tyM) f.opD f.opA f.src)
  | 0x47#8 => some (.vmax f.hd (← f.tyM) f.opD f.opA f.src)
  | 0x48#8 => some (.vand f.hd (← f.tyM) f.opD f.opA f.src)
  | 0x49#8 => some (.vor f.hd (← f.tyM) f.opD f.opA f.src)
  | 0x4A#8 => some (.vxor f.hd (← f.tyM) f.opD f.opA f.src)
  | 0x4B#8 => some (.vshl f.hd (← f.tyM) f.opD f.opA f.src)
  | 0x4C#8 => some (.vshr f.hd (← f.tyM) f.opD f.opA f.src)
  | 0x4D#8 => some (.vbfe f.hd (← f.tyM) f.opD f.opA f.src)
  | 0x4E#8 => some (.vbfi f.hd (← f.tyM) f.opD f.opA f.src f.opC)
  | 0x4F#8 => some (.vsel f.hd (← f.tyM) f.opD f.opA f.src f.opC)
  | 0x50#8 => some (.vcmp f.hd (cmpOf f.m) (← f.tyD .f32) f.opD f.opA f.src)
  | 0x51#8 => some (.vabs f.hd (← f.tyM) f.opD f.opA)
  | 0x52#8 => some (.vneg f.hd (← f.tyM) f.opD f.opA)
  | 0x53#8 => some (.vpopc f.hd (← f.tyM) f.opD f.opA)
  | 0x54#8 => some (.vclz f.hd (← f.tyM) f.opD f.opA)
  | 0x55#8 => some (.vclass f.hd (← f.tyM) f.opD f.opA)
  | 0x56#8 => some (.vcvt f.hd (← tyOf f.ty) (← tyOf f.c) (← rndOf f.rnd) (f.opfBit 3) f.opD f.opA f.opB)
  | 0x57#8 => some (.vrcp f.hd (← f.tyM) (← rndOf f.rnd) f.opD f.opA)
  | 0x58#8 => some (.vrsq f.hd (← f.tyM) (← rndOf f.rnd) f.opD f.opA)
  | 0x59#8 => some (.vsqrt f.hd (← f.tyM) (← rndOf f.rnd) f.opD f.opA)
  | 0x5A#8 => some (.vexp2 f.hd (← f.tyM) (← rndOf f.rnd) f.opD f.opA)
  | 0x5B#8 => some (.vlog2 f.hd (← f.tyM) (← rndOf f.rnd) f.opD f.opA)
  | 0x5C#8 => some (.vsin f.hd (← f.tyM) (← rndOf f.rnd) f.opD f.opA)
  | 0x5D#8 => some (.vcos f.hd (← f.tyM) (← rndOf f.rnd) f.opD f.opA)
  | 0x5E#8 => some (.vrnd f.hd f.opD f.opA)
  | _ => none

/-- The instruction that the fields of an opcode from 0x60 to 0x7F (R89) hold. -/
def buildVecS (f : Fields) : Option Instr := do
  match f.op with
  | 0x60#8 => some (.vmovSb f.hd (← f.tyM) f.opD f.opA)
  | 0x61#8 => some (.vaddSb f.hd (← f.tyM) (← rndOf f.rnd) f.opD f.opA f.src)
  | 0x62#8 => some (.vsubSb f.hd (← f.tyM) (← rndOf f.rnd) f.opD f.opA f.src)
  | 0x63#8 => some (.vmulSb f.hd (← f.tyM) (← rndOf f.rnd) f.opD f.opA f.src)
  | 0x64#8 => some (.vmadSb f.hd (← f.tyM) (← rndOf f.rnd) f.opD f.opA f.src f.opC)
  | 0x65#8 => some (.vdivSb f.hd (← f.tyM) (← rndOf f.rnd) f.opD f.opA f.src)
  | 0x66#8 => some (.vminSb f.hd (← f.tyM) f.opD f.opA f.src)
  | 0x67#8 => some (.vmaxSb f.hd (← f.tyM) f.opD f.opA f.src)
  | 0x68#8 => some (.vandSb f.hd (← f.tyM) f.opD f.opA f.src)
  | 0x69#8 => some (.vorSb f.hd (← f.tyM) f.opD f.opA f.src)
  | 0x6A#8 => some (.vxorSb f.hd (← f.tyM) f.opD f.opA f.src)
  | 0x6B#8 => some (.vshlSb f.hd (← f.tyM) f.opD f.opA f.src)
  | 0x6C#8 => some (.vshrSb f.hd (← f.tyM) f.opD f.opA f.src)
  | 0x6D#8 => some (.vbfeSb f.hd (← f.tyM) f.opD f.opA f.src)
  | 0x6E#8 => some (.vbfiSb f.hd (← f.tyM) f.opD f.opA f.src f.opC)
  | 0x6F#8 => some (.vselSb f.hd (← f.tyM) f.opD f.opA f.src f.opC)
  | 0x70#8 => some (.vcmpSb f.hd (cmpOf f.m) (← f.tyD .f32) f.opD f.opA f.src)
  | 0x71#8 => some (.vmovImm f.hd (← f.tyD .b32) f.opD f.imm)
  | 0x72#8 => some (.vaddImm f.hd (← f.tyD .i32) f.opD f.opA f.imm)
  | 0x73#8 => some (.vminImm f.hd (← f.tyD .i32) f.opD f.opA f.imm)
  | 0x74#8 => some (.vmaxImm f.hd (← f.tyD .i32) f.opD f.opA f.imm)
  | 0x75#8 => some (.vandImm f.hd (← f.tyD .b32) f.opD f.opA f.imm)
  | 0x76#8 => some (.vorImm f.hd (← f.tyD .b32) f.opD f.opA f.imm)
  | 0x77#8 => some (.vxorImm f.hd (← f.tyD .b32) f.opD f.opA f.imm)
  | 0x78#8 => some (.xsel f.hd (← f.tyM) f.opD f.opA f.opB)
  | 0x79#8 => some (.xred f.hd (← redOf f.m) (← f.tyD .i32) f.opD f.opA)
  | 0x7A#8 => some (.xscan f.hd (← redOf f.m) (f.opfBit 0) (f.opfBit 1) (← f.tyD .i32) f.opD f.opA f.opB)
  | 0x7B#8 => some (.xget f.hd (← f.tyM) f.opD f.opA f.opB)
  | 0x7C#8 => some (.xgetImm f.hd f.d f.a f.imm9)
  | 0x7D#8 => some (.xselSb f.hd (← f.tyM) f.opD f.opA f.opB)
  | 0x7E#8 => some (.vshlImm f.hd (← f.tyD .b32) f.opD f.opA f.imm)
  | 0x7F#8 => some (.vshrImm f.hd (← f.tyD .n32) f.opD f.opA f.imm)
  | _ => none

/-- The instruction that the fields of an opcode from 0x80 to 0x92 (R90) hold. -/
def buildMem (f : Fields) : Option Instr := do
  match f.op with
  | 0x80#8 => some (.ldVA f.hd (← f.mem) (← f.tyM) f.opD f.opA f.src)
  | 0x81#8 => some (.ldSA f.hd (← f.mem) (← f.tyM) f.opD f.opA f.src)
  | 0x82#8 => some (.ldl f.hd (← f.mem) f.opA f.src)
  | 0x83#8 => some (.lds f.hd (← f.mem) (← f.tyM) f.opD f.opA f.src)
  | 0x84#8 => some (.stVA f.hd (← f.mem) (← f.tyM) f.opD f.opA f.src)
  | 0x85#8 => some (.stSA f.hd (← f.mem) (← f.tyM) f.opD f.opA f.src)
  | 0x86#8 => some (.sts f.hd (← f.mem) (← f.tyM) f.opD f.opA f.src)
  | 0x87#8 => some (.ldSAVB f.hd (← f.mem) (← f.tyM) f.opD f.opA f.opB)
  | 0x88#8 => some (.atomV f.hd (aopOf f.m) (← f.mem) (← f.tyD .i32) f.opD f.opA f.opB f.opC)
  | 0x89#8 => some (.atomS f.hd (aopOf f.m) (← f.mem) (← f.tyD .i32) f.opD f.opA f.opB f.opC)
  | 0x8A#8 => some (.ratomV f.hd (aopOf f.m) (← f.mem) (← tyOf f.ty) f.opD f.opA f.opB f.opC)
  | 0x8B#8 => some (.ratomS f.hd (aopOf f.m) (← f.mem) (← tyOf f.ty) f.opD f.opA f.opB f.opC)
  | 0x8C#8 => some (.flush f.hd (← flOf f.m) (← scopeOf f.scope))
  | 0x8D#8 => some (.icinv f.hd (f.m == 1))
  | 0x8E#8 => some (.tlbinv f.hd (f.m == 1) (← scopeOf f.scope) f.a)
  | 0x90#8 => some (.cpy f.hd (← cmodeOf f.m) f.d f.a)
  | 0x91#8 => some (.cpyTid f.hd (← cmodeOf f.m) f.d f.a f.tid)
  | 0x92#8 => some (.kick f.hd f.a f.b)
  | _ => none

/-- The instruction that the fields of an opcode from 0xA0 to 0xE3 (R91-R93) hold. -/
def buildEng (f : Fields) : Option Instr := do
  match f.op with
  | 0xA0#8 => some (.mma f.hd (← tyOf f.ty) f.acc f.opA f.tid f.mode0 f.opC)
  | 0xA1#8 => some (.mmas f.hd (f.opfBit 0) (← tyOf f.ty) f.acc f.opA f.tid f.ps f.mode0 f.opC)
  | 0xA2#8 => some (.mrdV f.hd (← tyOf f.ty) (f.opfBit 0) (f.opfBit 1) f.opD f.acc f.src)
  | 0xA3#8 => some (.mrdS f.hd (← tyOf f.ty) (← spaceOf f.space) (f.opfBit 0) (f.opfBit 1) f.opA f.acc f.src)
  | 0xA4#8 => some (.mclr f.hd f.acc)
  | 0xA5#8 => some (.mwb f.hd f.tid f.a)
  | 0xA6#8 => some (.mwbLayer f.hd f.tid f.a f.b)
  | 0xA8#8 => some (.tdef f.hd f.tid f.a)
  | 0xA9#8 => some (.tdefGet f.hd f.tid f.a)
  | 0xAC#8 => some (.pload f.hd f.ps f.opA)
  | 0xAD#8 => some (.pgenV f.hd (f.opfBit 0) f.opD f.ps f.opA)
  | 0xAE#8 => some (.pgenS f.hd (f.opfBit 0) f.opD f.ps f.opA)
  | 0xC0#8 => some (.ginwSmp f.hd f.opD f.opA f.opB)
  | 0xC1#8 => some (.ginwEdge f.hd f.opD f.opA f.opB)
  | 0xC2#8 => some (.ginwRay f.hd f.opD f.opA f.opB)
  | 0xC4#8 => some (.grasS f.hd f.tid f.a)
  | 0xC5#8 => some (.grasV f.hd f.tid f.a)
  | 0xC6#8 => some (.grep f.hd f.d f.a f.tid)
  | 0xC7#8 => some (.gqryV f.hd (← qmodeOf f.m) f.opD f.opA f.tid)
  | 0xC8#8 => some (.gqryS f.hd (← qmodeOf f.m) f.opD f.opA f.tid)
  | 0xC9#8 => some (.gpopV f.hd f.opD f.opA)
  | 0xCA#8 => some (.gpopS f.hd f.opD f.opA)
  | 0xCB#8 => some (.gbldVtx f.hd f.mode0 f.tid f.a f.b)
  | 0xCC#8 => some (.gbldTri f.hd f.mode0 f.tid f.a f.b)
  | 0xCD#8 => some (.gpatch f.hd f.d f.a f.tid)
  | 0xE0#8 => some (.srd f.hd f.d f.byte9)
  | 0xE1#8 => some (.swr f.hd f.byte9 f.a)
  | 0xE2#8 => some (.srdPair f.hd f.d f.byte9)
  | 0xE3#8 => some (.swrPair f.hd f.byte9 f.a)
  | _ => none

/-- The instruction that fields hold, where OP is assigned (R97). -/
def build (f : Fields) : Option Instr :=
  if f.op < 0x20 then buildFlow f
  else if f.op < 0x40 then buildScalar f
  else if f.op < 0x60 then buildVecB f
  else if f.op < 0x80 then buildVecS f
  else if f.op < 0xA0 then buildMem f
  else buildEng f

/-- The fields of an instruction; none for a device event. Operand B of XGET is a register, never IMM32 (notes/assumptions/117.md). -/
def toFields (i : Instr) : Option Fields :=
  match i with
  | .bra h off => some ((fields h 0x01).setOff21 off)
  | .brc h a off => some (((fields h 0x02).putA a).putImm off)
  | .brz h a off => some (((fields h 0x03).putA a).putImm off)
  | .brd h a off => some (((fields h 0x04).putA a).putImm off)
  | .jmpiS h a => some ((fields h 0x05).setA a)
  | .jmpiV h a => some ((fields h 0x09).setA a)
  | .call h k off => some (((fields h 0x06).setD k).putCall off)
  | .calliS h k a => some (((fields h 0x07).setD k).setA a)
  | .calliV h k a => some (((fields h 0x08).setD k).setA a)
  | .ret h => some (fields h 0x0A)
  | .recv h => some (fields h 0x0B)
  | .rtt h => some (fields h 0x0C)
  | .loop h lc a off => some ((((fields h 0x0D).setD lc).putA a).putImm off)
  | .nop h => some (fields h 0x0E)
  | .endI h => some (fields h 0x0F)
  | .fence h order scope => some (((fields h 0x10).putOrder order).putScope scope)
  | .trap h code => some ((fields h 0x11).setImm9 ((0#1 : BitVec 1) ++ code))
  | .bkpt h => some (fields h 0x12)
  | .wait h cls n => some (((fields h 0x13).setD (clsCode cls)).putImm n)
  | .sleep h a => some ((fields h 0x14).setA a)
  | .wakeat h a => some ((fields h 0x15).setA a)
  | .sync h => some (fields h 0x16)
  | .publish h tid => some ((fields h 0x17).putTid tid)
  | .deq h d a b => some ((((fields h 0x18).setD d).setA a).setB b)
  | .enq h d a b cnt => some (((((fields h 0x19).setD d).setA a).setB b).setM cnt)
  | .dqpop h d a j => some ((((fields h 0x1A).setD d).setA a).setM (bitM j))
  | .dqpush h a => some ((fields h 0x1B).setA a)
  | .emit h a b => some (((fields h 0x1C).setA a).setB b)
  | .bbi h a b => some (((fields h 0x1D).setA a).setB b)
  | .bba h a b => some (((fields h 0x1E).setA a).setB b)
  | .bbw h a => some ((fields h 0x1F).setA a)
  | .smov h ty d a => some ((((fields h 0x20).putTyM ty).putD d).putA a)
  | .sadd h ty d a b => some (((((fields h 0x21).putTyM ty).putD d).putA a).putSrc b)
  | .ssub h ty d a b => some (((((fields h 0x22).putTyM ty).putD d).putA a).putSrc b)
  | .smul h ty d a b => some (((((fields h 0x23).putTyM ty).putD d).putA a).putSrc b)
  | .sdiv h ty d a b => some (((((fields h 0x24).putTyM ty).putD d).putA a).putSrc b)
  | .smin h ty d a b => some (((((fields h 0x25).putTyM ty).putD d).putA a).putSrc b)
  | .smax h ty d a b => some (((((fields h 0x26).putTyM ty).putD d).putA a).putSrc b)
  | .sand h ty d a b => some (((((fields h 0x27).putTyM ty).putD d).putA a).putSrc b)
  | .sor h ty d a b => some (((((fields h 0x28).putTyM ty).putD d).putA a).putSrc b)
  | .sxor h ty d a b => some (((((fields h 0x29).putTyM ty).putD d).putA a).putSrc b)
  | .sshl h ty d a b => some (((((fields h 0x2A).putTyM ty).putD d).putA a).putSrc b)
  | .sshr h ty d a b => some (((((fields h 0x2B).putTyM ty).putD d).putA a).putSrc b)
  | .scmp h c ty d a b => some ((((((fields h 0x2C).setM (cmpCode c)).putTy ty).putD d).putA a).putSrc b)
  | .ssel h ty d a b c => some ((((((fields h 0x2D).putTyM ty).putD d).putA a).putSrc b).putC c)
  | .sbfe h ty d a b => some (((((fields h 0x2E).putTyM ty).putD d).putA a).putSrc b)
  | .sbfi h ty d a b c => some ((((((fields h 0x2F).putTyM ty).putD d).putA a).putSrc b).putC c)
  | .smovImm h ty d i => some ((((fields h 0x30).putTy ty).putD d).putImm i)
  | .saddImm h ty d a i => some (((((fields h 0x31).putTy ty).putD d).putA a).putImm i)
  | .ssubImm h ty d a i => some (((((fields h 0x32).putTy ty).putD d).putA a).putImm i)
  | .smulImm h ty d a i => some (((((fields h 0x33).putTy ty).putD d).putA a).putImm i)
  | .sdivImm h ty d a i => some (((((fields h 0x34).putTy ty).putD d).putA a).putImm i)
  | .sminImm h ty d a i => some (((((fields h 0x35).putTy ty).putD d).putA a).putImm i)
  | .smaxImm h ty d a i => some (((((fields h 0x36).putTy ty).putD d).putA a).putImm i)
  | .sandImm h ty d a i => some (((((fields h 0x37).putTy ty).putD d).putA a).putImm i)
  | .sorImm h ty d a i => some (((((fields h 0x38).putTy ty).putD d).putA a).putImm i)
  | .sxorImm h ty d a i => some (((((fields h 0x39).putTy ty).putD d).putA a).putImm i)
  | .sshlImm h ty d a i => some (((((fields h 0x3A).putTy ty).putD d).putA a).putImm i)
  | .sshrImm h ty d a i => some (((((fields h 0x3B).putTy ty).putD d).putA a).putImm i)
  | .spopc h ty d a => some ((((fields h 0x3C).putTyM ty).putD d).putA a)
  | .sclz h ty d a => some ((((fields h 0x3D).putTyM ty).putD d).putA a)
  | .sbfeImm h ty d a i => some (((((fields h 0x3E).putTy ty).putD d).putA a).putImm i)
  | .vmov h ty d a => some ((((fields h 0x40).putTyM ty).putD d).putA a)
  | .vadd h ty r d a b => some ((((((fields h 0x41).putTyM ty).putRnd r).putD d).putA a).putSrc b)
  | .vsub h ty r d a b => some ((((((fields h 0x42).putTyM ty).putRnd r).putD d).putA a).putSrc b)
  | .vmul h ty r d a b => some ((((((fields h 0x43).putTyM ty).putRnd r).putD d).putA a).putSrc b)
  | .vmad h ty r d a b c => some (((((((fields h 0x44).putTyM ty).putRnd r).putD d).putA a).putSrc b).putC c)
  | .vdiv h ty r d a b => some ((((((fields h 0x45).putTyM ty).putRnd r).putD d).putA a).putSrc b)
  | .vmin h ty d a b => some (((((fields h 0x46).putTyM ty).putD d).putA a).putSrc b)
  | .vmax h ty d a b => some (((((fields h 0x47).putTyM ty).putD d).putA a).putSrc b)
  | .vand h ty d a b => some (((((fields h 0x48).putTyM ty).putD d).putA a).putSrc b)
  | .vor h ty d a b => some (((((fields h 0x49).putTyM ty).putD d).putA a).putSrc b)
  | .vxor h ty d a b => some (((((fields h 0x4A).putTyM ty).putD d).putA a).putSrc b)
  | .vshl h ty d a b => some (((((fields h 0x4B).putTyM ty).putD d).putA a).putSrc b)
  | .vshr h ty d a b => some (((((fields h 0x4C).putTyM ty).putD d).putA a).putSrc b)
  | .vbfe h ty d a b => some (((((fields h 0x4D).putTyM ty).putD d).putA a).putSrc b)
  | .vbfi h ty d a b c => some ((((((fields h 0x4E).putTyM ty).putD d).putA a).putSrc b).putC c)
  | .vsel h ty d a b c => some ((((((fields h 0x4F).putTyM ty).putD d).putA a).putSrc b).putC c)
  | .vcmp h c ty d a b => some ((((((fields h 0x50).setM (cmpCode c)).putTy ty).putD d).putA a).putSrc b)
  | .vabs h ty d a => some ((((fields h 0x51).putTyM ty).putD d).putA a)
  | .vneg h ty d a => some ((((fields h 0x52).putTyM ty).putD d).putA a)
  | .vpopc h ty d a => some ((((fields h 0x53).putTyM ty).putD d).putA a)
  | .vclz h ty d a => some ((((fields h 0x54).putTyM ty).putD d).putA a)
  | .vclass h ty d a => some ((((fields h 0x55).putTyM ty).putD d).putA a)
  | .vcvt h ty src r sat d a b =>
      some ((((((((fields h 0x56).putTy ty).setC (tyCode src)).putRnd r).putOpf 3 sat).putD d).putA a).putB b)
  | .vrcp h ty r d a => some (((((fields h 0x57).putTyM ty).putRnd r).putD d).putA a)
  | .vrsq h ty r d a => some (((((fields h 0x58).putTyM ty).putRnd r).putD d).putA a)
  | .vsqrt h ty r d a => some (((((fields h 0x59).putTyM ty).putRnd r).putD d).putA a)
  | .vexp2 h ty r d a => some (((((fields h 0x5A).putTyM ty).putRnd r).putD d).putA a)
  | .vlog2 h ty r d a => some (((((fields h 0x5B).putTyM ty).putRnd r).putD d).putA a)
  | .vsin h ty r d a => some (((((fields h 0x5C).putTyM ty).putRnd r).putD d).putA a)
  | .vcos h ty r d a => some (((((fields h 0x5D).putTyM ty).putRnd r).putD d).putA a)
  | .vrnd h d a => some (((fields h 0x5E).putD d).putA a)
  | .vmovSb h ty d a => some ((((fields h 0x60).putTyM ty).putD d).putA a)
  | .vaddSb h ty r d a b => some ((((((fields h 0x61).putTyM ty).putRnd r).putD d).putA a).putSrc b)
  | .vsubSb h ty r d a b => some ((((((fields h 0x62).putTyM ty).putRnd r).putD d).putA a).putSrc b)
  | .vmulSb h ty r d a b => some ((((((fields h 0x63).putTyM ty).putRnd r).putD d).putA a).putSrc b)
  | .vmadSb h ty r d a b c => some (((((((fields h 0x64).putTyM ty).putRnd r).putD d).putA a).putSrc b).putC c)
  | .vdivSb h ty r d a b => some ((((((fields h 0x65).putTyM ty).putRnd r).putD d).putA a).putSrc b)
  | .vminSb h ty d a b => some (((((fields h 0x66).putTyM ty).putD d).putA a).putSrc b)
  | .vmaxSb h ty d a b => some (((((fields h 0x67).putTyM ty).putD d).putA a).putSrc b)
  | .vandSb h ty d a b => some (((((fields h 0x68).putTyM ty).putD d).putA a).putSrc b)
  | .vorSb h ty d a b => some (((((fields h 0x69).putTyM ty).putD d).putA a).putSrc b)
  | .vxorSb h ty d a b => some (((((fields h 0x6A).putTyM ty).putD d).putA a).putSrc b)
  | .vshlSb h ty d a b => some (((((fields h 0x6B).putTyM ty).putD d).putA a).putSrc b)
  | .vshrSb h ty d a b => some (((((fields h 0x6C).putTyM ty).putD d).putA a).putSrc b)
  | .vbfeSb h ty d a b => some (((((fields h 0x6D).putTyM ty).putD d).putA a).putSrc b)
  | .vbfiSb h ty d a b c => some ((((((fields h 0x6E).putTyM ty).putD d).putA a).putSrc b).putC c)
  | .vselSb h ty d a b c => some ((((((fields h 0x6F).putTyM ty).putD d).putA a).putSrc b).putC c)
  | .vcmpSb h c ty d a b => some ((((((fields h 0x70).setM (cmpCode c)).putTy ty).putD d).putA a).putSrc b)
  | .vmovImm h ty d i => some ((((fields h 0x71).putTy ty).putD d).putImm i)
  | .vaddImm h ty d a i => some (((((fields h 0x72).putTy ty).putD d).putA a).putImm i)
  | .vminImm h ty d a i => some (((((fields h 0x73).putTy ty).putD d).putA a).putImm i)
  | .vmaxImm h ty d a i => some (((((fields h 0x74).putTy ty).putD d).putA a).putImm i)
  | .vandImm h ty d a i => some (((((fields h 0x75).putTy ty).putD d).putA a).putImm i)
  | .vorImm h ty d a i => some (((((fields h 0x76).putTy ty).putD d).putA a).putImm i)
  | .vxorImm h ty d a i => some (((((fields h 0x77).putTy ty).putD d).putA a).putImm i)
  | .xsel h ty d a b => some (((((fields h 0x78).putTyM ty).putD d).putA a).putB b)
  | .xred h o ty d a => some (((((fields h 0x79).setM (redCode o)).putTy ty).putD d).putA a)
  | .xscan h o seg ex ty d a b =>
      some ((((((((fields h 0x7A).setM (redCode o)).putOpf 0 seg).putOpf 1 ex).putTy ty).putD d).putA a).putB b)
  | .xget h ty d a b => some (((((fields h 0x7B).putTyM ty).putD d).putA a).putB b)
  | .xgetImm h d a lane => some ((((fields h 0x7C).setD d).setA a).setImm9 lane)
  | .xselSb h ty d a b => some (((((fields h 0x7D).putTyM ty).putD d).putA a).putB b)
  | .vshlImm h ty d a i => some (((((fields h 0x7E).putTy ty).putD d).putA a).putImm i)
  | .vshrImm h ty d a i => some (((((fields h 0x7F).putTy ty).putD d).putA a).putImm i)
  | .ldVA h m ty d a b => some ((((((fields h 0x80).putMem m).putTyM ty).putD d).putA a).putSrc b)
  | .ldSA h m ty d a b => some ((((((fields h 0x81).putMem m).putTyM ty).putD d).putA a).putSrc b)
  | .ldl h m a b => some ((((fields h 0x82).putMem m).putA a).putSrc b)
  | .lds h m ty d a b => some ((((((fields h 0x83).putMem m).putTyM ty).putD d).putA a).putSrc b)
  | .stVA h m ty d a b => some ((((((fields h 0x84).putMem m).putTyM ty).putD d).putA a).putSrc b)
  | .stSA h m ty d a b => some ((((((fields h 0x85).putMem m).putTyM ty).putD d).putA a).putSrc b)
  | .sts h m ty d a b => some ((((((fields h 0x86).putMem m).putTyM ty).putD d).putA a).putSrc b)
  | .ldSAVB h m ty d a b => some ((((((fields h 0x87).putMem m).putTyM ty).putD d).putA a).putB b)
  | .atomV h o m ty d a b c =>
      some ((((((((fields h 0x88).setM (aopCode o)).putMem m).putTy ty).putD d).putA a).putB b).putC c)
  | .atomS h o m ty d a b c =>
      some ((((((((fields h 0x89).setM (aopCode o)).putMem m).putTy ty).putD d).putA a).putB b).putC c)
  | .ratomV h o m ty d a b c =>
      some ((((((((fields h 0x8A).setM (aopCode o)).putMem m).putTy ty).putD d).putA a).putB b).putC c)
  | .ratomS h o m ty d a b c =>
      some ((((((((fields h 0x8B).setM (aopCode o)).putMem m).putTy ty).putD d).putA a).putB b).putC c)
  | .flush h mode scope => some (((fields h 0x8C).setM (flCode mode)).putScope scope)
  | .icinv h lb => some ((fields h 0x8D).setM (bitM lb))
  | .tlbinv h page scope a => some ((((fields h 0x8E).setM (bitM page)).putScope scope).setA a)
  | .cpy h mode d a => some ((((fields h 0x90).setM (cmodeCode mode)).setD d).setA a)
  | .cpyTid h mode d a tid => some (((((fields h 0x91).setM (cmodeCode mode)).setD d).setA a).putTid tid)
  | .kick h a b => some (((fields h 0x92).setA a).setB b)
  | .mma h ty acc a tid asc c =>
      some (((((((fields h 0xA0).putTy ty).putAcc acc).putA a).putTid tid).putMode0 asc).putC c)
  | .mmas h t ty acc a tid ps asc c =>
      some (((((((((fields h 0xA1).putOpf 0 t).putTy ty).putAcc acc).putA a).putTid tid).putPs ps).putMode0 asc).putC c)
  | .mrdV h ty cmp tick d acc b =>
      some (((((((fields h 0xA2).putTy ty).putOpf 0 cmp).putOpf 1 tick).putD d).putAcc acc).putSrc b)
  | .mrdS h ty space cmp tick a acc b =>
      some ((((((((fields h 0xA3).putTy ty).putSpace space).putOpf 0 cmp).putOpf 1 tick).putA a).putAcc acc).putSrc b)
  | .mclr h acc => some ((fields h 0xA4).putAcc acc)
  | .mwb h tid a => some (((fields h 0xA5).putTid tid).setA a)
  | .mwbLayer h tid a b => some ((((fields h 0xA6).putTid tid).setA a).setB b)
  | .tdef h tid a => some (((fields h 0xA8).putTid tid).setA a)
  | .tdefGet h tid a => some (((fields h 0xA9).putTid tid).setA a)
  | .pload h ps a => some (((fields h 0xAC).putPs ps).putA a)
  | .pgenV h t d ps a => some (((((fields h 0xAD).putOpf 0 t).putD d).putPs ps).putA a)
  | .pgenS h t d ps a => some (((((fields h 0xAE).putOpf 0 t).putD d).putPs ps).putA a)
  | .ginwSmp h d a b => some ((((fields h 0xC0).putD d).putA a).putB b)
  | .ginwEdge h d a b => some ((((fields h 0xC1).putD d).putA a).putB b)
  | .ginwRay h d a b => some ((((fields h 0xC2).putD d).putA a).putB b)
  | .grasS h vtid a => some (((fields h 0xC4).putTid vtid).setA a)
  | .grasV h vtid a => some (((fields h 0xC5).putTid vtid).setA a)
  | .grep h d a vtid => some ((((fields h 0xC6).setD d).setA a).putTid vtid)
  | .gqryV h mode d a tid => some (((((fields h 0xC7).setM (qmodeCode mode)).putD d).putA a).putTid tid)
  | .gqryS h mode d a tid => some (((((fields h 0xC8).setM (qmodeCode mode)).putD d).putA a).putTid tid)
  | .gpopV h d a => some (((fields h 0xC9).putD d).putA a)
  | .gpopS h d a => some (((fields h 0xCA).putD d).putA a)
  | .gbldVtx h commit tid a b => some (((((fields h 0xCB).putMode0 commit).putTid tid).setA a).setB b)
  | .gbldTri h commit tid a b => some (((((fields h 0xCC).putMode0 commit).putTid tid).setA a).setB b)
  | .gpatch h d a tid => some ((((fields h 0xCD).setD d).setA a).putTid tid)
  | .srd h d reg => some (((fields h 0xE0).setD d).setImm9 ((0#1 : BitVec 1) ++ reg))
  | .swr h reg a => some (((fields h 0xE1).setImm9 ((0#1 : BitVec 1) ++ reg)).setA a)
  | .srdPair h d reg => some (((fields h 0xE2).setD d).setImm9 ((0#1 : BitVec 1) ++ reg))
  | .swrPair h reg a => some (((fields h 0xE3).setImm9 ((0#1 : BitVec 1) ++ reg)).setA a)
  | .moduleReset => none
  | .firmwareUpdate _ => none
  | .hostLinkTrain _ _ _ => none
  | .gulLinkUp _ _ _ => none
  | .hifVersionSelect _ => none
  | .wsdropClear => none
  | .registerWrite _ _ => none
  | .eventCounterWrite _ _ _ => none
  | .contextCreate => none
  | .contextDestroy _ => none
  | .ctxcmdBadOp _ => none
  | .hostRead _ _ _ _ => none
  | .hostWrite _ _ _ _ => none
  | .wsHostWrite _ _ => none
  | .launchRead _ => none
  | .gangPlace _ => none
  | .frontRelease _ => none
  | .gangResourceRelease _ => none
  | .runIssue _ _ => none
  | .fusedExpSum _ => none
  | .drain _ _ => none
  | .propagate _ _ => none
  | .loadStep _ _ => none
  | .atomicStep _ _ => none
  | .fenceMarkLeave _ _ => none
  | .engineAccept _ => none
  | .engineLine _ _ => none
  | .engineArrival _ _ => none
  | .select _ _ => none
  | .tensorTableStep _ _ => none
  | .patternInstall _ _ => none
  | .tileOpComplete _ _ => none
  | .queryRoundReady _ _ => none
  | .sampleCommit _ _ => none
  | .grasReplay _ _ => none
  | .queueReserve _ => none
  | .queueHostImport _ _ => none
  | .gatherBatch _ _ => none
  | .gatherHoldExpire _ _ => none
  | .jobEndCondition _ => none
  | .jobComplete _ => none
  | .sillageSpill _ _ => none
  | .sillageRefill _ _ => none
  | .trapEntry _ => none
  | .faultForward _ => none
  | .faultRecordAppend _ => none
  | .resume _ => none
  | .abort _ => none
  | .migrate _ => none
  | .cmdUnknown _ => none
  | .migrateLine _ _ => none
  | .migrateSwap _ => none
  | .gangEvict _ => none
  | .copyQuiesce _ => none
  | .evictSave _ => none
  | .gangRestore _ => none
  | .coreStateHandover _ _ => none
  | .coreStateRestore _ _ => none
  | .sleepExpire _ => none
  | .wakeatExpire _ => none
  | .promiseExpire _ => none
  | .wsRefreshWindow => none
  | .powerBubble => none
  | .cycleStretch _ => none
  | .clusterModeChange _ _ => none
  | .elasticClockChange _ _ => none
  | .softError _ => none
  | .spdmMessage _ => none
  | .linkBlockResend _ => none
  | .podForward _ _ => none
  | .podAccessArrival _ => none

/-! ## Decoding and encoding -/

/-- The instruction that fields hold, where it passes steps 2 to 4 of R75. -/
def ofFields (f : Fields) : Option Instr :=
  match build f with
  | some i => if i.wf = true ∧ toFields i = some f then some i else none
  | none => none

/-- The first instruction of a list of words, and the words after it; none is ILLEGAL (R75). -/
def decodeWords (ws : List Word) : Option (Instr × List Word) :=
  match frame ws with
  | some (f, r) => (ofFields f).map (·, r)
  | none => none

/-- The words of an instruction (R60); none for a device event. -/
def encode (i : Instr) : List Word :=
  match toFields i with
  | some f => f.words
  | none => []

/-- Words from bytes, each little-endian (R13); bytes beyond the last whole word are left out. -/
def wordsOfBytes : List Byte → List Word
  | b0 :: b1 :: b2 :: b3 :: r => (b3 ++ b2 ++ b1 ++ b0 : BitVec 32) :: wordsOfBytes r
  | _ => []

/-- The four bytes of a word, lowest first (R13). -/
def bytesOfWord (w : Word) : List Byte :=
  [w.extractLsb' 0 8, w.extractLsb' 8 8, w.extractLsb' 16 8, w.extractLsb' 24 8]

/-- The first instruction of a list of bytes. -/
def decode (bs : List Byte) : Option Instr := (decodeWords (wordsOfBytes bs)).map (·.1)

/-- The bytes of an instruction whose bits are w, up to the longest instruction, which has five words (R60): bits at and
above nbits are zero. -/
def tableBytes (nbits w : Nat) : List Byte :=
  (List.range 20).map fun k => BitVec.ofNat 8 ((w % 2 ^ nbits) >>> (8 * k))

/-- The instruction that the decoder reads from an instruction whose bits are w (spec/opcode_table.json). -/
def decodeTableWord (nbits w : Nat) : Option Instr := decode (tableBytes nbits w)

end Sys2Proof
end

