-- ==== Sys2Proof/Machine/Run.lean ====
section
/-!
DEFINITION. How a run issues its next instruction: the words of fetch, loop buffer or fetched-ahead run (R61, R127, R351),
decode and the end of a run before what it cannot decode (R53, R75), fusing (R156); the turns of the agenda and the clocks
(R309-R312; notes/assumptions/4.md); and a minimal running machine around given words (notes/assumptions/3.md).
-/
namespace Sys2Proof.Machine

open Sys2Proof

/-- The words of a loop body from an address on, as a scheduler's loop buffer captures it; none for a body of more than n
instructions or where a fetch fails (R127). -/
def Issue.body (m : Issue) (last pc : DWord) : Nat → State × Option (List (Nat × List Word))
  | 0 => (m.s, if last.toNat < pc.toNat then some [] else none)
  | n + 1 =>
    if last.toNat < pc.toNat then (m.s, some []) else
    match m.words pc with
    | (s1, .error _) => (s1, none)
    | (s1, .ok ws) =>
      match ({ m with s := s1 }).body last (pc + BitVec.ofNat 64 (4 * ws.length)) n with
      | (s2, r) => (s2, r.map fun l => (pc.toNat, ws) :: l)

/-- The instructions that the loops of a split run from the loop buffer: context, address, words (R127). -/
def Split.captured (ctx : Nat) (k : Split) : List (Nat × Nat × List Word) :=
  (k.levels.map fun l => if l.bufOn then l.buf.map fun x => (ctx, x) else []).flatten

/-- What the loop buffer of a scheduler holds: the captured loops of every group on it, or of the front (R9, R127). -/
def State.loopBuffer (s : State) (core sched : Nat) : List (Nat × Nat × List Word) :=
  let of (g : Group) := (g.splits.map (Split.captured g.ctx)).flatten
  if sched = 4 then (match (s.core core).front with | some f => of f.group | none => [])
  else ((s.onSched core sched).map of).flatten

/-- A loop level whose body waits to be captured runs from the loop buffer from now on, where the buffer has room for its body
beside what it holds (R9, R127; notes/assumptions/100.md). -/
def Issue.captureLevel (m : Issue) (held : List (Nat × Nat × List Word)) (l : Level) : State × Level :=
  if !l.armed then (m.s, l) else
  match m.body l.last l.start Config.loopBuffer with
  | (s1, some b) =>
    if ((b.map fun x => (m.g.ctx, x)) ++ held).eraseDups.length ≤ Config.loopBuffer then
      (s1, { l with buf := b, bufOn := true, armed := false })
    else (s1, { l with armed := false })
  | (s1, none) => (s1, { l with armed := false })

/-- The loop levels of the split whose bodies wait to be captured are (R127). -/
def Issue.capture (m : Issue) : Issue :=
  if m.k.levels.any (·.armed) then
    let r := m.k.levels.foldl (fun (x : State × List Level) l =>
      let held := m.s.loopBuffer m.g.host m.g.sched ++ Split.captured m.g.ctx { m.k with levels := x.2 }
      let y := ({ m with s := x.1 }).captureLevel held l
      (y.1, x.2 ++ [y.2])) (m.s, [])
    { m with s := r.1, k := { m.k with levels := r.2 } }
  else m

/-- What stands at an address: a failed fetch, words that decode to no instruction, or an instruction. -/
inductive Next where
  | bad (b : Bad)
  | illegal
  | instr (i : Instr) (ws : List Word)
  deriving Repr

/-- The instruction at an address. -/
def Issue.next (m : Issue) (pc : DWord) : State × Next :=
  match m.words pc with
  | (s1, .error b) => (s1, .bad b)
  | (s1, .ok ws) =>
    match decodeWords ws with
    | some (i, _) => (s1, .instr i ws)
    | none => (s1, .illegal)

/-- The run ends before its next instruction; the split is READY (R53). -/
def Issue.endBefore (m : Issue) : State := ({ m with k := m.k.ready (m.s.now m.g) }).commit.dropRun

/-- The instructions from an address on that the run former decodes without a fault, up to n of them, with the state that
fetching has left. -/
def Issue.decodeAhead (m : Issue) (pc : DWord) : Nat → State × List (Instr × DWord × List Word)
  | 0 => (m.s, [])
  | n + 1 =>
    match m.next pc with
    | (s1, .instr i ws) =>
      let h : Hd := { m.h with ixs := 0 }
      if (m.g.decodeTrap h i).isSome then (s1, []) else
      let (s2, r) := ({ m with s := s1 }).decodeAhead (pc + BitVec.ofNat 64 (4 * ws.length)) n
      (s2, (i, pc, ws) :: r)
    | (s1, _) => (s1, [])

/-- The fused operation that starts at the split's PC, where R156 fuses. -/
def Issue.fuse (m : Issue) : Option (Issue × FusedOps) :=
  if m.k.alone m.k.inHandler = some m.k.pc ∨ m.s.runCount + 4 > Config.runLength then none else
  let (s1, l) := m.decodeAhead m.k.pc 4
  match fusedOf (l.map (·.1)) with
  | none => none
  | some f =>
    if (l.take 3).any fun x => m.k.levels.any fun v => v.last == x.2.1 then none
    else some ({ m with s := s1 }, f)

/-- The VMAX that did not fuse has issued, unless its run stalled: a later issue may fuse (R157). -/
def State.unfuse (s : State) (ag : Agent) (inHandler : Bool) : State :=
  if s.runs.any fun r => r.agent == ag && r.stalled then s else
  match s.issueOf ag ⟨false, .l0, 0⟩ with
  | some m => ({ m with k := m.k.setAlone inHandler none }).commit
  | none => s

/-- n instructions of an agent have issued, unless its run stalls in place (R54, R313); one that traps at its issue counts
(notes/assumptions/118.md). -/
def State.counted (s : State) (m : Issue) (n : Nat) : State :=
  let stopped := s.runs.any fun r => r.agent == m.ag && r.stalled
  let unfused := (s.issueOf m.ag ⟨false, .l0, 0⟩).any fun x => x.k.alone m.k.inHandler == some m.k.pc
  if stopped || unfused then s else s.count (m.g.host / 8) (some m.g.ctx) 3 n

/-- The outcome of an instruction, with what the run former does once it has issued. -/
def settled (m : Issue) (n : Nat) (o : Host.Outcome State Fault Refusal) : Host.Outcome State Fault Refusal :=
  match o with
  | .next t => .next ((if m.k.alone m.k.inHandler = some m.k.pc then t.unfuse m.ag m.k.inHandler else t).counted m n)
  | o => o

/-- The head run's next instruction (R52-R54, R75); with no run in progress nothing happens. A split that was created to raise
PROT at its first instruction does (R274). -/
def State.issueNext (s : State) (ex : Instr → State → Host.Outcome State Fault Refusal) : Host.Outcome State Fault Refusal :=
  match s.issuer ⟨false, .l0, 0⟩ with
  | none => .next s.dropRun
  | some m0 =>
    if m0.k.hold = .prot then .next (m0.raise .prot 0 0) else
    let m := m0.capture
    match m.fuse with
    | some (m1, f) => settled m 4 (ex (.fusedExpSum f) m1.commit)
    | none =>
      let first := s.runCount = 0
      match m.next m.k.pc with
      | (s1, .bad b) => .next (if first then m.fail s1 b 4 else ({ m with s := s1 }).endBefore)
      | (s1, .illegal) => .next (if first then ({ m with s := s1 }).raise .illegal 0 0 else ({ m with s := s1 }).endBefore)
      | (s1, .instr i _) =>
        if (m.g.decodeTrap m.h i).isSome && !first then .next ({ m with s := s1 }).endBefore
        else settled m 1 (ex i ({ m with s := s1 }).commit)

/-! ## Clocks and turns -/

/-- The i-th run becomes the head run. -/
def State.switchRun (s : State) (i : Nat) : State :=
  match s.runs[i]? with
  | some r => { s with runs := r :: s.runs.eraseIdx i }
  | none => s

/-- A device event, which no program holds: it has no words. -/
def isEvent (i : Instr) : Bool := (encode i).isEmpty

/-- A turn (notes/assumptions/4.md): an instruction reaches the machine only through its words. -/
def State.turn (s : State) (ex : Instr → State → Host.Outcome State Fault Refusal) (t : Turn) :
    Host.Outcome State Fault Refusal :=
  match t with
  | .event e => if isEvent e then ex e s else .next s
  | .tick n => .next (s.tick n)
  | .issue => s.issueNext ex
  | .switch i => .next (s.switchRun i)

/-! ## A minimal running machine around given words -/

/-- Words stored from an address of device memory on. -/
def State.putWords (s : State) (a : Nat) (ws : List Word) : State :=
  { s with mem := cellsPut s.mem a (ws.map bytesOfWord).flatten }

/-- The job that placed words run in: span 56, an allotment of 64, five accumulator tiles, every queue. -/
def bareJob (uid : Nat) : Job :=
  { uid := uid, ctx := 0, lseq := 0, cidx := 256, prio := 0, det := false, replay := false, deps := []
    args := Vector.replicate 32 0, traceSz := 0, traceAddr := 0, qmask := BitVec.allOnes 64, wpc := 1, ccount := 1
    cfirst := 0, spUnits := 16, gdelay := 0, acct := 5, span := 56, allot := 64, gangN := 0, spill := 0, wentry := 0x100000
    fentry := 0, state := .active, status := 0, acqSeq := 0, redNext := [], trace := [], expected := [] }

/-- A machine that runs words at once: context 0 with one page of 64 MiB mapped one to one, a job, a gang of one group on
core 0, its split issuing at the words. -/
def State.bareMachine (s : State) (ws : List Word) : State :=
  let j := bareJob s.nextUid
  let g := s.nextUid + 1
  let grp := Group.fresh j false g 0 0 0 0 0 0 0 56 0x100000 0
  let grp := { grp with splits := grp.splits.map fun k => { k with state := .issuing } }
  let gang : Gang :=
    { uid := g, job := j.uid, worker := 0, lcore := 0, host := 0, state := .resident, placed := true, age := 0, spBase := 0
      spSize := 4096, groups := [grp], cmds := [], phase := 0, stage := 0, saveOff := 0, listSeq := 0, held := false, evictor := none }
  let ctx : Context := { Context.blank 0 with ttroot := 0x40000, qaSize := 16, nmSize := 768 }
  let s1 := { s with
    mem := cellsPut (cellsPut s.mem 0x40000 (leBytes 8 0x80001)) 0x80000 (leBytes 8 0xF)
    contexts := upsert (fun c => c.id == 0) ctx s.contexts
    jobs := s.jobs ++ [j]
    gangs := s.gangs ++ [gang]
    runs := { agent := .split g 0 0, core := 0, sched := 0, count := 0, stalled := false, ahead := [] } :: s.runs
    nextUid := s.nextUid + 2
    agenda := [] }
  (s1.setCore { s1.core 0 with tlb := [], walks := [], icache := [] }).putWords 0x100000 ws

/-- The words placed where the head run fetches next, behind what translates its PC; where no run is in progress, or its
PC is not mapped to executable device memory, a minimal machine runs them. -/
def State.placeWords (s : State) (ws : List Word) : State :=
  match s.issuer ⟨false, .l0, 0⟩ with
  | none => s.bareMachine ws
  | some m =>
    let pc := m.k.pc.toNat
    match s.walk m.ctx.ttroot.toNat pc with
    | .fault => s.bareMachine ws
    | .page b z pte =>
      let p := pageOf b z pte
      if p.target ≠ 0 ∨ !p.x ∨ b + z < pc + 4 * ws.length then s.bareMachine ws else
      let k := { m.k with levels := m.k.levels.map fun l => { l with buf := [], bufOn := false, armed := false } }
      let s1 := ({ m with k := k }).commit
      let s2 : State := { s1 with agenda := [], runs := match s1.runs with | r :: rs => { r with ahead := [] } :: rs | [] => [] }
      (s2.setCore { s2.core m.g.host with tlb := [], walks := [], icache := [] }).putWords (p.key + (pc - b)) ws

end Sys2Proof.Machine
end

