-- ==== Sys2Proof/Machine/Step.lean ====
section
/-!
DEFINITION. One step of the module: the next turn of the agenda, or the next instruction of the head run (R52-R54, R75, R127;
notes/assumptions/4.md); and how the host places an instruction where a step fetches it.
-/
namespace Sys2Proof.Machine

open Sys2Proof

/-- A step: the next turn that the agenda holds, else the head run's next instruction. -/
def step (s : State) : Host.Outcome State Fault Refusal :=
  match s.agenda with
  | [] => s.issueNext exec
  | t :: r => ({ s with agenda := r }).turn exec t

/-- The state with an instruction of nbits bits stored where the next step fetches (notes/assumptions/3.md). -/
def State.withFetchWord (s : State) (nbits w : Nat) : State := s.placeWords (wordsOfBytes (tableBytes nbits w))

end Sys2Proof.Machine
end

