-- ==== Sys2Proof/Safety.lean ====
section
/-!
DEFINITION. The terms in which statements about the machine are made: when an instruction issues past the checks of R75, how
it completes, what a step leaves unchanged, and which registers the register-only instructions write.
-/
namespace Sys2Proof.Machine

open Sys2Proof

/-- The head run's agent stands at an instruction with header h, and the checks of R75 that precede the instruction's own let
i through: it raises nothing there, and no operand of it is still to be written (R54). -/
def Issues (i : Instr) (h : Hd) (s : State) (m : Issue) : Prop := s.issuer h = some m ∧ m.verdict i = .go

/-- The instruction in progress, with what R52 says of its ending the run. -/
def Issue.of (m : Issue) (i : Instr) : Issue := { m with mf := mayFault i m.g.fpmode }

/-- i answers a next state. -/
def Completes (i : Instr) (s t : State) : Prop := exec i s = .next t

/-- i writes v, a value of type ty, to scalar register operand d, and completes in sequence. -/
def WritesScalar (i : Instr) (s : State) (m : Issue) (ty : Ty) (d : Opnd) (v : DWord) : Prop :=
  Completes i s (((m.of i).sputT ty (m.reg d) v).done)

/-- i writes f, per lane and of type ty, to the active lanes of vector register operand d, and completes in sequence. -/
def WritesLanes (i : Instr) (s : State) (m : Issue) (ty : Ty) (d : Opnd) (f : Nat → DWord) : Prop :=
  Completes i s (((m.of i).vputT ty (m.reg d) m.active f).done)

/-- The comparisons of R94 that integers know. -/
def cmpHolds (c : CmpOp) (x y : Int) : Bool :=
  match c with
  | .eq => x == y
  | .ne => x != y
  | .lt => decide (x < y)
  | .le => decide (x ≤ y)
  | .gt => decide (y < x)
  | .ge => decide (y ≤ x)
  | .uno => false
  | .ord => true

/-- The lesser and the greater of two values of an integer type (R131). -/
def lesser (ty : Ty) (a b : DWord) : DWord := if val ty a ≤ val ty b then a else b
def greater (ty : Ty) (a b : DWord) : DWord := if val ty b ≤ val ty a then a else b

/-- A right shift of a value of an integer type by any count (R132): the sign comes in for i types, zeros otherwise. -/
def shiftedRight (ty : Ty) (a : DWord) (n : Nat) : DWord :=
  match tySigned ty, tyBits ty with
  | true, 32 => ((a.setWidth 32).sshiftRight n).setWidth 64
  | true, _ => a.sshiftRight n
  | false, _ => a >>> n

/-! ## Which checks an instruction meets at its issue (R75) -/

/-- The header of an instruction of the opcode map; a device event has none. -/
def headerOf : Instr → Option Hd
  | .bra h _ | .brc h _ _ | .brz h _ _ | .brd h _ _ | .jmpiS h _ | .jmpiV h _ | .call h _ _ | .calliS h _ _
  | .calliV h _ _ | .ret h | .recv h | .rtt h | .loop h _ _ _ | .nop h | .endI h | .fence h _ _ | .trap h _ | .bkpt h
  | .wait h _ _ | .sleep h _ | .wakeat h _ | .sync h | .publish h _ | .deq h _ _ _ | .enq h _ _ _ _ | .dqpop h _ _ _
  | .dqpush h _ | .emit h _ _ | .bbi h _ _ | .bba h _ _ | .bbw h _ | .smov h _ _ _ | .sadd h _ _ _ _ | .ssub h _ _ _ _
  | .smul h _ _ _ _ | .sdiv h _ _ _ _ | .smin h _ _ _ _ | .smax h _ _ _ _ | .sand h _ _ _ _ | .sor h _ _ _ _
  | .sxor h _ _ _ _ | .sshl h _ _ _ _ | .sshr h _ _ _ _ | .scmp h _ _ _ _ _ | .ssel h _ _ _ _ _ | .sbfe h _ _ _ _
  | .sbfi h _ _ _ _ _ | .smovImm h _ _ _ | .saddImm h _ _ _ _ | .ssubImm h _ _ _ _ | .smulImm h _ _ _ _
  | .sdivImm h _ _ _ _ | .sminImm h _ _ _ _ | .smaxImm h _ _ _ _ | .sandImm h _ _ _ _ | .sorImm h _ _ _ _
  | .sxorImm h _ _ _ _ | .sshlImm h _ _ _ _ | .sshrImm h _ _ _ _ | .spopc h _ _ _ | .sclz h _ _ _ | .sbfeImm h _ _ _ _
  | .vmov h _ _ _ | .vadd h _ _ _ _ _ | .vsub h _ _ _ _ _ | .vmul h _ _ _ _ _ | .vmad h _ _ _ _ _ _
  | .vdiv h _ _ _ _ _ | .vmin h _ _ _ _ | .vmax h _ _ _ _ | .vand h _ _ _ _ | .vor h _ _ _ _ | .vxor h _ _ _ _
  | .vshl h _ _ _ _ | .vshr h _ _ _ _ | .vbfe h _ _ _ _ | .vbfi h _ _ _ _ _ | .vsel h _ _ _ _ _ | .vcmp h _ _ _ _ _
  | .vabs h _ _ _ | .vneg h _ _ _ | .vpopc h _ _ _ | .vclz h _ _ _ | .vclass h _ _ _ | .vcvt h _ _ _ _ _ _ _
  | .vrcp h _ _ _ _ | .vrsq h _ _ _ _ | .vsqrt h _ _ _ _ | .vexp2 h _ _ _ _ | .vlog2 h _ _ _ _ | .vsin h _ _ _ _
  | .vcos h _ _ _ _ | .vrnd h _ _ | .vmovSb h _ _ _ | .vaddSb h _ _ _ _ _ | .vsubSb h _ _ _ _ _ | .vmulSb h _ _ _ _ _
  | .vmadSb h _ _ _ _ _ _ | .vdivSb h _ _ _ _ _ | .vminSb h _ _ _ _ | .vmaxSb h _ _ _ _ | .vandSb h _ _ _ _
  | .vorSb h _ _ _ _ | .vxorSb h _ _ _ _ | .vshlSb h _ _ _ _ | .vshrSb h _ _ _ _ | .vbfeSb h _ _ _ _
  | .vbfiSb h _ _ _ _ _ | .vselSb h _ _ _ _ _ | .vcmpSb h _ _ _ _ _ | .vmovImm h _ _ _ | .vaddImm h _ _ _ _
  | .vminImm h _ _ _ _ | .vmaxImm h _ _ _ _ | .vandImm h _ _ _ _ | .vorImm h _ _ _ _ | .vxorImm h _ _ _ _
  | .xsel h _ _ _ _ | .xred h _ _ _ _ | .xscan h _ _ _ _ _ _ _ | .xget h _ _ _ _ | .xgetImm h _ _ _
  | .xselSb h _ _ _ _ | .vshlImm h _ _ _ _ | .vshrImm h _ _ _ _ | .ldVA h _ _ _ _ _ | .ldSA h _ _ _ _ _ | .ldl h _ _ _
  | .lds h _ _ _ _ _ | .stVA h _ _ _ _ _ | .stSA h _ _ _ _ _ | .sts h _ _ _ _ _ | .ldSAVB h _ _ _ _ _
  | .atomV h _ _ _ _ _ _ _ | .atomS h _ _ _ _ _ _ _ | .ratomV h _ _ _ _ _ _ _ | .ratomS h _ _ _ _ _ _ _ | .flush h _ _
  | .icinv h _ | .tlbinv h _ _ _ | .cpy h _ _ _ | .cpyTid h _ _ _ _ | .kick h _ _ | .mma h _ _ _ _ _ _
  | .mmas h _ _ _ _ _ _ _ _ | .mrdV h _ _ _ _ _ _ | .mrdS h _ _ _ _ _ _ _ | .mclr h _ | .mwb h _ _ | .mwbLayer h _ _ _
  | .tdef h _ _ | .tdefGet h _ _ | .pload h _ _ | .pgenV h _ _ _ _ | .pgenS h _ _ _ _ | .ginwSmp h _ _ _
  | .ginwEdge h _ _ _ | .ginwRay h _ _ _ | .grasS h _ _ | .grasV h _ _ | .grep h _ _ _ | .gqryV h _ _ _ _
  | .gqryS h _ _ _ _ | .gpopV h _ _ | .gpopS h _ _ | .gbldVtx h _ _ _ _ | .gbldTri h _ _ _ _ | .gpatch h _ _ _
  | .srd h _ _ | .swr h _ _ | .srdPair h _ _ | .swrPair h _ _ => some h
  | _ => none

/-- Every register operand of an instruction lies in 0 to 7 + span, and its accumulator tile is one of the group's (R71, R74). -/
def InBounds (m : Issue) (i : Instr) : Prop :=
  (∀ u ∈ uses i, 0 ≤ m.g.regAt m.h u.o ∧ m.g.regAt m.h u.o + u.n - 1 ≤ 7 + m.g.span) ∧
    ∀ a, accOf i = some a → a.toNat < m.g.acct

/-- A direct register of an instruction lies below 3, where its own entry asks for 3 at least (R48, R186, R254, R257, R339,
R345); D of a CPY may be 0. -/
def BelowLowest (i : Instr) : Prop :=
  (∃ h d a b, i = .deq h d a b ∧ b < 3) ∨ (∃ h d a b n, i = .enq h d a b n ∧ d < 3) ∨ (∃ h d a j, i = .dqpop h d a j ∧ d < 3) ∨
  (∃ h c d a, i = .cpy h c d a ∧ (a < 3 ∨ d = 1 ∨ d = 2)) ∨ (∃ h c d a t, i = .cpyTid h c d a t ∧ (a < 3 ∨ d = 1 ∨ d = 2)) ∨
  (∃ h c d a t, i = .gqryS h c d a t ∧ a.ind = false ∧ a.n < 3) ∨ ∃ h d a, i = .gpopS h d a ∧ d.ind = false ∧ d.n < 3

/-- No register that an instruction reads or writes, and no word of the split's mask, is yet to be written (R54). -/
def OperandsReady (m : Issue) (i : Instr) : Prop := m.maskPending = false ∧ ∀ u ∈ touches i, m.usePending u = false

/-! ## Floating-point results as the spec words them (R135-R154) -/

/-- 2^e. -/
def pow2 (e : Int) : Rat := if e < 0 then 1 / 2 ^ (-e).toNat else 2 ^ e.toNat

/-- The magnitude of a number. -/
def magOf (q : Rat) : Rat := if q < 0 then -q else q

/-- A floating format (R135): exponent bits, fraction bits, and whether it has infinities (e4m3 has none). -/
structure Shape where
  eb  : Nat
  fb  : Nat
  inf : Bool

/-- The formats of the floating types (R135). -/
def shapeOf : Ty → Option Shape
  | .f64 => some ⟨11, 52, true⟩
  | .f32 => some ⟨8, 23, true⟩
  | .f16 => some ⟨5, 10, true⟩
  | .bf16 => some ⟨8, 7, true⟩
  | .e5m2 => some ⟨5, 2, true⟩
  | .e4m3 => some ⟨4, 3, false⟩
  | _ => none

namespace Shape

/-- Width, sign, exponent field and fraction field (R135). -/
def width (f : Shape) : Nat := 1 + f.eb + f.fb
def neg (f : Shape) (x : Nat) : Bool := decide (2 ^ (f.eb + f.fb) ≤ x % 2 ^ f.width)
def exp (f : Shape) (x : Nat) : Nat := x / 2 ^ f.fb % 2 ^ f.eb
def frac (f : Shape) (x : Nat) : Nat := x % 2 ^ f.fb
def bias (f : Shape) : Int := 2 ^ (f.eb - 1) - 1
def sgn (f : Shape) (n : Bool) : Nat := if n then 2 ^ (f.eb + f.fb) else 0
def isInf (f : Shape) (x : Nat) : Bool := f.inf && f.exp x == 2 ^ f.eb - 1 && f.frac x == 0
def isNan (f : Shape) (x : Nat) : Bool :=
  f.exp x == 2 ^ f.eb - 1 && if f.inf then f.frac x != 0 else f.frac x == 2 ^ f.fb - 1
/-- A NaN whose quiet bit is 0; every e4m3 NaN counts as quiet (R137). -/
def isSignalling (f : Shape) (x : Nat) : Bool := f.inf && f.isNan x && decide (f.frac x < 2 ^ (f.fb - 1))
/-- A NaN with its quiet bit set (R138). -/
def quieted (f : Shape) (x : Nat) : Nat := x % 2 ^ f.width + if f.frac x < 2 ^ (f.fb - 1) then 2 ^ (f.fb - 1) else 0
def isFinite (f : Shape) (x : Nat) : Bool := !f.isNan x && !f.isInf x
/-- What stands for an infinite magnitude: infinity, in e4m3 NaN (R144); the default NaN (R137); the largest finite magnitude. -/
def infinity (f : Shape) : Nat := if f.inf then (2 ^ f.eb - 1) * 2 ^ f.fb else 2 ^ (f.eb + f.fb) - 1
def defaultNan (f : Shape) : Nat := if f.inf then (2 ^ f.eb - 1) * 2 ^ f.fb + 2 ^ (f.fb - 1) else 2 ^ (f.eb + f.fb) - 1
def largestBits (f : Shape) : Nat := f.infinity - 1
/-- One. -/
def one (f : Shape) : Nat := (2 ^ (f.eb - 1) - 1) * 2 ^ f.fb
/-- The value of a finite bit pattern (R135). -/
def value (f : Shape) (x : Nat) : Rat :=
  (if f.neg x then -1 else 1) *
    (if f.exp x = 0 then (f.frac x : Rat) * pow2 (1 - f.bias - f.fb)
     else ((2 ^ f.fb + f.frac x : Nat) : Rat) * pow2 (f.exp x - f.bias - f.fb))
def largest (f : Shape) : Rat := f.value f.largestBits
/-- An input of an arithmetic instruction: under FZIN a subnormal is read as zero of its sign (R146, R147). -/
def input (f : Shape) (fpmode : Word) (x : Nat) : Nat :=
  if fpmode.getLsbD 6 = true ∧ f.exp x = 0 then f.sgn (f.neg x) else x % 2 ^ f.width

end Shape

/-- The format of f32. -/
def single : Shape := ⟨8, 23, true⟩

/-- A number of the matrix array as a rational number; NaN and infinities have none, and count 0. -/
def finVal : FVal → Rat
  | .fin n m e => (if n then -1 else 1) * m * pow2 e
  | _ => 0

/-- A magnitude of t units rounded to whole units (R143), under `.rsto` with the random word of the lane (R154). -/
def roundUnits (r : Rnd) (rnd : Nat) (neg : Bool) (t : Rat) : Int :=
  let n := t.floor
  let d := t - n
  match r with
  | .ne => if 1 / 2 < d ∨ (d = 1 / 2 ∧ n % 2 = 1) then n + 1 else n
  | .up => if 0 < d ∧ neg = false then n + 1 else n
  | .dn => if 0 < d ∧ neg = true then n + 1 else n
  | .sto => if (rnd : Rat) < d * 2 ^ 32 then n + 1 else n
  | .tz => n

/-- The result of an overflow, but for its sign (R144). -/
def overflowsTo (f : Shape) (r : Rnd) (neg : Bool) : Nat :=
  match r with
  | .ne | .sto => f.infinity
  | .tz => f.largestBits
  | .up => if neg then f.largestBits else f.infinity
  | .dn => if neg then f.infinity else f.largestBits

/-- A result is the exact value q, which is not zero, rounded once, with the flags of R144 and R145; `fz` says that a tiny result
is replaced by zero (R146); `rnd` is the random word of a lane (R154). u is the unit of the last place at the magnitude of q. -/
def RoundsTo (f : Shape) (r : Rnd) (fz : Bool) (q : Rat) (x : Res) (rnd : Nat := 0) : Prop :=
  ∀ k : Int, pow2 k ≤ magOf q → magOf q < pow2 (k + 1) →
    let neg := decide (q < 0)
    let u := pow2 (max k (1 - f.bias) - f.fb)
    let n : Rat := roundUnits r rnd neg (magOf q / u)
    let tiny := (roundUnits r rnd neg (magOf q / pow2 (k - f.fb)) : Rat) * pow2 (k - f.fb) < pow2 (1 - f.bias)
    (f.largest < n * u → x = (BitVec.ofNat 64 (f.sgn neg + overflowsTo f r neg), fOF ||| fNX)) ∧
    (n * u ≤ f.largest → tiny → fz = true → x = (BitVec.ofNat 64 (f.sgn neg), fUF ||| fNX)) ∧
    (n * u ≤ f.largest → (tiny → fz = false) → f.isFinite x.1.toNat ∧ f.neg x.1.toNat = neg ∧
      f.value x.1.toNat = (if neg then -1 else 1) * (n * u) ∧ x.1.toNat < 2 ^ f.width ∧
      (n * u = magOf q → x.2 = 0) ∧ (n * u ≠ magOf q → tiny → x.2 = fUF ||| fNX) ∧ (n * u ≠ magOf q → ¬tiny → x.2 = fNX))

/-! ## What a step leaves unchanged -/

/-- Every byte of memory is as before where it is held, and reads as before at its home. -/
def SameBytes (s t : State) : Prop :=
  (∀ a, cellGet t.mem a = cellGet s.mem a) ∧ ∀ key n, t.readHome key n = s.readHome key n

/-- Every byte of memory reads as before: where it is held, at its home, and in the view of every core. -/
def SameMemory (s t : State) : Prop :=
  (∀ a, cellGet t.mem a = cellGet s.mem a) ∧ (∀ key n, t.readHome key n = s.readHome key n) ∧
  ∀ core key n, t.readView core key n = s.readView core key n

/-- Everything but the groups, the fronts and the runs in progress is as before. -/
def SameModule (s t : State) : Prop := { t with gangs := s.gangs, cores := s.cores, runs := s.runs } = s

/-- Every other group and front is as before. -/
def OthersSame (q : QId) (s t : State) : Prop := ∀ p, p ≠ q → t.group? p = s.group? p

/-- The split n of a group is as before but for the registers named: its PC and loop state, its mask, when and how it is
scheduled. Its lanes, its window base and its trap registers stand. -/
def SplitStands (k0 k : Split) : Prop :=
  k.no = k0.no ∧ k.base = k0.base ∧ k.owned = k0.owned ∧ k.trapCause = k0.trapCause ∧ k.trapPc = k0.trapPc ∧
  k.trapAddr = k0.trapAddr ∧ k.inHandler = k0.inHandler ∧ k.entryMask = k0.entryMask ∧ k.entryBase = k0.entryBase

/-- After an instruction that only writes registers: g is the group of its agent, everything outside that group but the
list of runs is as before, and of the group only register halves, FPFLAGS and the agent's own split may have changed. -/
def RegistersOnly (m : Issue) (t : State) (g : Group) : Prop :=
  t.group? (qidOf m.ag) = some g ∧ SameModule m.s t ∧ SameMemory m.s t ∧ OthersSame (qidOf m.ag) m.s t ∧
  { g with globals := m.g.globals, ring := m.g.ring, past := m.g.past, splits := m.g.splits, fpflags := m.g.fpflags } = m.g ∧
  (∀ n, n ≠ m.k.no → g.split? n = m.g.split? n) ∧ ∃ k, g.split? m.k.no = some k ∧ SplitStands m.k k

/-- Absolute slots a and b of a group are held in one place: they are one global slot, or one ring position (R106, R107). -/
def SamePlace (g : Group) (a b : Nat) : Prop := if a < 8 ∨ b < 8 then a = b else g.pos a = g.pos b

/-! ## The destinations of the register-only instructions -/

/-- The type and operand of the scalar destination of an instruction that writes one scalar register (or pair), has no other
effect and raises no trap of its own: the scalar instructions, SRD, and XGET with an immediate lane. -/
def scalarDest : Instr → Option (Hd × Ty × Opnd)
  | .smov h t d _ | .sadd h t d _ _ | .ssub h t d _ _ | .smul h t d _ _ | .sdiv h t d _ _ | .smin h t d _ _
  | .smax h t d _ _ | .sand h t d _ _ | .sor h t d _ _ | .sxor h t d _ _ | .sshl h t d _ _ | .sshr h t d _ _
  | .ssel h t d _ _ _ | .sbfe h t d _ _ | .sbfi h t d _ _ _ | .smovImm h t d _ | .saddImm h t d _ _ | .ssubImm h t d _ _
  | .smulImm h t d _ _ | .sdivImm h t d _ _ | .sminImm h t d _ _ | .smaxImm h t d _ _ | .sandImm h t d _ _
  | .sorImm h t d _ _ | .sxorImm h t d _ _ | .sshlImm h t d _ _ | .sshrImm h t d _ _ | .sbfeImm h t d _ _ => some (h, t, d)
  | .scmp h _ _ d _ _ | .spopc h _ d _ | .sclz h _ d _ => some (h, .b32, d)
  | .xgetImm h d _ _ | .srd h d _ => some (h, .b32, plain d)
  | .srdPair h d _ => some (h, .n64, plain d)
  | _ => none

/-- The type and operand of the vector destination of an instruction that writes lanes of one vector register (or pair) and
has no other effect but flags: the vector instructions and XSEL and XSCAN. -/
def vectorDest : Instr → Option (Hd × Ty × Opnd)
  | .vmov h t d _ | .vadd h t _ d _ _ | .vsub h t _ d _ _ | .vmul h t _ d _ _ | .vmad h t _ d _ _ _ | .vdiv h t _ d _ _
  | .vmin h t d _ _ | .vmax h t d _ _ | .vand h t d _ _ | .vor h t d _ _ | .vxor h t d _ _ | .vshl h t d _ _
  | .vshr h t d _ _ | .vbfe h t d _ _ | .vbfi h t d _ _ _ | .vsel h t d _ _ _ | .vabs h t d _ | .vneg h t d _
  | .vcvt h t _ _ _ d _ _ | .vrcp h t _ d _ | .vrsq h t _ d _ | .vsqrt h t _ d _ | .vexp2 h t _ d _ | .vlog2 h t _ d _
  | .vsin h t _ d _ | .vcos h t _ d _ | .vmovSb h t d _ | .vaddSb h t _ d _ _ | .vsubSb h t _ d _ _ | .vmulSb h t _ d _ _
  | .vmadSb h t _ d _ _ _ | .vdivSb h t _ d _ _ | .vminSb h t d _ _ | .vmaxSb h t d _ _ | .vandSb h t d _ _
  | .vorSb h t d _ _ | .vxorSb h t d _ _ | .vshlSb h t d _ _ | .vshrSb h t d _ _ | .vbfeSb h t d _ _ | .vbfiSb h t d _ _ _
  | .vselSb h t d _ _ _ | .vmovImm h t d _ | .vaddImm h t d _ _ | .vminImm h t d _ _ | .vmaxImm h t d _ _
  | .vandImm h t d _ _ | .vorImm h t d _ _ | .vxorImm h t d _ _ | .vshlImm h t d _ _ | .vshrImm h t d _ _ | .xsel h t d _ _
  | .xselSb h t d _ _ | .xscan h _ _ _ t d _ _ => some (h, t, d)
  | .vcmp h _ _ d _ _ | .vcmpSb h _ _ d _ _ | .vpopc h _ d _ | .vclz h _ d _ | .vclass h _ d _ | .vrnd h d _ => some (h, .b32, d)
  | _ => none

/-- The register numbers that a destination of a type names (R102). -/
def destRegs (ty : Ty) (n : Nat) : List Nat := if tyRegs ty = 2 then [n, n + 1] else [n]

/-- Every set bit of x is set in y. -/
def Within {w : Nat} (x y : BitVec w) : Prop := x &&& ~~~y = 0

/-- The vector registers and the scalar registers that an instruction writes at its issue where it has another effect beside, or
traps of its own, or several destinations: XGET with a lane from a register, XRED, PGEN, MRD, GINW, GQRY and GPOP. GREP and GPATCH
write their destination as events; so does a dense MRD. -/
def otherDests (m : Issue) : Instr → Option (Hd × List Nat × List Nat)
  | .xget h t d _ _ | .xred h _ t d _ => some (h, [], destRegs t (m.reg d))
  | .pgenS h _ d _ a => some (h, [], [m.reg d, m.reg a + 1])
  | .pgenV h _ d _ a => some (h, [m.reg d], [m.reg a + 1])
  | .mrdV h _ cmp _ d _ b =>
    if cmp then some (h, (List.range 64).map (m.reg d + ·), [m.ctlReg b, m.ctlReg b + 1]) else some (h, [], [])
  | .mrdS h _ _ cmp _ _ _ b => some (h, [], if cmp then [m.ctlReg b, m.ctlReg b + 1] else [])
  | .ginwSmp h d _ _ => some (h, (List.range 5).map (m.reg d + ·), [])
  | .ginwEdge h d _ _ | .ginwRay h d _ _ => some (h, (List.range 9).map (m.reg d + ·), [])
  | .gqryV h _ d _ _ => some (h, [m.reg d], [])
  | .gqryS h _ d _ _ => some (h, [], [m.reg d])
  | .gpopV h d _ => some (h, (List.range 13).map (m.reg d + ·), [])
  | .gpopS h d _ => some (h, [], (List.range 13).map (m.reg d + ·))
  | .grep h _ _ _ | .gpatch h _ _ _ => some (h, [], [])
  | _ => none

/-- Whatever becomes of an instruction that writes the vector registers vs and the scalar registers ss of its group, it completes,
waits or traps: no byte of memory changes, no other core's view of one, no other group; every vector half and every scalar half in
another place than these stands, so does every accumulator tile, FPMODE and TBASE; the mask stands where ss names no word of it. -/
def LeavesRest (i : Instr) (s : State) (m : Issue) (vs ss : List Nat) : Prop :=
  ∃ t, Completes i s t ∧ SameBytes s t ∧ (∀ core key n, core ≠ m.g.host → t.readView core key n = s.readView core key n) ∧
    OthersSame (qidOf m.ag) s t ∧ ∀ g, t.group? (qidOf m.ag) = some g →
      (∀ n, (∀ r ∈ vs, ¬SamePlace m.g n (absSlot m.k.base r)) → g.vec n = m.g.vec n) ∧
      (∀ n, (∀ r ∈ ss, ¬SamePlace m.g n (absSlot m.k.base r)) → g.scal n = m.g.scal n) ∧
      g.acc = m.g.acc ∧ g.fpmode = m.g.fpmode ∧ g.tbase = m.g.tbase ∧ Within m.g.fpflags g.fpflags ∧
      ((∀ h o t d a, i ≠ .xred h o t d a) → g.fpflags = m.g.fpflags) ∧
      ∀ k, g.split? m.k.no = some k → k.base = m.k.base ∧ k.owned = m.k.owned ∧ ((∀ r ∈ ss, 2 < r) → k.mask = m.k.mask)

/-- n is m with the entries of a memory instruction, made for their position, behind what the queues of its group hold, and its class
counted once more (R101, R197); a sequentially consistent access has the mark of an implied FENCE before them (R199). -/
def Entered (m n : Issue) (a : MemAttr) (cls : WaitClass) (entries : Nat → List Entry) : Prop :=
  ∃ marks : List Entry, (a.order ≠ .sc → marks = []) ∧
    (a.order = .sc → ∃ e, marks = [e] ∧ e.isMark = true ∧ e.isFence = false ∧ e.order = .sc ∧ e.scope = a.scope ∧
      e.pos = m.g.nextPos ∧ e.split = m.k.no ∧ e.cls = none) ∧
    let pos := m.g.nextPos + marks.length
    n = { m with g := { m.g with queue := m.g.queue ++ marks ++ entries pos, nextPos := pos + 1
                                 loads := if cls = .loads then m.g.loads + 1 else m.g.loads
                                 stores := if cls = .stores then m.g.stores + 1 else m.g.stores } }

/-- The bytes of a value, lowest first. -/
def valueBytes (n : Nat) (v : DWord) : List Byte := (List.range n).map fun j => v.extractLsb' (8 * j) 8

/-- The union of the flags of the active lanes of a per-lane result. -/
def laneFlags (m : Issue) (f : Nat → Res) : FFlags := (m.active.map fun i => (f i).2).foldl (fun x y => x ||| y) 0

/-- An operation of the tiles class enters behind those in progress, and counts. -/
def opEnters (i : Instr) (s : State) (m : Issue) (k : TileKind) : Prop :=
  Completes i s (({ m.of i with g := { m.g with tiles := m.g.tiles + 1, nextOp := m.g.nextOp + 1
                                                ops := m.g.ops ++ [{ id := m.g.nextOp, pos := m.g.nextPos, kind := k }] } } : Issue).done)

/-- A line of the global space that a load at issue reads in full, one page mapped and no older entry in the way. -/
def readsNow (m : Issue) (va n : Nat) (s1 : State) (bs : List Byte) : Prop :=
  ∃ c l, Chk.loc { s := m.s, memo := [] } (m.s.who m.g) .gv va n true false = (c, .ok l) ∧
    m.g.loadNow c.s l.key n (l.target == 2) = some (s1, bs)

end Sys2Proof.Machine
end

