-- ==== Sys2Proof/Certificates/Slice0/Obligations.lean ====
section
/-!
DEFINITION. The statements about the machine, for the provers. OBLIGATIONS.json says of each which rules of spec/ it
formalises. A statement of an instruction's result says that the instruction answers a next state, for every state in which
it issues past the checks of R75 (Issues), and which state that is; `Issue.done` is going on in sequence (R52, R126), whose
own statement is Obligations.SequenceAndLoopEdge.
-/

open Sys2Proof Sys2Proof.Machine

/-! ## Reset, decoding, stepping -/

/-- Right after reset: no link is trained, no version of the host interface is selected, WSDROP is clear, no context is
resident, nothing runs, the clocks stand at 0 and no cluster is in fixed-timing mode (R295, R297, R310, R312).
(What it rests on that is the model's choice: log 2, 4, 16.) -/
def Obligations.ResetState : Prop :=
  State.reset.linkUp = 0 ∧ State.reset.hifVer = 0 ∧ State.reset.wsDrop = false ∧ State.reset.contexts = [] ∧
  State.reset.jobs = [] ∧ State.reset.gangs = [] ∧ State.reset.runs = [] ∧ State.reset.agenda = [] ∧
  State.reset.fcount = 0 ∧ (∀ c, (State.reset.cluster c).cycle = 0 ∧ (State.reset.cluster c).fixed = false) ∧
  (∀ c, State.reset.cycle c = 0) ∧ ∀ q, State.reset.group? q = none

/-- A few words, written out from the encodings that the spec prints, decode to the instructions they stand for. -/
def Obligations.DecodedWords : Prop :=
  let h0 : Hd := ⟨false, .l0, 0⟩
  let h1 : Hd := ⟨false, .l1, 0⟩
  decodeTableWord 32 0x66987148 = some (.sxor h0 .b32 ⟨14, false⟩ ⟨12, false⟩ (.reg ⟨13, false⟩)) ∧
  decodeTableWord 32 0x46987160 = some (.scmp h0 .lt .i32 ⟨14, false⟩ ⟨12, false⟩ (.reg ⟨13, false⟩)) ∧
  decodeTableWord 96 0x0000000700007000001871A1 = some (.sdivImm h1 .n32 ⟨14, false⟩ ⟨12, false⟩ (.i32 7)) ∧
  decodeTableWord 32 0x721871F0 = some (.sbfeImm h0 .n32 ⟨14, false⟩ ⟨12, false⟩ (.i9 228)) ∧
  decodeTableWord 32 0x65944BC0 = some (.xsel h0 .b32 ⟨9, false⟩ ⟨10, false⟩ ⟨11, false⟩) ∧
  decodeTableWord 96 0x000000000000B0004012A3C9 = some (.xred h1 .max .f32 ⟨20, false⟩ ⟨9, false⟩) ∧
  decodeTableWord 32 0x2F9273E0 = some (.xgetImm h0 14 9 95) ∧
  decodeTableWord 32 0x00030008 = some (.bra h0 96) ∧
  decodeTableWord 32 0xFE1A0018 = some (.brz h0 ⟨13, false⟩ (.i9 0x1FC)) ∧
  decodeTableWord 32 0x00000050 = some (.ret h0) ∧
  decodeTableWord 32 0x000000B0 = some (.sync h0) ∧
  decodeTableWord 32 0x001800A0 = some (.sleep h0 12)

/-- Every well-formed instruction of the opcode map, with every operand at every value that its encoding admits, decodes from
its own words, whatever words follow. -/
def Obligations.DecodeEncode : Prop :=
  ∀ (i : Instr) (rest : List Word), i.wf = true → decodeWords (encode i ++ rest) = some (i, rest)

/-- Words that decode are the words of the instruction they decode to, and that instruction is well formed: no bit of an
instruction is ignored. -/
def Obligations.EncodeDecode : Prop :=
  ∀ (ws rest : List Word) (i : Instr), decodeWords ws = some (i, rest) → i.wf = true ∧ ws = encode i ++ rest

/-- The 84 unassigned values of OP decode to no instruction, in every length and with every other bit at every value; words
that decode to none, where a run begins, raise ILLEGAL with ACCESS 0, on a group and on a front alike, and nothing else
happens. -/
def Obligations.UnassignedOpcodes : Prop :=
  (∀ (w0 : Word) (ws : List Word),
    (w0.extractLsb' 3 8 ∈ ([0x00, 0x3F, 0x5F, 0x8F, 0xA7, 0xAA, 0xAB, 0xC3] : List Byte) ∨
      (0x93 ≤ w0.extractLsb' 3 8 ∧ w0.extractLsb' 3 8 ≤ 0x9F) ∨ (0xAF ≤ w0.extractLsb' 3 8 ∧ w0.extractLsb' 3 8 ≤ 0xBF) ∨
      (0xCE ≤ w0.extractLsb' 3 8 ∧ w0.extractLsb' 3 8 ≤ 0xDF) ∨ 0xE4 ≤ w0.extractLsb' 3 8) →
    decodeWords (w0 :: ws) = none) ∧
  ∀ (s s1 : State) (m0 : Issue) (ws : List Word), s.agenda = [] → s.issuer ⟨false, .l0, 0⟩ = some m0 → m0.k.hold ≠ .prot →
    s.runCount = 0 → m0.capture.words m0.capture.k.pc = (s1, .ok ws) → decodeWords ws = none →
    step s = .next (({ m0.capture with s := s1 } : Issue).raise .illegal 0 0)

/-- A step runs the decoded instruction: with no turn in store, the words at the PC of the head run's agent are an
instruction, they are not the start of a fused sequence (R156), and no later instruction of a run is one that the run former
finds faulty (R53), the step is the instruction's own meaning at that state, with the bodies of loop levels that wait for it
captured before (R127), and with the count of issued instructions (R313) and the end of a fused VMAX's second issue (R157)
around it. A fused sequence runs as one. Words that the first instruction of a run cannot be fetched from raise the cause of the
failed fetch with ACCESS 4, and later in a run they end it before the instruction, the split READY, as do words that decode to no
instruction (R53; where a run begins: Obligations.UnassignedOpcodes); a split released to
raise PROT at its first instruction does (R274). A turn that holds a device event runs the event's own meaning.
(What it rests on that is the model's choice: log 3, 4, 100, 118.) -/
def Obligations.StepRuns : Prop :=
  (∀ (s : State) (m0 : Issue), s.agenda = [] → s.issuer ⟨false, .l0, 0⟩ = some m0 →
    let m := m0.capture
    (m0.k.hold = .prot → step s = .next (m0.raise .prot 0 0)) ∧
    (m0.k.hold ≠ .prot →
      (∀ m1 f, m.fuse = some (m1, f) → step s = settled m 4 (exec (.fusedExpSum f) m1.commit)) ∧
      (m.fuse = none →
        (∀ s1 ws rest i, m.words m.k.pc = (s1, .ok ws) → decodeWords ws = some (i, rest) →
          (s.runCount = 0 ∨ m.g.decodeTrap m.h i = none → step s = settled m 1 (exec i ({ m with s := s1 } : Issue).commit)) ∧
          (s.runCount ≠ 0 → m.g.decodeTrap m.h i ≠ none → step s = .next ({ m with s := s1 } : Issue).endBefore)) ∧
        (∀ s1 b, m.words m.k.pc = (s1, .error b) →
          step s = .next (if s.runCount = 0 then m.fail s1 b 4 else ({ m with s := s1 } : Issue).endBefore)) ∧
        (∀ s1 ws, s.runCount ≠ 0 → m.words m.k.pc = (s1, .ok ws) → decodeWords ws = none →
          step s = .next ({ m with s := s1 } : Issue).endBefore)))) ∧
  (∀ (s : State) (e : Instr) (r : List Turn), s.agenda = .event e :: r → encode e = [] →
    step s = exec e { s with agenda := r })

/-- Every step answers a next state: no state has an instruction or an event that the machine refuses or faults on.
(What it rests on that is the model's choice: log 4.) -/
def Obligations.StepAnswers : Prop := ∀ s : State, ∃ t, step s = .next t

/-- The canonical form of memory is kept by every step.
(What it rests on that is the model's choice: log 1.) -/
def Obligations.MemoryKeepsForm : Prop :=
  ∀ s t : State, Memory.wf s.mem = true → step s = .next t → Memory.wf t.mem = true

/-- The canonical form of memory holds at reset.
(What it rests on that is the model's choice: log 1.) -/
def Obligations.ResetMemoryForm : Prop := Memory.wf State.reset.mem = true

/-- An instruction of the opcode map that the checks of R75 refuse raises that cause with ACCESS 0 and nothing else happens:
ILLEGAL where it is ill-formed or the front does not execute it (R50, R98), and else REGBOUNDS where a register operand lies
outside 0 to 7 + span (R74) or its accumulator tile beyond the group's (R71), and else ILLEGAL where a register lies below 3
that its own entry asks to be at least 3. Past these checks, an instruction whose operands
are not all written yet stalls its run in place (R54). Each holds for the step's own `exec` of every instruction that issues
through the opcode map.
(What it rests on that is the model's choice: log 9.) -/
def Obligations.ChecksAtIssue : Prop :=
  ∀ (i : Instr) (h : Hd) (s : State) (m : Issue), headerOf i = some h → s.issuer h = some m →
    let refused := i.wf = false ∨ (m.g.isFront = true ∧ frontOk i = false)
    (refused → Completes i s (m.raise .illegal 0 0)) ∧
    (¬refused → ¬InBounds m i → Completes i s (m.raise .regbounds 0 0)) ∧
    (¬refused → InBounds m i → BelowLowest i → Completes i s (m.raise .illegal 0 0)) ∧
    (¬refused → InBounds m i → ¬BelowLowest i → ¬OperandsReady m i → Completes i s m.stall) ∧
    (¬refused → InBounds m i → ¬BelowLowest i → OperandsReady m i → Issues i h s m)

/-- Going on in sequence, where no loop level ends at the instruction: the PC is that of the next instruction (R61), the loop
state stands, and the run goes on, or ends with the split READY where the instruction may fault, has BND set or is the
24th. The back edge of an innermost loop level that ends at the instruction: its counter goes down by one, and while that is not
zero the PC is the body's first instruction and the run ends, every level standing; where the level was marked for discard, its
captured words and those that outer levels hold of its body are dropped (R127, R351); at zero the level is popped (R126).
(What it rests on that is the model's choice: log 21.) -/
def Obligations.SequenceAndLoopEdge : Prop :=
  (∀ (m : Issue), (∀ l ∈ m.k.levels, l.last ≠ m.k.pc) →
    let k := { m.k with pc := m.k.pc + BitVec.ofNat 64 (4 * lenWords m.h.len) }
    m.done = if m.mf || m.h.bnd || decide (m.s.runCount + 1 ≥ 24) then
        ({ m with k := { k with state := .ready, wait := .none, stamp := m.s.now m.g } } : Issue).commit.dropRun
      else ({ m with k := k } : Issue).commit.countRun) ∧
  (∀ (m : Issue) (l : Level) (r : List Level), m.k.levels = l :: r → l.ctr.toNat < 3 → l.last = m.k.pc →
    (m.k.lcGet l.ctr.toNat ≠ 1 →
      ∃ (k : Split) (lv : Level) (rs : List Level), m.done = ({ m with k := k } : Issue).finish true ∧ k.pc = l.start ∧
        k.levels = lv :: rs ∧ lv.ctr = l.ctr ∧ lv.start = l.start ∧ lv.last = l.last ∧
        rs.map (fun x => (x.ctr, x.start, x.last)) = r.map (fun x => (x.ctr, x.start, x.last)) ∧
        (l.discard = false → rs = r ∧ lv.buf = l.buf ∧ lv.bufOn = l.bufOn) ∧
        (l.discard = true → lv.bufOn = false ∧ lv.buf = [] ∧ ∀ x ∈ rs, ∀ y ∈ x.buf, y.1 < l.start.toNat ∨ l.last.toNat < y.1) ∧
        k.lcGet l.ctr.toNat = m.k.lcGet l.ctr.toNat - 1) ∧
    (m.k.lcGet l.ctr.toNat = 1 → (∀ x ∈ r, x.last ≠ m.k.pc) →
      m.done = ({ m with k := { m.k.lcSet l.ctr.toNat 0 with pc := m.after, levels := r } } : Issue).finish m.mf))

/-! ## Scalars -/

/-- The scalar instructions with register, IMM32 or literal operands, but division and shifts: each writes D once, its
operands read at issue. The scalar instructions with an immediate, but division and shifts. The bit fields, bit by bit (R373): a
field at position p, n bits wide, extracted with bits at and above the width read as 0, sign-extended for i types, zero-extended
for others, and inserted into C under the mask of its bits within the width.
(What it rests on that is the model's choice: log 34.) -/
def Obligations.ScalarResults : Prop :=
  (∀ (ty : Ty) (x ctl c : DWord) (i : Nat), i < tyBits ty → tyBits ty = 32 ∨ tyBits ty = 64 →
    let f := if tyBits ty = 64 then 6 else 5
    let p := ctl.toNat % 2 ^ f
    let n := ctl.toNat / 2 ^ f % 2 ^ f + 1
    let src := fun j => decide (j < tyBits ty) && x.getLsbD j
    (bitExtract ty x ctl).getLsbD i = (if i < n then src (p + i) else tySigned ty && src (p + n - 1)) ∧
    (bitInsert ty x ctl c).getLsbD i = if p ≤ i ∧ i < p + n then x.getLsbD (i - p) else c.getLsbD i) ∧
  (∀ (h : Hd) (ty : Ty) (d a c : Opnd) (b : SrcB) (cc : CmpOp) (s : State) (m : Issue),
    let A := m.sval ty (m.reg a)
    let B := m.srcS ty b
    (Issues (.smov h ty d a) h s m → WritesScalar (.smov h ty d a) s m ty d A) ∧
    (Issues (.sadd h ty d a b) h s m → WritesScalar (.sadd h ty d a b) s m ty d (A + B)) ∧
    (Issues (.ssub h ty d a b) h s m → WritesScalar (.ssub h ty d a b) s m ty d (A - B)) ∧
    (Issues (.smul h ty d a b) h s m → WritesScalar (.smul h ty d a b) s m ty d (A * B)) ∧
    (Issues (.smin h ty d a b) h s m → WritesScalar (.smin h ty d a b) s m ty d (lesser ty A B)) ∧
    (Issues (.smax h ty d a b) h s m → WritesScalar (.smax h ty d a b) s m ty d (greater ty A B)) ∧
    (Issues (.sand h ty d a b) h s m → WritesScalar (.sand h ty d a b) s m ty d (A &&& B)) ∧
    (Issues (.sor h ty d a b) h s m → WritesScalar (.sor h ty d a b) s m ty d (A ||| B)) ∧
    (Issues (.sxor h ty d a b) h s m → WritesScalar (.sxor h ty d a b) s m ty d (A ^^^ B)) ∧
    (Issues (.scmp h cc ty d a b) h s m →
      WritesScalar (.scmp h cc ty d a b) s m .b32 d (if cmpHolds cc (val ty A) (val ty B) then 1 else 0)) ∧
    (Issues (.ssel h ty d a b c) h s m →
      WritesScalar (.ssel h ty d a b c) s m ty d (if m.sget (m.reg c) = 0 then B else A)) ∧
    (Issues (.sbfe h ty d a b) h s m → WritesScalar (.sbfe h ty d a b) s m ty d (bitExtract ty A (m.srcS1 ty b))) ∧
    (Issues (.sbfi h ty d a b c) h s m →
      WritesScalar (.sbfi h ty d a b c) s m ty d (bitInsert ty A (m.srcS1 ty b) (m.sval ty (m.reg c)))) ∧
    (Issues (.spopc h ty d a) h s m →
      WritesScalar (.spopc h ty d a) s m .b32 d
        (BitVec.ofNat 64 ((List.range (tyBits ty)).countP fun i => A.getLsbD i))) ∧
    (Issues (.sclz h ty d a) h s m →
      WritesScalar (.sclz h ty d a) s m .b32 d
        (BitVec.ofNat 64 ((List.range (tyBits ty)).reverse.takeWhile fun i => !A.getLsbD i).length))) ∧
  (∀ (h : Hd) (ty : Ty) (d a : Opnd) (i : Imm) (s : State) (m : Issue),
    let A := m.sval ty (m.reg a)
    let B := immVal i
    (Issues (.smovImm h ty d i) h s m → WritesScalar (.smovImm h ty d i) s m ty d B) ∧
    (Issues (.saddImm h ty d a i) h s m → WritesScalar (.saddImm h ty d a i) s m ty d (A + B)) ∧
    (Issues (.ssubImm h ty d a i) h s m → WritesScalar (.ssubImm h ty d a i) s m ty d (A - B)) ∧
    (Issues (.smulImm h ty d a i) h s m → WritesScalar (.smulImm h ty d a i) s m ty d (A * B)) ∧
    (Issues (.sminImm h ty d a i) h s m → WritesScalar (.sminImm h ty d a i) s m ty d (lesser ty A B)) ∧
    (Issues (.smaxImm h ty d a i) h s m → WritesScalar (.smaxImm h ty d a i) s m ty d (greater ty A B)) ∧
    (Issues (.sandImm h ty d a i) h s m → WritesScalar (.sandImm h ty d a i) s m ty d (A &&& B)) ∧
    (Issues (.sorImm h ty d a i) h s m → WritesScalar (.sorImm h ty d a i) s m ty d (A ||| B)) ∧
    (Issues (.sxorImm h ty d a i) h s m → WritesScalar (.sxorImm h ty d a i) s m ty d (A ^^^ B)) ∧
    (Issues (.sbfeImm h ty d a i) h s m →
      WritesScalar (.sbfeImm h ty d a i) s m ty d (bitExtract ty A (immField i))))

/-- SDIV and VDIV on integer types, in each of their forms: the quotient truncated toward zero; a divisor of zero gives all
ones whatever the dividend; the most negative value divided by −1 gives itself. No flag is set and nothing traps: the
instruction completes with FPFLAGS as it was. -/
def Obligations.IntegerDivision : Prop :=
  ∀ (h : Hd) (ty : Ty) (r : Rnd) (d a : Opnd) (b : SrcB) (i : Imm) (s : State) (m : Issue),
    let Q := fun (x y : DWord) =>
      if val ty y = 0 then BitVec.allOnes 64
      else if tySigned ty = true ∧ val ty x = -2 ^ (tyBits ty - 1) ∧ val ty y = -1 then x
      else BitVec.ofInt 64 ((val ty x).tdiv (val ty y))
    (Issues (.sdiv h ty d a b) h s m →
      WritesScalar (.sdiv h ty d a b) s m ty d (Q (m.sval ty (m.reg a)) (m.srcS ty b))) ∧
    (Issues (.sdivImm h ty d a i) h s m →
      WritesScalar (.sdivImm h ty d a i) s m ty d (Q (m.sval ty (m.reg a)) (immVal i))) ∧
    (tyFloat ty = false → Issues (.vdiv h ty r d a b) h s m →
      WritesLanes (.vdiv h ty r d a b) s m ty d fun l => Q (m.vval ty (m.reg a) l) (m.srcV ty b l)) ∧
    (tyFloat ty = false → Issues (.vdivSb h ty r d a b) h s m →
      WritesLanes (.vdivSb h ty r d a b) s m ty d fun l => Q (m.vval ty (m.reg a) l) (m.srcS ty b))

/-- Shifts: the count is unsigned, zeros come in from the right, and from the left the sign for i types and zeros for the
others; a count from a register that is the width or more gives 0, or all ones for a right shift of a negative i value; an
count in the immediate of an immediate form that is no bit number of the type makes the instruction ill-formed, and such an
instruction raises ILLEGAL; an IMM32 or literal in the place of the register operand of the other forms counts as a register
would, whatever it is.
(What it rests on that is the model's choice: log 35.) -/
def Obligations.Shifts : Prop :=
  ∀ (h : Hd) (ty : Ty) (d a : Opnd) (b : SrcB) (i : Imm) (s : State) (m : Issue),
    let A := m.sval ty (m.reg a)
    let V := m.vval ty (m.reg a)
    (Issues (.sshl h ty d a b) h s m → WritesScalar (.sshl h ty d a b) s m ty d (A <<< (m.srcS1 ty b).toNat)) ∧
    (Issues (.sshr h ty d a b) h s m →
      WritesScalar (.sshr h ty d a b) s m ty d (shiftedRight ty A (m.srcS1 ty b).toNat)) ∧
    (Issues (.sshlImm h ty d a i) h s m → WritesScalar (.sshlImm h ty d a i) s m ty d (A <<< (immInt i).toNat)) ∧
    (Issues (.sshrImm h ty d a i) h s m → WritesScalar (.sshrImm h ty d a i) s m ty d (shiftedRight ty A (immInt i).toNat)) ∧
    (Issues (.vshl h ty d a b) h s m →
      WritesLanes (.vshl h ty d a b) s m ty d fun l => V l <<< ((m.srcV1 ty b l).toNat % 2 ^ 32)) ∧
    (Issues (.vshr h ty d a b) h s m →
      WritesLanes (.vshr h ty d a b) s m ty d fun l => shiftedRight ty (V l) ((m.srcV1 ty b l).toNat % 2 ^ 32)) ∧
    (Issues (.vshlSb h ty d a b) h s m →
      WritesLanes (.vshlSb h ty d a b) s m ty d fun l => V l <<< ((m.srcS1 ty b).toNat % 2 ^ 32)) ∧
    (Issues (.vshrSb h ty d a b) h s m →
      WritesLanes (.vshrSb h ty d a b) s m ty d fun l => shiftedRight ty (V l) ((m.srcS1 ty b).toNat % 2 ^ 32)) ∧
    (Issues (.vshlImm h ty d a i) h s m →
      WritesLanes (.vshlImm h ty d a i) s m ty d fun l => V l <<< (immInt i).toNat) ∧
    (Issues (.vshrImm h ty d a i) h s m →
      WritesLanes (.vshrImm h ty d a i) s m ty d fun l => shiftedRight ty (V l) (immInt i).toNat) ∧
    ((immInt i < 0 ∨ (tyBits ty : Int) ≤ immInt i) →
      (∀ j ∈ [Instr.sshlImm h ty d a i, .sshrImm h ty d a i, .vshlImm h ty d a i, .vshrImm h ty d a i],
        j.wf = false ∧ (s.issuer h = some m → Completes j s (m.raise .illegal 0 0))))

/-- What a scalar destination leaves: the instruction completes, everything outside its group's registers is as before, every
byte of memory among it; every vector half stands, every scalar half in another place than its destination stands, no flag
changes, and the mask stands but where a destination is s0, s1 or s2, which never reaches a lane that the split does not
own. XGET with a lane from a register, XRED, PGEN, GPOP, GQRY and MRD whose destinations are scalars, or that have none at their
issue, leave everything but these, whether they complete, wait or trap. -/
def Obligations.ScalarFrame : Prop :=
  (∀ (i : Instr) (h : Hd) (ss : List Nat) (s : State) (m : Issue), otherDests m i = some (h, [], ss) → Issues i h s m →
    LeavesRest i s m [] ss) ∧
  ∀ (i : Instr) (h : Hd) (ty : Ty) (d : Opnd) (s : State) (m : Issue), scalarDest i = some (h, ty, d) → Issues i h s m →
    ∃ t g, Completes i s t ∧ RegistersOnly m t g ∧ g.fpflags = m.g.fpflags ∧ (∀ n, g.vec n = m.g.vec n) ∧
      (∀ n, (∀ r ∈ destRegs ty (m.reg d), ¬SamePlace m.g n (absSlot m.k.base r)) → g.scal n = m.g.scal n) ∧
      ∀ k, g.split? m.k.no = some k →
        ((∀ r ∈ destRegs ty (m.reg d), 2 < r) → k.mask = m.k.mask) ∧ (Within m.k.mask m.k.owned → Within k.mask m.k.owned)

/-- Scalar registers as the spec gives them: a word written to s0, s1 or s2 of a group's split is a word of its mask, ANDed
with the lanes it owns, and touches no scalar half; any other register number within R74 names the scalar half of its
absolute slot, reads back what was written while the ring holds a window, and leaves the mask alone. Vector registers: the lanes of a list are written and read back, within R74 and while the ring holds a window; every
other lane, every scalar register and the split are as before. -/
def Obligations.RegisterHalves : Prop :=
  (∀ (m : Issue) (n : Nat) (w : Word),
    (m.g.isFront = false → n ≤ 2 →
      ((m.sput n w).k.mask.extractLsb' (32 * n) 32 = w &&& m.k.owned.extractLsb' (32 * n) 32) ∧
      (m.sput n w).sget n = w &&& m.k.owned.extractLsb' (32 * n) 32 ∧ (m.sput n w).g = m.g) ∧
    (m.g.isFront = true ∨ 2 < n → n ≤ 7 + m.g.span → m.g.span ≤ m.g.ring.length →
      (m.sput n w).sget n = w ∧ (m.sput n w).k = m.k ∧ ∀ j, (m.sput n w).vget j = m.vget j)) ∧
  (∀ (m : Issue) (n : Nat) (ls : List Nat) (f : Nat → Word), n ≤ 7 + m.g.span → m.g.span ≤ m.g.ring.length →
    (∀ l, l < 96 → lane ((m.vput n ls f).vget n) l = if l ∈ ls then f l else lane (m.vget n) l) ∧
    (m.vput n ls f).k = m.k ∧ ∀ j, (m.vput n ls f).sget j = m.sget j)

/-! ## Vectors and cross-lane -/

/-- The vector instructions on integer and bit types, but division and shifts, with a vector, scalar, immediate or literal
operand B: each active lane of D receives its result, every source read at issue. -/
def Obligations.VectorIntegerResults : Prop :=
  ∀ (h : Hd) (ty : Ty) (r : Rnd) (d a c : Opnd) (b : SrcB) (i : Imm) (s : State) (m : Issue), tyFloat ty = false →
    let A := m.vval ty (m.reg a)
    let B := m.srcV ty b
    let S := m.srcS ty b
    let I := immVal i
    let C := m.vval ty (m.reg c)
    (Issues (.vadd h ty r d a b) h s m → WritesLanes (.vadd h ty r d a b) s m ty d fun l => A l + B l) ∧
    (Issues (.vsub h ty r d a b) h s m → WritesLanes (.vsub h ty r d a b) s m ty d fun l => A l - B l) ∧
    (Issues (.vmul h ty r d a b) h s m → WritesLanes (.vmul h ty r d a b) s m ty d fun l => A l * B l) ∧
    (Issues (.vmad h ty r d a b c) h s m → WritesLanes (.vmad h ty r d a b c) s m ty d fun l => A l * B l + C l) ∧
    (Issues (.vmin h ty d a b) h s m → WritesLanes (.vmin h ty d a b) s m ty d fun l => lesser ty (A l) (B l)) ∧
    (Issues (.vmax h ty d a b) h s m → WritesLanes (.vmax h ty d a b) s m ty d fun l => greater ty (A l) (B l)) ∧
    (Issues (.vand h ty d a b) h s m → WritesLanes (.vand h ty d a b) s m ty d fun l => A l &&& B l) ∧
    (Issues (.vor h ty d a b) h s m → WritesLanes (.vor h ty d a b) s m ty d fun l => A l ||| B l) ∧
    (Issues (.vxor h ty d a b) h s m → WritesLanes (.vxor h ty d a b) s m ty d fun l => A l ^^^ B l) ∧
    (Issues (.vaddSb h ty r d a b) h s m → WritesLanes (.vaddSb h ty r d a b) s m ty d fun l => A l + S) ∧
    (Issues (.vsubSb h ty r d a b) h s m → WritesLanes (.vsubSb h ty r d a b) s m ty d fun l => A l - S) ∧
    (Issues (.vmulSb h ty r d a b) h s m → WritesLanes (.vmulSb h ty r d a b) s m ty d fun l => A l * S) ∧
    (Issues (.vmadSb h ty r d a b c) h s m → WritesLanes (.vmadSb h ty r d a b c) s m ty d fun l => A l * S + C l) ∧
    (Issues (.vminSb h ty d a b) h s m → WritesLanes (.vminSb h ty d a b) s m ty d fun l => lesser ty (A l) S) ∧
    (Issues (.vmaxSb h ty d a b) h s m → WritesLanes (.vmaxSb h ty d a b) s m ty d fun l => greater ty (A l) S) ∧
    (Issues (.vandSb h ty d a b) h s m → WritesLanes (.vandSb h ty d a b) s m ty d fun l => A l &&& S) ∧
    (Issues (.vorSb h ty d a b) h s m → WritesLanes (.vorSb h ty d a b) s m ty d fun l => A l ||| S) ∧
    (Issues (.vxorSb h ty d a b) h s m → WritesLanes (.vxorSb h ty d a b) s m ty d fun l => A l ^^^ S) ∧
    (Issues (.vaddImm h ty d a i) h s m → WritesLanes (.vaddImm h ty d a i) s m ty d fun l => A l + I) ∧
    (Issues (.vminImm h ty d a i) h s m → WritesLanes (.vminImm h ty d a i) s m ty d fun l => lesser ty (A l) I) ∧
    (Issues (.vmaxImm h ty d a i) h s m → WritesLanes (.vmaxImm h ty d a i) s m ty d fun l => greater ty (A l) I) ∧
    (Issues (.vandImm h ty d a i) h s m → WritesLanes (.vandImm h ty d a i) s m ty d fun l => A l &&& I) ∧
    (Issues (.vorImm h ty d a i) h s m → WritesLanes (.vorImm h ty d a i) s m ty d fun l => A l ||| I) ∧
    (Issues (.vxorImm h ty d a i) h s m → WritesLanes (.vxorImm h ty d a i) s m ty d fun l => A l ^^^ I)

/-- Moves, selections, bit fields (bit by bit in Obligations.ScalarResults), signs, counts and random words in lanes: the upper
half of the doubly mixed counter, keyed by the seed and the lane's number in the job (R155). A value narrower than 32 bits is written
with zeros above it (R136).
(What it rests on that is the model's choice: log 34.) -/
def Obligations.VectorMoveResults : Prop :=
  ∀ (h : Hd) (ty : Ty) (d a c : Opnd) (b : SrcB) (i : Imm) (s : State) (m : Issue),
    let A := m.vval ty (m.reg a)
    let low := fun (x : DWord) => BitVec.ofNat 64 (x.toNat % 2 ^ tyBits ty)
    let C := fun l => lane (m.vget (m.reg c)) l
    (Issues (.vmov h ty d a) h s m → WritesLanes (.vmov h ty d a) s m ty d fun l => low (A l)) ∧
    (Issues (.vmovSb h ty d a) h s m → WritesLanes (.vmovSb h ty d a) s m ty d fun _ => low (m.sval ty (m.reg a))) ∧
    (Issues (.vmovImm h ty d i) h s m → WritesLanes (.vmovImm h ty d i) s m ty d fun _ => low (immVal i)) ∧
    (Issues (.vsel h ty d a b c) h s m →
      WritesLanes (.vsel h ty d a b c) s m ty d fun l => low (if C l = 0 then m.srcV ty b l else A l)) ∧
    (Issues (.vselSb h ty d a b c) h s m →
      WritesLanes (.vselSb h ty d a b c) s m ty d fun l => low (if C l = 0 then m.srcS ty b else A l)) ∧
    (Issues (.vbfe h ty d a b) h s m →
      WritesLanes (.vbfe h ty d a b) s m ty d fun l => bitExtract ty (A l) (m.srcV1 ty b l)) ∧
    (Issues (.vbfeSb h ty d a b) h s m →
      WritesLanes (.vbfeSb h ty d a b) s m ty d fun l => bitExtract ty (A l) (m.srcS1 ty b)) ∧
    (Issues (.vbfi h ty d a b c) h s m →
      WritesLanes (.vbfi h ty d a b c) s m ty d fun l => bitInsert ty (A l) (m.srcV1 ty b l) (m.vval ty (m.reg c) l)) ∧
    (Issues (.vbfiSb h ty d a b c) h s m →
      WritesLanes (.vbfiSb h ty d a b c) s m ty d fun l => bitInsert ty (A l) (m.srcS1 ty b) (m.vval ty (m.reg c) l)) ∧
    (Issues (.vabs h ty d a) h s m →
      WritesLanes (.vabs h ty d a) s m ty d fun l => low
        (if tyFloat ty then A l &&& ~~~BitVec.twoPow 64 (tyBits ty - 1) else if val ty (A l) < 0 then -A l else A l)) ∧
    (Issues (.vneg h ty d a) h s m →
      WritesLanes (.vneg h ty d a) s m ty d fun l => low
        (if tyFloat ty then A l ^^^ BitVec.twoPow 64 (tyBits ty - 1) else -A l)) ∧
    (Issues (.vpopc h ty d a) h s m →
      WritesLanes (.vpopc h ty d a) s m .b32 d fun l =>
        BitVec.ofNat 64 ((List.range (tyBits ty)).countP fun i => (A l).getLsbD i)) ∧
    (Issues (.vclz h ty d a) h s m →
      WritesLanes (.vclz h ty d a) s m .b32 d fun l =>
        BitVec.ofNat 64 ((List.range (tyBits ty)).reverse.takeWhile fun i => !(A l).getLsbD i).length) ∧
    (Issues (.vrnd h d a) h s m →
      let scramble := fun (k : DWord) (n : Nat) (z : DWord) => (z ^^^ (z >>> n)) * k
      let mix := fun (z : DWord) => scramble 1 31 (scramble 0x94D049BB133111EB 27 (scramble 0xBF58476D1CE4E5B9 30 (z + 0x9E3779B97F4A7C15)))
      WritesLanes (.vrnd h d a) s m .b32 d fun l =>
        let key := (s.ctx m.g.ctx).seed + (m.g.laneBase.setWidth 64 + BitVec.ofNat 64 l) * 0xD1B54A32D192ED03
        let counter := lane (m.vget (m.reg a + 1)) l ++ lane (m.vget (m.reg a)) l
        ((mix (mix counter + key)).extractLsb' 32 32).setWidth 64)

/-- VCLASS: each active lane of its destination, one register whatever the type, f64 included, receives the one-hot class code
of its operand: signalling NaN, quiet NaN, −∞, negative normal, negative subnormal, −0, +0, positive subnormal, positive
normal, +∞, from bit 0 up; every other bit is zero, flushing never applies and no flag is set. The operand's class is read
off its sign, exponent and fraction (R137); e4m3 has no infinity and one NaN, which is quiet. -/
def Obligations.ClassCodes : Prop :=
  ∀ (h : Hd) (ty : Ty) (d a : Opnd) (s : State) (m : Issue), Issues (.vclass h ty d a) h s m →
    ∃ f : Nat → DWord, WritesLanes (.vclass h ty d a) s m .b32 d f ∧
      ∀ (eb fb : Nat), (ty, eb, fb) ∈ ([(.f64, 11, 52), (.f32, 8, 23), (.f16, 5, 10), (.bf16, 8, 7), (.e5m2, 5, 2), (.e4m3, 4, 3)] :
          List (Ty × Nat × Nat)) →
        ∀ l, let x := (m.vval ty (m.reg a) l).toNat % 2 ^ (1 + eb + fb)
          let neg := decide (2 ^ (eb + fb) ≤ x)
          let e := x / 2 ^ fb % 2 ^ eb
          let fr := x % 2 ^ fb
          f l = if e = 0 then (if fr = 0 then (if neg then 32 else 64) else if neg then 16 else 128)
                else if ty = .e4m3 then (if e = 15 ∧ fr = 7 then 2 else if neg then 8 else 256)
                else if e ≠ 2 ^ eb - 1 then (if neg then 8 else 256)
                else if fr = 0 then (if neg then 4 else 512)
                else if fr / 2 ^ (fb - 1) = 0 then 1 else 2

/-- The floating-point vector instructions, on every type they accept: while no flag that an active lane raises has its trap
enabled, FPFLAGS takes the flags in, and each active lane of D receives its result, rounded once; where such a flag has its
trap enabled, FPFLAGS takes the flags in, FPEXC is raised with ACCESS 0, and D is not written (R149, R150). The results of
addition, subtraction, multiplication, fused multiply-add, division and square root: the first NaN operand made quiet, with IV
where one signals (R138); the default NaN with IV for an invalid operation; the exact value rounded once to nearest even, toward
zero, up or down, overflow as R144 says, UF for what is tiny and inexact, zero for what is tiny under FZOUT (R143-R147); an exact
zero with the sign of R143; a finite value by zero gives infinity with DZ (R146). An infinity is kept by a finite operand, and
is greater or less than every finite value (R138, R143). Minimum, maximum and comparison with NaNs as R138 says. The functions of R392 with their special cases: the reciprocal and the reciprocal square root rounded once, the exponential
of a whole number and the logarithm of a power of two as those numbers are rounded, sine and cosine exact at whole and half
half-turns; elsewhere the sign of the four. Conversions (R152-R154): the exact value
rounded once, `.rsto` with the random word of B's lane; with `.sat` what overflows is the largest of the target; a NaN keeps its
sign and the top of its fraction; to an integer clamped, where `.rsto` is ill-formed; between integers the low bits, or with `.sat` clamped.
(What it rests on that is the model's choice: log 8, 105, 119, 120.) -/
def Obligations.FloatResults : Prop :=
  ∀ (h : Hd) (ty src : Ty) (r : Rnd) (sat : Bool) (cc : CmpOp) (d a c : Opnd) (b : SrcB) (b0 : Opnd) (s : State) (m : Issue),
    let A := m.vval ty (m.reg a)
    let B := m.srcV ty b
    let S := m.srcS ty b
    let C := m.vval ty (m.reg c)
    let fm := m.g.fpmode
    let Does := fun (i : Instr) (t : Ty) (f : Nat → Res) => Issues i h s m →
      let n : Issue := { m.of i with g := m.g.orFlags (laneFlags m f) }
      (m.g.fpTraps (laneFlags m f) = false → Completes i s (n.vector t d fun l => (f l).1)) ∧
      (m.g.fpTraps (laneFlags m f) = true → Completes i s (n.raise .fpexc 0 0))
    Does (.vadd h ty r d a b) ty (fun l => arith2 .add ty fm r (A l) (B l)) ∧
    Does (.vsub h ty r d a b) ty (fun l => arith2 .sub ty fm r (A l) (B l)) ∧
    Does (.vmul h ty r d a b) ty (fun l => arith2 .mul ty fm r (A l) (B l)) ∧
    Does (.vdiv h ty r d a b) ty (fun l => arith2 .div ty fm r (A l) (B l)) ∧
    Does (.vmad h ty r d a b c) ty (fun l => arith3 ty fm r (A l) (B l) (C l)) ∧
    Does (.vmin h ty d a b) ty (fun l => arith2 .min ty fm .ne (A l) (B l)) ∧
    Does (.vmax h ty d a b) ty (fun l => arith2 .max ty fm .ne (A l) (B l)) ∧
    Does (.vaddSb h ty r d a b) ty (fun l => arith2 .add ty fm r (A l) S) ∧
    Does (.vsubSb h ty r d a b) ty (fun l => arith2 .sub ty fm r (A l) S) ∧
    Does (.vmulSb h ty r d a b) ty (fun l => arith2 .mul ty fm r (A l) S) ∧
    Does (.vdivSb h ty r d a b) ty (fun l => arith2 .div ty fm r (A l) S) ∧
    Does (.vmadSb h ty r d a b c) ty (fun l => arith3 ty fm r (A l) S (C l)) ∧
    Does (.vminSb h ty d a b) ty (fun l => arith2 .min ty fm .ne (A l) S) ∧
    Does (.vmaxSb h ty d a b) ty (fun l => arith2 .max ty fm .ne (A l) S) ∧
    Does (.vcmp h cc ty d a b) .b32 (fun l => vecCmp cc ty fm (A l) (B l)) ∧
    Does (.vcmpSb h cc ty d a b) .b32 (fun l => vecCmp cc ty fm (A l) S) ∧
    Does (.vrcp h ty r d a) ty (fun l => funOp .rcp ty fm r (A l)) ∧
    Does (.vrsq h ty r d a) ty (fun l => funOp .rsq ty fm r (A l)) ∧
    Does (.vsqrt h ty r d a) ty (fun l => funOp .sqrt ty fm r (A l)) ∧
    Does (.vexp2 h ty r d a) ty (fun l => funOp .exp2 ty fm r (A l)) ∧
    Does (.vlog2 h ty r d a) ty (fun l => funOp .log2 ty fm r (A l)) ∧
    Does (.vsin h ty r d a) ty (fun l => funOp .sin ty fm r (A l)) ∧
    Does (.vcos h ty r d a) ty (fun l => funOp .cos ty fm r (A l)) ∧
    Does (.vcvt h ty src r sat d a b0) ty (fun l =>
      res (convert ty src ⟨r, false, sat, (lane (m.vget (m.reg b0)) l).toNat⟩ (m.vval src (m.reg a) l).toNat)) ∧
    (∀ f : Shape, shapeOf ty = some f → ty ∈ ([.f64, .f32, .f16, .bf16] : List Ty) → r ≠ .sto → ∀ va vb vc : DWord,
      let x := f.input fm va.toNat
      let y := f.input fm vb.toNat
      let z := f.input fm vc.toNat
      let bits := fun (n : Nat) (fl : FFlags) => ((BitVec.ofNat 64 n, fl) : Res)
      let iv := fun (p : Bool) => if p then fIV else 0
      let two := fun (o : IntOp) => arith2 o ty fm r va vb
      let exact := fun (o : IntOp) (q : Rat) (zero : Bool) => f.isFinite x → f.isFinite y →
        (q ≠ 0 → RoundsTo f r (fm.getLsbD 7) q (two o)) ∧ (q = 0 → two o = bits (f.sgn zero) 0)
      (∀ o ∈ ([.add, .sub, .mul, .div] : List IntOp),
        (f.isNan x → two o = bits (f.quieted x) (iv (f.isSignalling x || f.isSignalling y))) ∧
        (¬f.isNan x → f.isNan y → two o = bits (f.quieted y) (iv (f.isSignalling y)))) ∧
      let signs := f.neg x != f.neg y
      let three := arith3 ty fm r va vb vc
      (f.isInf x → f.isInf y → (two .add = if signs then bits f.defaultNan fIV else bits x 0) ∧
        (two .sub = if signs then bits x 0 else bits f.defaultNan fIV) ∧ two .mul = bits (f.sgn signs + f.infinity) 0 ∧
        two .div = bits f.defaultNan fIV) ∧
      (f.isInf x → f.isFinite y → two .add = bits x 0 ∧ two .sub = bits x 0 ∧
        (f.value y ≠ 0 → two .mul = bits (f.sgn signs + f.infinity) 0) ∧ two .div = bits (f.sgn signs + f.infinity) 0) ∧
      (f.isFinite x → f.isInf y → two .add = bits y 0 ∧ two .sub = bits (f.sgn (!f.neg y) + f.infinity) 0 ∧
        (f.value x ≠ 0 → two .mul = bits (f.sgn signs + f.infinity) 0) ∧ two .div = bits (f.sgn signs) 0) ∧
      (f.isNan x ∨ f.isNan y ∨ f.isNan z → three = bits (f.quieted (if f.isNan x then x else if f.isNan y then y else z))
        (iv (f.isSignalling x || f.isSignalling y || f.isSignalling z))) ∧
      (¬f.isNan x → ¬f.isNan y → ¬f.isNan z →
        let noProduct := (f.isInf x ∧ f.isFinite y ∧ f.value y = 0) ∨ (f.isInf y ∧ f.isFinite x ∧ f.value x = 0)
        (noProduct → three = bits f.defaultNan fIV) ∧
        (¬noProduct → f.isInf x ∨ f.isInf y → three =
          if f.isInf z ∧ f.neg z ≠ signs then bits f.defaultNan fIV else bits (f.sgn signs + f.infinity) 0) ∧
        (f.isFinite x → f.isFinite y → f.isInf z → three = bits z 0) ∧
        (f.isFinite x → f.isFinite y → f.isFinite z → f.value x * f.value y + f.value z = 0 →
          three = bits (f.sgn (if f.value z = 0 ∧ f.neg z = signs then f.neg z else decide (r = .dn))) 0)) ∧
      ((f.isInf x ∧ f.isFinite y ∧ f.value y = 0) ∨ (f.isInf y ∧ f.isFinite x ∧ f.value x = 0) → two .mul = bits f.defaultNan fIV) ∧
      exact .add (f.value x + f.value y) (if f.value x = 0 ∧ f.neg x = f.neg y then f.neg x else decide (r = .dn)) ∧
      exact .sub (f.value x - f.value y) (if f.value x = 0 ∧ f.neg x ≠ f.neg y then f.neg x else decide (r = .dn)) ∧
      exact .mul (f.value x * f.value y) (f.neg x != f.neg y) ∧
      (f.isFinite y → f.value y ≠ 0 → exact .div (f.value x / f.value y) (f.neg x != f.neg y)) ∧
      (f.isFinite x → f.isFinite y → f.value y = 0 → two .div =
        if f.value x = 0 then bits f.defaultNan fIV else bits (f.sgn (f.neg x != f.neg y) + f.infinity) fDZ) ∧
      (f.isFinite x → f.isFinite y → f.isFinite z → f.value x * f.value y + f.value z ≠ 0 →
        RoundsTo f r (fm.getLsbD 7) (f.value x * f.value y + f.value z) three) ∧
      let fn := fun (o : FunOp) => funOp o ty fm r va
      let nan := bits f.defaultNan fIV
      let halfTurns := (magOf (f.value x)).floor
      (f.isNan x → ∀ o, fn o = bits (f.quieted x) (iv (f.isSignalling x))) ∧
      (f.isFinite x → f.value x = 0 → let inf := bits (f.sgn (f.neg x) + f.infinity) fDZ
        fn .rcp = inf ∧ fn .rsq = inf ∧ fn .sqrt = bits (f.sgn (f.neg x)) 0 ∧ fn .exp2 = bits f.one 0 ∧
          fn .log2 = bits (f.sgn true + f.infinity) fDZ ∧ fn .sin = bits (f.sgn (f.neg x)) 0 ∧ fn .cos = bits f.one 0) ∧
      (f.isInf x → fn .rcp = bits (f.sgn (f.neg x)) 0 ∧ fn .sin = nan ∧ fn .cos = nan ∧
        (f.neg x = false → fn .rsq = bits 0 0 ∧ ∀ o ∈ ([.sqrt, .exp2, .log2] : List FunOp), fn o = bits f.infinity 0) ∧
        (f.neg x = true → fn .exp2 = bits 0 0 ∧ ∀ o ∈ ([.rsq, .sqrt, .log2] : List FunOp), fn o = nan)) ∧
      (f.isFinite x → f.neg x = true → f.value x ≠ 0 → ∀ o ∈ ([.sqrt, .rsq, .log2] : List FunOp), fn o = nan) ∧
      (f.isFinite x → f.value x ≠ 0 → RoundsTo f r (fm.getLsbD 7) (1 / f.value x) (fn .rcp)) ∧
      (f.isFinite x → f.value x ≠ 0 →
        (∀ n : Int, f.value x = n → RoundsTo f r (fm.getLsbD 7) (pow2 n) (fn .exp2) ∧
          fn .sin = bits (f.sgn (f.neg x)) 0 ∧ fn .cos = bits (f.sgn (decide (n % 2 = 1)) + f.one) 0) ∧
        (∀ n : Int, f.value x = pow2 n → (n = 0 → fn .log2 = bits 0 0) ∧
          (n ≠ 0 → RoundsTo f r (fm.getLsbD 7) n (fn .log2))) ∧
        (∀ n : Int, f.value x = n + 1 / 2 → fn .sin = bits (f.sgn (decide (n % 2 = 1)) + f.one) 0 ∧ fn .cos = bits 0 0) ∧
        f.neg (fn .exp2).1.toNat = false ∧
        (0 < f.value x → f.neg (fn .log2).1.toNat = decide (f.value x < 1)) ∧
        ((∀ n : Int, f.value x ≠ n ∧ f.value x ≠ n + 1 / 2) →
          f.neg (fn .sin).1.toNat = (f.neg x != decide (halfTurns % 2 = 1)) ∧
          f.neg (fn .cos).1.toNat = decide ((magOf (f.value x) + 1 / 2).floor % 2 = 1))) ∧
      (f.isFinite x → 0 < f.value x → ∃ (k : Int) (n : Nat),
        let u := pow2 (k - f.fb)
        let root := fn .rsq
        let exact := (n * u) * (n * u) * f.value x = 1
        let up := (r = .up ∧ ¬exact) ∨ (r = .ne ∧ (2 * n + 1) * u * ((2 * n + 1) * u) * f.value x < 4)
        2 ^ f.fb ≤ n ∧ n < 2 ^ (f.fb + 1) ∧ (n * u) * (n * u) * f.value x ≤ 1 ∧ 1 < ((n + 1) * u) * ((n + 1) * u) * f.value x ∧
          f.isFinite root.1.toNat ∧ f.value root.1.toNat = (if up then n + 1 else n) * u ∧ root.2 = if exact then 0 else fNX) ∧
      (f.isFinite x → 0 < f.value x → ∃ (k : Int) (n : Nat),
        let u := pow2 (k - f.fb)
        let root := fn .sqrt
        let up := (r = .up ∧ (n * u) * (n * u) ≠ f.value x) ∨
          (r = .ne ∧ (2 * n + 1) * u * ((2 * n + 1) * u) < 4 * f.value x)
        2 ^ f.fb ≤ n ∧ n < 2 ^ (f.fb + 1) ∧ (n * u) * (n * u) ≤ f.value x ∧ f.value x < ((n + 1) * u) * ((n + 1) * u) ∧
          f.isFinite root.1.toNat ∧ f.value root.1.toNat = (if up then n + 1 else n) * u ∧
          root.2 = if (n * u) * (n * u) = f.value x then 0 else fNX) ∧
      let below := fun (p q : Nat) => f.isNan p = false ∧ f.isNan q = false ∧
        if f.isInf p then f.neg p = true ∧ ¬(f.isInf q ∧ f.neg q = true) else
        if f.isInf q then f.neg q = false else f.value p < f.value q
      (∀ o ∈ ([.min, .max] : List IntOp), let v := arith2 o ty fm .ne va vb
        (f.isNan x → f.isNan y → v = bits (f.quieted x) (iv (f.isSignalling x || f.isSignalling y))) ∧
        (f.isNan x → ¬f.isNan y → v = bits y (iv (f.isSignalling x))) ∧
        (¬f.isNan x → f.isNan y → v = bits x (iv (f.isSignalling y))) ∧
        (below x y → v = bits (if o = .min then x else y) 0) ∧ (below y x → v = bits (if o = .min then y else x) 0) ∧
        (x = y → ¬f.isNan x → v = bits x 0) ∧
        (f.isFinite x → f.isFinite y → f.value x = 0 → f.value y = 0 → v =
          bits (f.sgn (if o = .min then f.neg x || f.neg y else f.neg x && f.neg y)) 0)) ∧
      (f.isNan x ∨ f.isNan y → vecCmp cc ty fm va vb =
        (if cc = .ne ∨ cc = .uno then 1 else 0,
         if cc ∈ ([.lt, .le, .gt, .ge] : List CmpOp) then fIV else iv (f.isSignalling x || f.isSignalling y))) ∧
      (¬f.isNan x → ¬f.isNan y → ∀ less more, (less = true ↔ below x y) → (more = true ↔ below y x) → vecCmp cc ty fm va vb =
        (if (match cc with
          | .eq => !less && !more | .ne => less || more | .lt => less | .le => !more | .gt => more | .ge => !less
          | .uno => false | .ord => true) then 1 else 0, 0))) ∧
    (∀ (rnd : Nat) (v : DWord), let cv := fun (sat : Bool) => res (convert ty src ⟨r, false, sat, rnd⟩ v.toNat)
      (ty = src → shapeOf ty ≠ none → cv sat = (BitVec.ofNat 64 (v.toNat % 2 ^ tyBits ty), 0)) ∧
      (∀ e f : Shape, shapeOf src = some e → shapeOf ty = some f → ty ≠ src →
        (e.isFinite v.toNat → e.value v.toNat ≠ 0 → RoundsTo f r false (e.value v.toNat) (cv false) rnd ∧
          cv true = if (cv false).2 &&& fOF = 0 then cv false
            else (BitVec.ofNat 64 (f.sgn (e.neg v.toNat) + f.largestBits), fOF ||| fNX)) ∧
        (e.isFinite v.toNat → e.value v.toNat = 0 → cv sat = (BitVec.ofNat 64 (f.sgn (e.neg v.toNat)), 0)) ∧
        (e.isInf v.toNat → cv false = (BitVec.ofNat 64 (f.sgn (e.neg v.toNat) + f.infinity), if f.inf then 0 else fOF ||| fNX) ∧
          cv true = (BitVec.ofNat 64 (f.sgn (e.neg v.toNat) + f.largestBits), fOF ||| fNX)) ∧
        (e.isNan v.toNat →
          let kept := if e.fb ≤ f.fb then e.frac v.toNat * 2 ^ (f.fb - e.fb) else e.frac v.toNat / 2 ^ (e.fb - f.fb)
          let payload := if f.inf = false then f.infinity else f.infinity + if kept = 0 then 1 else kept
          cv sat = (BitVec.ofNat 64 (f.sgn (e.neg v.toNat) + payload), 0))) ∧
      (∀ e : Shape, shapeOf src = some e → tyFloat ty = false →
        let lo : Int := if tySigned ty then -2 ^ (tyBits ty - 1) else 0
        let hi : Int := if tySigned ty then 2 ^ (tyBits ty - 1) - 1 else 2 ^ tyBits ty - 1
        (e.isInf v.toNat → val ty (cv sat).1 = (if e.neg v.toNat then lo else hi) ∧ (cv sat).2 = if sat then fNX else fIV) ∧
        (e.isNan v.toNat → cv sat = (0, if sat then 0 else fIV)) ∧
        (e.isFinite v.toNat → r ≠ .sto →
          let neg := e.neg v.toNat
          let n := roundUnits r rnd neg (magOf (e.value v.toNat))
          let x := if neg then -n else n
          val ty (cv sat).1 = max lo (min x hi) ∧
          (cv sat).2 = if lo ≤ x ∧ x ≤ hi then (if (x : Rat) = e.value v.toNat then 0 else fNX) else if sat then fNX else fIV)) ∧
      (∀ f : Shape, tyFloat src = false → shapeOf ty = some f →
        (val src v ≠ 0 → RoundsTo f r false (val src v) (cv false) rnd ∧
          cv true = if (cv false).2 &&& fOF = 0 then cv false
            else (BitVec.ofNat 64 (f.sgn (decide (val src v < 0)) + f.largestBits), fOF ||| fNX)) ∧
        (val src v = 0 → cv sat = (0, 0))) ∧
      (tyFloat ty = false → r = .sto → let j := Instr.vcvt h ty src r sat d a b0
        j.wf = false ∧ (s.issuer h = some m → Completes j s (m.raise .illegal 0 0))) ∧
      (tyFloat src = false → tyFloat ty = false →
        let lo : Int := if tySigned ty then -2 ^ (tyBits ty - 1) else 0
        let hi : Int := if tySigned ty then 2 ^ (tyBits ty - 1) - 1 else 2 ^ tyBits ty - 1
        (cv sat).2 = 0 ∧ ((cv false).1.toNat : Int) = val src v % 2 ^ tyBits ty ∧ val ty (cv true).1 = max lo (min (val src v) hi)))

/-- The cross-lane instructions. XSEL gives each active lane the lane of A that its index names, 0 beyond lane 95; XGET copies
one lane of A whatever its state, and raises PROT with ACCESS 0 for a lane above 95; XRED reduces the active lanes in
ascending order, the identity of operation and type for a zero mask; XSCAN gives each active lane the running result, with `.ex`
what stood before its own value, the identity where nothing did, and with `.seg` begun anew at each lane whose flag is not zero.
The last two raise FPEXC, D unwritten, where a flag they raise has its trap enabled. A step of either is the operation of VADD, VMIN,
VMAX, VAND, VOR or VXOR, rounded to nearest even, without flushing (R292, R398). -/
def Obligations.CrossLaneResults : Prop :=
  ∀ (h : Hd) (ty : Ty) (o : RedOp) (seg ex : Bool) (d a b : Opnd) (d6 a6 : RegNo) (k : BitVec 9) (s : State) (m : Issue),
    let A := m.vval ty (m.reg a)
    let R := reduce o ty (m.active.map A)
    let X := scan o ex ty none (m.active.map fun l => (l, seg && lane (m.vget (m.reg b)) l != 0, A l))
    let combine := fun (x y : DWord) =>
      let op : IntOp := match o with | .add => .add | .min => .min | .max => .max | .and => .and | .or => .or | .xor => .xor
      arith2 op ty 0 .ne x y
    let identity := (reduce o ty []).1
    (Issues (.xsel h ty d a b) h s m → WritesLanes (.xsel h ty d a b) s m ty d fun l =>
      let k := (lane (m.vget (m.reg b)) l).toNat
      if 95 < k then 0 else A k) ∧
    (Issues (.xselSb h ty d a b) h s m → WritesLanes (.xselSb h ty d a b) s m ty d fun _ =>
      let k := (m.sget (m.reg b)).toNat
      if 95 < k then 0 else A k) ∧
    (Issues (.xget h ty d a b) h s m →
      ((m.sget (m.reg b)).toNat ≤ 95 → WritesScalar (.xget h ty d a b) s m ty d (A (m.sget (m.reg b)).toNat)) ∧
      (95 < (m.sget (m.reg b)).toNat → Completes (.xget h ty d a b) s ((m.of (.xget h ty d a b)).raise .prot 0 0))) ∧
    (Issues (.xgetImm h d6 a6 k) h s m →
      WritesScalar (.xgetImm h d6 a6 k) s m .b32 (plain d6) ((lane (m.vget a6.toNat) k.toNat).setWidth 64)) ∧
    (Issues (.xred h o ty d a) h s m →
      let n : Issue := { m.of (.xred h o ty d a) with g := m.g.orFlags R.2 }
      (m.g.fpTraps R.2 = false → Completes (.xred h o ty d a) s ((n.sputT ty (m.reg d) R.1).done)) ∧
      (m.g.fpTraps R.2 = true → Completes (.xred h o ty d a) s (n.raise .fpexc 0 0))) ∧
    (Issues (.xscan h o seg ex ty d a b) h s m →
      let n : Issue := { m.of (.xscan h o seg ex ty d a b) with g := m.g.orFlags X.2 }
      (m.g.fpTraps X.2 = false → Completes (.xscan h o seg ex ty d a b) s
        (n.vector ty d fun l => ((X.1.find? fun x => x.1 == l).map (·.2)).getD 0)) ∧
      (m.g.fpTraps X.2 = true → Completes (.xscan h o seg ex ty d a b) s (n.raise .fpexc 0 0))) ∧
    (reduce o ty []).2 = 0 ∧
    (∀ f, shapeOf ty = some f → (o = .add → identity = 0) ∧ (o = .min → identity.toNat = f.sgn false + f.infinity) ∧
      (o = .max → identity.toNat = f.sgn true + f.infinity)) ∧
    (tyFloat ty = false → val ty identity = match o with
      | .add | .or | .xor => 0
      | .min => if tySigned ty then 2 ^ (tyBits ty - 1) - 1 else 2 ^ tyBits ty - 1
      | .max => if tySigned ty then -2 ^ (tyBits ty - 1) else 0
      | .and => if tySigned ty then -1 else 2 ^ tyBits ty - 1) ∧
    (∀ x, reduce o ty [x] = (x, 0)) ∧
    (∀ l x, l ≠ [] → let r := reduce o ty l
      reduce o ty (l ++ [x]) = ((combine r.1 x).1, r.2 ||| (combine r.1 x).2)) ∧
    (∀ before, scan o ex ty before [] = ([], 0)) ∧
    (∀ (before : Option DWord) (l : Nat) (start : Bool) (x : DWord) (rest : List (Nat × Bool × DWord)),
      let acc := if start then none else before
      let now : Res := match acc with | none => (x, 0) | some y => combine y x
      let after := scan o ex ty (some now.1) rest
      scan o ex ty before ((l, start, x) :: rest) =
        ((l, if ex then acc.getD identity else now.1) :: after.1, now.2 ||| after.2))

/-- What a vector destination leaves, no trap enabled in FPMODE: the instruction completes, everything outside its group's
registers is as before, every byte of memory among it; every scalar half and the mask stand; in every lane that is not active,
and in every vector half in another place than its destination, the lanes stand; FPFLAGS only gains flags, and keeps them all
on integer and bit types. PGEN, MRD, GINW, GQRY and GPOP to vector registers leave everything but their destinations, whether they
complete, wait or trap; in lanes that are not active the destinations stand too. GREP, GPATCH and a dense
MRD leave every register at their issue; as their event writes it, the lanes of the destination that it does not write stand, and every
other register. -/
def Obligations.VectorFrame : Prop :=
  (∀ (i : Instr) (h : Hd) (vs ss : List Nat) (s : State) (m : Issue), otherDests m i = some (h, vs, ss) → Issues i h s m →
    LeavesRest i s m vs ss ∧ ∀ t g, Completes i s t → t.group? (qidOf m.ag) = some g →
      ∀ n l, l < 96 → l ∉ m.active → lane (g.vec n) l = lane (m.g.vec n) l) ∧
  (∀ (q : QId) (op line : Nat) (s t : State) (g g1 : Group) (o : TileOp) (dest : Nat), s.group? q = some g → g.op? op = some o →
    (∃ img todo a rejects, o.kind = .grep img dest todo a rejects) ∨ (∃ tid img todo exts a, o.kind = .gpatch tid img dest todo exts a) →
    Completes (.engineLine (.tile q op) line) s t → t.group? q = some g1 →
    (∀ n, g1.scal n = g.scal n) ∧ (∀ n, ¬SamePlace g n dest → g1.vec n = g.vec n) ∧ g1.splits = g.splits ∧ g1.fpflags = g.fpflags ∧
    (∀ img todo a rejects l, o.kind = .grep img dest todo a rejects → l < 96 → l ≠ line → lane (g1.vec dest) l = lane (g.vec dest) l) ∧
    (∀ tid img x todo exts a l, o.kind = .gpatch tid img dest (x :: todo) exts a → l < 96 → l ≠ x →
      lane (g1.vec dest) l = lane (g.vec dest) l)) ∧
  ∀ (i : Instr) (h : Hd) (ty : Ty) (d : Opnd) (s : State) (m : Issue), vectorDest i = some (h, ty, d) → Issues i h s m →
    m.g.fpmode &&& 0x1F = 0 →
    ∃ t g, Completes i s t ∧ RegistersOnly m t g ∧ Within m.g.fpflags g.fpflags ∧
      (fpArith i = false → g.fpflags = m.g.fpflags) ∧ (∀ n, g.scal n = m.g.scal n) ∧
      (∀ n, (∀ r ∈ destRegs ty (m.reg d), ¬SamePlace m.g n (absSlot m.k.base r)) → g.vec n = m.g.vec n) ∧
      (∀ n l, l < 96 → l ∉ m.active → lane (g.vec n) l = lane (m.g.vec n) l) ∧
      ∀ k, g.split? m.k.no = some k → k.mask = m.k.mask

/-- SRD writes the value of the special register to D, or to the pair D: of each of R105 what the state holds for it, CYCLE the
count of the agent's core (R312), WSREFRESH the calendar of R171 and R172; SWR of a register that software may write replaces
its writable fields alone: FPMODE, FPFLAGS, TBASE, TRAPCAUSE, TRAPPC; reserved fields are discarded. An address for TBASE or
TRAPPC that is off a word or beyond 56 bits, a register that software may not write, and a pair for a 32-bit register whose
upper half is not zero raise PROT with ACCESS 0. A single register written to a 64-bit one keeps its upper half. -/
def Obligations.SpecialRegisters : Prop :=
  ∀ (h : Hd) (d a : RegNo) (reg : Byte) (s : State) (m : Issue),
    let cluster := s.cluster (m.g.host / 8)
    let nat := fun (n : Nat) => BitVec.ofNat 64 n
    let refresh := fun (v : DWord) =>
      v.extractLsb' 0 5 = BitVec.ofNat 5 (s.fcount / 1280) ∧ v.getLsbD 5 = true ∧ v.getLsbD 6 = cluster.fixed ∧
      v.extractLsb' 7 9 = 0 ∧ v.extractLsb' 48 16 = 0 ∧ (cluster.fixed = false → v.extractLsb' 16 32 = 0) ∧
      ∀ next, 1280 ∣ next → s.fcount < next → next ≤ s.fcount + 1280 → cluster.fixed = true →
        v.extractLsb' 16 32 = BitVec.ofNat 32 next
    let content := fun (v : DWord) =>
      (reg, v) ∈ ([(0x00, nat m.g.lcore), (0x01, nat m.g.worker), (0x02, nat m.g.idx), (0x03, m.g.laneBase.setWidth 64),
        (0x04, nat m.k.base), (0x05, nat (if cluster.fixed then s.fcount else cluster.cycle)), (0x07, m.g.fpmode.setWidth 64),
        (0x08, m.g.fpflags.setWidth 64), (0x09, (s.ctx m.g.ctx).seed), (0x10, m.g.tbase), (0x11, m.k.trapCause.setWidth 64),
        (0x12, m.k.trapPc), (0x13, m.k.trapAddr)] : List (Byte × DWord)) ∨
      (reg = 0x06 ∧ refresh v) ∨
      ∃ n, n < 32 ∧ reg = BitVec.ofNat 8 (0x20 + n) ∧ v = ((m.g.args[n]?).getD 0).setWidth 64
    (∀ v, content v → Issues (.srd h d reg) h s m → WritesScalar (.srd h d reg) s m .b32 (plain d) v) ∧
    (∀ v, content v → Issues (.srdPair h d reg) h s m → WritesScalar (.srdPair h d reg) s m .n64 (plain d) v) ∧
    (∀ (i : Instr) (v : DWord),
      (i = .swr h reg a ∧ v = (if reg = 0x10 then m.g.tbase.extractLsb' 32 32 else if reg = 0x12 then m.k.trapPc.extractLsb' 32 32
        else 0) ++ m.sget a.toNat) ∨
      (i = .swrPair h reg a ∧ v = m.sget2 a.toNat ∧ (sregWidth reg = some 32 → m.sget (a.toNat + 1) = 0)) →
      Issues i h s m →
      let n := m.of i
      let w := v.setWidth 32
      let word := v.setWidth 2 = 0 ∧ v.extractLsb' 56 8 = 0
      (reg = 0x07 → Completes i s ({ n with g := { m.g with fpmode := w &&& 0xDF } } : Issue).done) ∧
      (reg = 0x08 → Completes i s ({ n with g := { m.g with fpflags := w &&& 0x1F } } : Issue).done) ∧
      (reg = 0x10 → word → Completes i s ({ n with g := { m.g with tbase := v } } : Issue).done) ∧
      (reg = 0x11 → Completes i s ({ n with k := { m.k with trapCause := w &&& 0xFFFF0FFF } } : Issue).done) ∧
      (reg = 0x12 → word → Completes i s ({ n with k := { m.k with trapPc := v } } : Issue).done) ∧
      (reg = 0x10 ∨ reg = 0x12 → ¬word → Completes i s (n.raise .prot 0 0)) ∧
      (reg ∉ ([0x07, 0x08, 0x10, 0x11, 0x12] : List Byte) → Completes i s (n.raise .prot 0 0))) ∧
    (Issues (.swrPair h reg a) h s m → sregWidth reg = some 32 → m.sget (a.toNat + 1) ≠ 0 →
      Completes (.swrPair h reg a) s ((m.of (.swrPair h reg a)).raise .prot 0 0))

/-! ## Flow -/

/-- BRA, BRC and BRZ: a taken branch puts the PC at the address of word 0 plus 4 times the offset, pops the loop levels whose
bodies do not hold the target and ends the run; an untaken one goes on in sequence. BRD with no active lane taken goes on, with
every active lane taken it is such a branch; so is JMPI of a scalar pair, and JMPI of lane pairs that agree; with no active lane
JMPI of lane pairs goes on. A target off a word raises PROT with ACCESS 0 and in TRAPADDR the target of the first active lane that
has one, 0 for a scalar pair.
(What it rests on that is the model's choice: log 42, 78.) -/
def Obligations.Branches : Prop :=
  ∀ (h : Hd) (off21 : BitVec 21) (a : Opnd) (a6 : RegNo) (off : Imm) (s : State) (m : Issue),
    let To := fun (i : Instr) (t : DWord) =>
      Completes i s (({ m.of i with k := { m.k with pc := t, levels := popLevels t m.k.levels } } : Issue).finish true)
    let Goes := fun (i : Instr) => Completes i s (m.of i).done
    let tgt := m.k.pc + BitVec.ofInt 64 (4 * immInt off)
    let V := lane (m.vget (m.reg a))
    (Issues (.bra h off21) h s m → To (.bra h off21) (m.k.pc + BitVec.ofInt 64 (4 * off21.toInt))) ∧
    (Issues (.brc h a off) h s m →
      (m.sget (m.reg a) ≠ 0 → To (.brc h a off) tgt) ∧ (m.sget (m.reg a) = 0 → Goes (.brc h a off))) ∧
    (Issues (.brz h a off) h s m →
      (m.sget (m.reg a) = 0 → To (.brz h a off) tgt) ∧ (m.sget (m.reg a) ≠ 0 → Goes (.brz h a off))) ∧
    (Issues (.brd h a off) h s m →
      ((∀ l ∈ m.active, V l = 0) → Goes (.brd h a off)) ∧
      (m.active ≠ [] → (∀ l ∈ m.active, V l ≠ 0) → To (.brd h a off) tgt)) ∧
    (Issues (.jmpiS h a6) h s m →
      ((m.sget2 a6.toNat).setWidth 2 = 0 → To (.jmpiS h a6) (m.sget2 a6.toNat)) ∧
      ((m.sget2 a6.toNat).setWidth 2 ≠ 0 → Completes (.jmpiS h a6) s ((m.of (.jmpiS h a6)).raise .prot 0 0))) ∧
    (Issues (.jmpiV h a6) h s m → ∀ t,
      (m.active ≠ [] → (∀ l ∈ m.active, m.vval .n64 a6.toNat l = t) → t.setWidth 2 = 0 → To (.jmpiV h a6) t) ∧
      (m.active = [] → Goes (.jmpiV h a6)) ∧
      (∀ pre l r, m.active = pre ++ l :: r → (∀ x ∈ pre, (m.vval .n64 a6.toNat x).setWidth 2 = 0) → m.vval .n64 a6.toNat l = t →
        t.setWidth 2 ≠ 0 → Completes (.jmpiV h a6) s ((m.of (.jmpiV h a6)).raise .prot 0 t.toNat)))

/-- Divergence (R122) of BRD, of JMPI of lane pairs and of CALLI of lane pairs, where the next PCs of the active lanes differ, in a
group whose stack holds up to 15 entries, none of them spilled. `ts` lists the distinct next PCs, ascending, each with its lanes: two
for a BRD, up to 96 for the others. An entry with the split's owned lanes is pushed, for CALLI a call entry whose reconvergence point
is the next instruction, for the others a branch entry without one. The split keeps the lanes of the lowest PC, with its inactive
lanes; each free split number, lowest first, becomes a READY split that owns the lanes of the next PC; the lanes of further PCs, for
which a group of at most four splits has no number, are pending: JMASK names them, JPC and JBASE the instruction and its base. Every
split has its own PC; after BRD and JMPI it pops the loop levels whose bodies do not hold it, and the base stands; CALLI, its new
window resident and within R111, moves the base of all of them up by K, writes the link once into s8 and s9 of the new window, and
keeps the levels. (R330-R332, R353.) -/
def Obligations.Divergence : Prop :=
  ∀ (h : Hd) (a : Opnd) (a6 k6 : RegNo) (off : Imm) (s : State) (m : Issue) (ts : List (DWord × Mask)),
    m.g.isFront = false → m.g.spilled = 0 → m.g.stack.length < 16 → 2 ≤ ts.length →
    ts.Pairwise (fun x y => x.1.toNat < y.1.toNat) →
    let leads := fun (T : Nat → DWord) =>
      (∀ x ∈ ts, x.2 = maskOf (m.active.filter fun l => T l == x.1) ∧ x.2 ≠ 0) ∧ ∀ l ∈ m.active, ∃ x ∈ ts, x.1 = T l
    let pending := lanesIn (ts.drop (1 + m.g.freeNos.length))
    let diverges := fun (i : Instr) (kind : StackKind) (rpc : Option DWord) (base : Nat) (levels : DWord → List Level)
        (link : Group → Prop) =>
      ∃ t g e, Completes i s t ∧ t.group? (qidOf m.ag) = some g ∧ g.stack = e :: m.g.stack ∧ g.spilled = 0 ∧
        e.kind = kind ∧ e.rpcv = rpc.isSome ∧ (∀ p, rpc = some p → e.rpc = p) ∧ e.dmask = m.k.owned ∧ e.amask = 0 ∧
        e.jmask = pending ∧ (pending ≠ 0 → e.jpc = m.k.pc ∧ e.jbase = m.k.base) ∧
        (∃ k, g.split? m.k.no = some k ∧ ts.head? = some (k.pc, k.mask) ∧ k.owned = m.k.owned &&& ~~~lanesIn ts.tail ∧
          k.state = .ready ∧ k.base = base ∧ k.levels = levels k.pc) ∧
        (∀ j x no, ts[j + 1]? = some x → m.g.freeNos[j]? = some no → ∃ k, g.split? no = some k ∧ k.pc = x.1 ∧ k.mask = x.2 ∧
          k.owned = x.2 ∧ k.state = .ready ∧ k.base = base ∧ k.levels = levels x.1) ∧
        (∀ j no, ts[j + 1]? = none → m.g.freeNos[j]? = some no → g.split? no = none) ∧
        link g ∧ SameMemory s t ∧ OthersSame (qidOf m.ag) s t
    let popped := fun pc => popLevels pc m.k.levels
    let V := m.vval .n64 a6.toNat
    (Issues (.brd h a off) h s m →
      leads (fun l => if lane (m.vget (m.reg a)) l ≠ 0 then m.k.pc + BitVec.ofInt 64 (4 * immInt off) else m.after) →
      diverges (.brd h a off) .branch none m.k.base popped fun _ => True) ∧
    (Issues (.jmpiV h a6) h s m → leads V → (∀ l ∈ m.active, (V l).setWidth 2 = 0) →
      diverges (.jmpiV h a6) .branch none m.k.base popped fun _ => True) ∧
    (Issues (.calliV h k6 a6) h s m → leads V → (∀ l ∈ m.active, (V l).setWidth 2 = 0) →
      let base := m.k.base + k6.toNat
      m.linkPending k6.toNat = false → 2 ≤ m.g.ring.length →
      m.g.fits (base :: (m.g.splits.filter fun x => !(x.no == m.k.no)).map (·.base)) = true → m.g.resident base = true →
      diverges (.calliV h k6 a6) .call (some m.after) base (fun _ => m.k.levels) fun g =>
        g.scal (base + 8) = m.after.extractLsb' 0 32 ∧
          g.scal (base + 9) = (0 : BitVec 2) ++ BitVec.ofNat 6 k6.toNat ++ m.after.extractLsb' 32 24)

/-- CALL, CALLI and RET where the new window is resident and R111 holds, so that no transfer is needed: a slot of the new window
that was dead enters with contents that slots of the group have held, every other slot stands (R109). A call moves the base up by
K, writes the link into s8 and s9 of the new window, and puts the PC at the target; RET reads its link from its own s8 and s9 and
gives PC and slide back; a malformed link raises PROT with ACCESS 0, and so does a target off a word, TRAPADDR being the target of the
first active lane that has one, 0 for a scalar pair. CALLI of lane pairs with no active lane goes on; where its lanes differ it
diverges (Obligations.Divergence). Loop levels stand. A call whose link registers are yet to be written stalls (R54). On the front a base beyond 192 raises WINDOWFULL.
(What it rests on that is the model's choice: log 7, 42.) -/
def Obligations.CallsAndReturns : Prop :=
  ∀ (h : Hd) (k a : RegNo) (off : CallOff) (s : State) (m : Issue),
    let there := fun (base : Nat) => m.g.isFront = true ∨
      (m.g.fits (base :: (m.g.splits.filter fun x => !(x.no == m.k.no)).map (·.base)) = true ∧ m.g.resident base = true)
    let moved := fun (i : Instr) (base n : Nat) (ring : List RingSlot) (past : List (VReg × Word)) =>
      let x := { m.k with base := base, hold := .none }
      ({ m.of i with s := { (m.of i).s with choices := n }
                     g := { (m.g.setSplit x).discard with ring := ring, past := past }, k := x } : Issue)
    let kept := fun (base : Nat) (ring : List RingSlot) => ring.length = m.g.ring.length ∧ ∀ p, p < ring.length →
      (∀ n ∈ m.g.windowSlots base, m.g.pos n = p → m.g.dead (m.g.bases ++ m.g.parkedBases) n = false) →
      let x := ring.getD p RingSlot.blank
      let y := m.g.ring.getD p RingSlot.blank
      x.abs = y.abs ∧ x.vec = y.vec ∧ x.scal = y.scal ∧ x.clean = y.clean
    let entered := fun (base : Nat) (ring : List RingSlot) => m.g.isFront = false → ∀ n ∈ m.g.windowSlots base,
      m.g.dead (m.g.bases ++ m.g.parkedBases) n = true →
      let x := ring.getD (m.g.pos n) RingSlot.blank
      x.abs = some n ∧ (∃ y ∈ m.g.contents, x.vec = y.1) ∧ ∃ y ∈ m.g.contents, x.scal = y.2
    let call := fun (i : Instr) (t : DWord) =>
      (m.g.isFront = true → 192 < m.k.base + k.toNat → Completes i s ((m.of i).raise .windowfull 0 0)) ∧
      ((m.g.isFront = true → m.k.base + k.toNat ≤ 192) → m.linkPending k.toNat = true → Completes i s (m.of i).stall) ∧
      ((m.g.isFront = true → m.k.base + k.toNat ≤ 192) → m.linkPending k.toNat = false → there (m.k.base + k.toNat) → ∃ c ring past,
        let n := (moved i (m.k.base + k.toNat) c ring past).link k.toNat m.after
        kept (m.k.base + k.toNat) ring ∧ entered (m.k.base + k.toNat) ring ∧ Completes i s (({ n with k := { n.k with pc := t } } : Issue).finish true))
    (Issues (.call h k off) h s m →
      call (.call h k off) (m.k.pc + BitVec.ofInt 64 (4 * (match off with | .o15 v => v.toInt | .o32 v => v.toInt)))) ∧
    (Issues (.calliS h k a) h s m →
      ((m.sget2 a.toNat).setWidth 2 = 0 → call (.calliS h k a) (m.sget2 a.toNat)) ∧
      ((m.sget2 a.toNat).setWidth 2 ≠ 0 → Completes (.calliS h k a) s ((m.of (.calliS h k a)).raise .prot 0 0))) ∧
    (Issues (.calliV h k a) h s m → let T := m.vval .n64 a.toNat
      (∀ t, m.active ≠ [] → (∀ l ∈ m.active, T l = t) → t.setWidth 2 = 0 → call (.calliV h k a) t) ∧
      (∀ pre l r, m.active = pre ++ l :: r → (∀ x ∈ pre, (T x).setWidth 2 = 0) → (T l).setWidth 2 ≠ 0 →
        Completes (.calliV h k a) s ((m.of (.calliV h k a)).raise .prot 0 (T l).toNat)) ∧
      (m.active = [] → Completes (.calliV h k a) s (m.of (.calliV h k a)).done)) ∧
    (Issues (.ret h) h s m →
      let slide := (m.sget 9).toNat / 2 ^ 24 % 64
      let ok := (m.sget 9).extractLsb' 30 2 = 0 ∧ slide ≤ 56 ∧ slide ≤ m.k.base ∧ (m.sget 8).setWidth 2 = 0
      (¬ok → Completes (.ret h) s ((m.of (.ret h)).raise .prot 0 0)) ∧
      (ok → there (m.k.base - slide) → ∃ c ring past,
        let n := moved (.ret h) (m.k.base - slide) c ring past
        let pc := ((m.sget 9).extractLsb' 0 24 ++ m.sget 8).setWidth 64
        kept (m.k.base - slide) ring ∧ entered (m.k.base - slide) ring ∧ Completes (.ret h) s (({ n with k := { n.k with pc := pc } } : Issue).finish true)))

/-- LOOP with a count that is not zero opens a level whose body starts behind the LOOP and ends at its target; the counter
takes the count. With a count of zero the body is passed over: the PC is behind the instruction at the target, whose word is
fetched for its length, and no level is opened or popped; where the fetch fails, its cause is raised with ACCESS 4. A fourth
level, a counter in use, or an end beyond that of a level it stands in raises ILLEGAL.
(What it rests on that is the model's choice: log 79.) -/
def Obligations.Loops : Prop :=
  ∀ (h : Hd) (lc : RegNo) (a : Opnd) (off : Imm) (s : State) (m : Issue), Issues (.loop h lc a off) h s m →
    let last := m.k.pc + BitVec.ofInt 64 (4 * immInt off)
    let bad := 3 ≤ m.k.levels.length ∨ ∃ l ∈ m.k.levels, l.ctr.toNat = lc.toNat ∨ l.last.toNat < last.toNat
    (bad → Completes (.loop h lc a off) s ((m.of (.loop h lc a off)).raise .illegal 0 0)) ∧
    (¬bad → m.sget (m.reg a) ≠ 0 →
      let l : Level := { ctr := BitVec.ofNat 2 lc.toNat, start := m.after, last := last, buf := [], bufOn := false, armed := false
                         discard := false }
      Completes (.loop h lc a off) s
        (({ m.of (.loop h lc a off) with
            k := { m.k.lcSet lc.toNat (m.sget (m.reg a)) with pc := m.after, levels := l :: m.k.levels } } : Issue).finish true)) ∧
    (¬bad → m.sget (m.reg a) = 0 →
      (∀ s1 w, s.fetchWord m.g.host m.g.ctx last.toNat = (s1, .ok w) →
        let words := if w.toNat % 4 = 0 then 1 else if w.toNat % 4 = 3 then 5 else 3
        Completes (.loop h lc a off) s
          (({ m.of (.loop h lc a off) with s := s1, k := { m.k with pc := last + BitVec.ofNat 64 (4 * words) } } : Issue).finish true)) ∧
      (∀ s1 b, s.fetchWord m.g.host m.g.ctx last.toNat = (s1, .error b) →
        Completes (.loop h lc a off) s ((m.of (.loop h lc a off)).fail s1 b 4)))

/-- RECV and RTT, no entry of the stack spilled but where said. A RECV with no entry for its split acts as a NOP. Otherwise its entry is the
topmost whose lanes contain the split's. A branch or call entry without a reconvergence point takes the RECV's PC as its point; a
RECV at another point acts as a NOP. At the point, while live splits still own lanes of the entry, the split parks: it ends, its
lanes parked at its base; where other lanes are parked at another base it goes on instead. With no such split, lanes that are
pending start as a new READY split when it parks; with none pending the entry is popped, wherever it stands in the stack, and the
parked lanes come back with their mask, into this split at its own base and else as a new split behind the RECV, with a fence
`.ar.group` between what went before and after (R204). At a trap entry (the return from a handler, R274) the split parks in the
same way; the last to come, at the base the entry saved, takes every lane back with the saved mask, behind such a fence where lanes
are parked, clears INHANDLER, releases the siblings that its breakpoint held and goes to TRAPPC, and at another base it raises PROT
with ACCESS 0. RTT in fragment mode, in a handler, at the base of its entry, gives the saved mask back under the lanes still owned,
clears INHANDLER and goes to TRAPPC; outside a handler or at another base it raises PROT, in stack mode ILLEGAL. Of a VMAX that is
not to fuse again, either return keeps only the one that it goes back to (R157). A RECV
whose pop of the topmost of 16 held entries exposes a spilled one refills it before it completes, and where that refill faults it
raises SPILLFAULT as it stood at its issue (R368).
(What it rests on that is the model's choice: log 22, 39, 45.) -/
def Obligations.Reconvergence : Prop :=
  ∀ (h : Hd) (s : State) (m : Issue),
    (Issues (.recv h) h s m → m.g.spilled = 0 → m.g.stack.length ≤ 16 →
      let n := m.of (.recv h)
      let goes := fun (x : Issue) => Completes (.recv h) s x.done
      ((∀ e ∈ m.g.stack, ¬Within m.k.owned e.dmask) → goes n) ∧
      ∀ (pre r : List StackEntry) (e : StackEntry), m.g.stack = pre ++ e :: r → (∀ x ∈ pre, ¬Within m.k.owned x.dmask) →
        Within m.k.owned e.dmask → e.bad = false →
        let live := ∃ y ∈ m.g.splits, y.no ≠ m.k.no ∧ y.owned &&& e.dmask ≠ 0
        let room := e.amask = 0 ∨ e.abase = m.k.base
        let withStack := fun (st : List StackEntry) => ({ m.g with stack := st } : Group)
        let parks := fun (e1 : StackEntry) (kid : Option Split) =>
          let g1 := (((withStack (pre ++ { e1 with amask := e1.amask ||| m.k.owned, abase := m.k.base } :: r)).dropSplit
            m.k.no).releaseHeld m.k.no).orphan m.k.no
          let g2 := match kid with
            | none => g1
            | some c => g1.addSplit c
          Completes (.recv h) s ((s.setGroup (qidOf m.ag) g2.discard).dropRun)
        (e.kind ≠ .trap →
          let e1 := if e.rpcv then e else { e with rpc := m.k.pc, rpcv := true }
          let waits := { n with g := withStack (pre ++ e1 :: r) }
          let popped := withStack (pre ++ r)
          (e.rpcv = true → e.rpc ≠ m.k.pc → goes waits) ∧
          ((e.rpcv = true → e.rpc = m.k.pc) →
            (live → room → parks e1 none) ∧ (live → ¬room → goes waits) ∧
            (¬live → e.jmask ≠ 0 → ¬room → goes waits) ∧
            (¬live → e.jmask ≠ 0 → room → ∀ no, (List.range 4).find? (fun j => m.g.splits.all fun y => y.no != j || y.no == m.k.no) =
                some no → parks { e1 with jmask := 0 } (some (m.k.child no e.jmask e.jpc e.jbase (s.now m.g)))) ∧
            (¬live → e.jmask = 0 → e.amask = 0 → goes { n with g := popped }) ∧
            (¬live → e.jmask = 0 → e.amask ≠ 0 → e.abase = m.k.base →
              goes { n with g := popped.mergeMark m.k.no
                            k := { m.k with owned := m.k.owned ||| e.amask, mask := m.k.mask ||| e.amask } }) ∧
            (¬live → e.jmask = 0 → e.amask ≠ 0 → e.abase ≠ m.k.base → ∀ no, m.g.freeNos.head? = some no →
              goes { n with g := ((popped.mergeMark no).addSplit
                (m.k.child no e.amask (e1.rpc + 4) e.abase (s.now m.g))).discard }))) ∧
        (e.kind = .trap →
          (live → room → parks e none) ∧ (live → ¬room → goes n) ∧
          (¬live → (m.k.base ≠ e.jbase ∨ ¬room) → Completes (.recv h) s (n.raise .prot 0 0)) ∧
          (¬live → m.k.base = e.jbase → room →
            let lanes := m.k.owned ||| e.amask
            let left := (withStack (pre ++ r)).releaseHeld m.k.no
            Completes (.recv h) s (({ n with
              g := if e.amask = 0 then left else left.mergeMark m.k.no
              k := { m.k with owned := lanes, mask := e.jmask &&& lanes, inHandler := false, pc := m.k.trapPc
                              noFuse := m.k.noFuse.filter (· == m.k.trapPc), noFuseIn := none } } : Issue).finish true)))) ∧
    (Issues (.recv h) h s m → ∀ (e : StackEntry) (r : List StackEntry), m.g.stack = e :: r → m.g.held = 16 → 0 < m.g.spilled →
      Within m.k.owned e.dmask → e.bad = false → e.kind ≠ .trap → (e.rpcv = true → e.rpc = m.k.pc) →
      (∀ y ∈ m.g.splits, y.no ≠ m.k.no → y.owned &&& e.dmask = 0) → e.jmask = 0 → e.amask = 0 →
      let left : Group := { m.g with stack := r }
      (∀ s1 g1, s.refillEntry left = (s1, g1, .ok) →
        Completes (.recv h) s ({ m.of (.recv h) with s := s1, g := g1 } : Issue).done) ∧
      (∀ s1 g1 x, s.refillEntry left = (s1, g1, .bad x) → Completes (.recv h) s ((m.of (.recv h)).sillFail s1 x))) ∧
    (Issues (.rtt h) h s m →
      (m.ctx.fragMode = false → Completes (.rtt h) s ((m.of (.rtt h)).raise .illegal 0 0)) ∧
      (m.ctx.fragMode = true → (m.k.inHandler = false ∨ m.k.base ≠ m.k.entryBase) →
        Completes (.rtt h) s ((m.of (.rtt h)).raise .prot 0 0)) ∧
      (m.ctx.fragMode = true → m.k.inHandler = true → m.k.base = m.k.entryBase →
        Completes (.rtt h) s (({ m.of (.rtt h) with
          g := m.g.releaseHeld m.k.no
          k := { m.k with mask := m.k.entryMask &&& m.k.owned, inHandler := false, pc := m.k.trapPc
                          noFuse := m.k.noFuse.filter (· == m.k.trapPc), noFuseIn := none } } : Issue).finish true)))

/-- NOP goes on. END of the last split of a group with an empty stack retires the group; END of one of two splits whose stack
holds entries for both, the lanes of the topmost still owned, takes the split out and ends its run; END of a front's program
ends the front.
(What it rests on that is the model's choice: log 40.) -/
def Obligations.Ends : Prop :=
  ∀ (h : Hd) (s : State) (m : Issue),
    (Issues (.nop h) h s m → Completes (.nop h) s (m.of (.nop h)).done) ∧
    (Issues (.endI h) h s m →
      (m.g.isFront = false → ∀ gang idx no, m.ag = .split gang idx no → m.g.splits = [m.k] → m.g.stack = [] →
        m.g.spilled = 0 → m.g.retired = false →
        ∃ t, Completes (.endI h) s t ∧ t.runs = s.runs.tail ∧ SameMemory s t ∧
          ∃ g, t.group? (.group gang idx) = some g ∧ g.retired = true ∧ g.splits = [] ∧ g.queries = []) ∧
      (m.g.isFront = false → m.g.spilled = 0 → m.g.stack.length ≤ 16 → ∀ k1, k1.no ≠ m.k.no → m.g.splits = [m.k, k1] → k1.heldBy ≠ some m.k.no →
        ∀ e r, m.g.stack = e :: r → Within m.k.owned e.dmask → k1.owned &&& e.dmask ≠ 0 →
        Completes (.endI h) s ((s.setGroup (qidOf m.ag) ((({ m.g with splits := [k1] } : Group).orphan m.k.no).discard)).dropRun)) ∧
      (∀ c f, m.g.isFront = true → m.ag = .front c → (s.core c).front = some f → m.g.lcore = c →
        let f1 : Front := { f with group := { m.g with splits := [], retired := true }, ended := true }
        Completes (.endI h) s (((s.setCore { s.core c with front := some f1 }).dropRun).dqServeAll c)))

/-! ## Traps -/

/-- TRAP and BKPT: the agent is TRAPPED with SOFT and the code, or BKPT; TRAPPC will be the next instruction; the run ends. Raising
a trap in a group whose queues are not empty: the split is TRAPPED, waits for nothing and keeps what it needs to
enter its handler, and a DQPOP of its own that waited leaves the queues; a BKPT of a group's split holds its siblings from then
on, each READY or BLOCKED one HELD with the state it had (R128); nothing else of the machine changes (R29, R210).
(What it rests on that is the model's choice: log 21, 22, 30.) -/
def Obligations.TrapsRaised : Prop :=
  (∀ (h : Hd) (code : Byte) (s : State) (m : Issue),
    (Issues (.trap h code) h s m →
      Completes (.trap h code) s ((m.commit.dropRun).raiseTrap m.ag .soft 0 m.after 0 code)) ∧
    (Issues (.bkpt h) h s m → Completes (.bkpt h) s ((m.commit.dropRun).raiseTrap m.ag .bkpt 0 m.after 0 0))) ∧
  (∀ (s : State) (ag : Agent) (g : Group) (k : Split) (c : Cause) (acc : BitVec 4) (pc : DWord) (addr : Nat) (code : Byte),
    s.group? (qidOf ag) = some g → g.split? (splitNoOf ag) = some k → (∃ e ∈ g.queue, e.isPop = false) →
    ∃ g1 : Group, s.raiseTrap ag c acc pc addr code = s.setGroup (qidOf ag) g1 ∧
      { g1 with splits := g.splits, queue := g.queue } = g ∧
      g1.queue = g.queue.filter (fun e => !(e.isPop && e.split == k.no)) ∧
      g1.split? k.no = some { k with
        state := .trapped, wait := .none, hold := .none
        trap := some { cause := c, access := acc, pc := pc, addr := BitVec.ofNat 64 addr, code := code
                       sibl := if g.isFront then 0 else g.sibl k.no } } ∧
      ∀ x ∈ g.splits, x.no ≠ k.no →
        (if c = .bkpt ∧ g.isFront = false ∧ (x.state = .ready ∨ x.state = .blocked)
          then { x with prior := x.state, state := .held, heldBy := some k.no } else x) ∈ g1.splits)

/-- Handler entry in stack mode, once the queues are empty: TRAPCAUSE holds cause, ACCESS, split number, siblings and code,
FRAG and NEST clear; TRAPPC and TRAPADDR hold what the trap gave; a trap entry is pushed with the split's lanes, mask and base
and with TRAPPC; INHANDLER is set and the PC is TBASE; mask, base, FPFLAGS and FPMODE stand, and so does every byte of memory.
In fragment mode nothing is pushed, FRAG is set, and ENTRYMASK and ENTRYBASE take mask and base.
(What it rests on that is the model's choice: log 45.) -/
def Obligations.HandlerEntry : Prop :=
  ∀ (s : State) (q : QId) (g : Group) (k : Split) (t : TrapInfo), s.group? q = some g → g.split? k.no = some k →
    g.isFront = false → k.inHandler = false → g.tbase ≠ 0 → k.no < 4 →
    ((s.ctx g.ctx).fragMode = true ∨ g.stack.length - g.spilled < 16) →
    let frag := (s.ctx g.ctx).fragMode
    ∃ g1 k1, s.takeTrap q g k t = s.setGroup q g1 ∧ g1.split? k.no = some k1 ∧
      k1.pc = g.tbase ∧ k1.inHandler = true ∧ k1.state = .ready ∧ k1.mask = k.mask ∧ k1.base = k.base ∧ k1.owned = k.owned ∧
      k1.trapPc = t.pc ∧ k1.trapAddr = t.addr ∧
      k1.trapCause.extractLsb' 0 8 = BitVec.ofNat 8 (causeCode t.cause) ∧ k1.trapCause.extractLsb' 8 4 = t.access ∧
      k1.trapCause.extractLsb' 12 4 = 0 ∧ k1.trapCause.getLsbD 16 = false ∧ k1.trapCause.getLsbD 17 = frag ∧
      k1.trapCause.extractLsb' 18 2 = BitVec.ofNat 2 k.no ∧ k1.trapCause.extractLsb' 20 4 = t.sibl ∧
      k1.trapCause.extractLsb' 24 8 = t.code ∧
      g1.fpflags = g.fpflags ∧ g1.fpmode = g.fpmode ∧ g1.globals = g.globals ∧ g1.ring = g.ring ∧
      (frag = true → g1.stack = g.stack ∧ k1.entryMask = k.mask ∧ k1.entryBase = k.base) ∧
      (frag = false → g1.stack = { kind := .trap, rpcv := true, rpc := t.pc, jpc := 0, jmask := k.mask, jbase := k.base
                                   amask := 0, abase := 0, dmask := k.owned, bad := false } :: g.stack) ∧
      SameMemory s (s.takeTrap q g k t)

/-- A trap with TBASE 0, inside a handler, or on a front is forwarded: the trap registers are written, NEST set where the split
was in its handler, the agent sleeps with INHANDLER as it was, and a numbered fault record with cause, PC and address waits for
the context's fault ring.
(What it rests on that is the model's choice: log 30.) -/
def Obligations.TrapForwarded : Prop :=
  ∀ (s : State) (q : QId) (g : Group) (k : Split) (t : TrapInfo) (c : Context), s.group? q = some g → g.split? k.no = some k →
    s.ctx? g.ctx = some c → (g.isFront = true ∨ k.inHandler = true ∨ g.tbase = 0) →
    ∃ g1 k1 fr, (s.takeTrap q g k t).group? q = some g1 ∧ g1.split? k.no = some k1 ∧
      k1.state = .sleeping ∧ k1.inHandler = k.inHandler ∧ k1.trapPc = t.pc ∧ k1.trapAddr = t.addr ∧
      k1.trapCause.extractLsb' 0 8 = BitVec.ofNat 8 (causeCode t.cause) ∧ k1.trapCause.getLsbD 16 = k.inHandler ∧
      ((s.takeTrap q g k t).ctx g.ctx).heldFaults = c.heldFaults ++ [fr] ∧
      ((s.takeTrap q g k t).ctx g.ctx).faultSeq = c.faultSeq + 1 ∧
      (c.faultSeq, FaultSrc.agent (Group.agent q k.no)) ∈ ((s.takeTrap q g k t).ctx g.ctx).sleepers ∧
      fr.extractLsb' 0 32 = k1.trapCause ∧ fr.extractLsb' 256 64 = t.pc ∧ fr.extractLsb' 320 64 = t.addr ∧
      SameMemory s (s.takeTrap q g k t)

/-! ## Waits and barriers -/

/-- WAIT completes where its counter is at most the threshold, and else blocks; SLEEP of 0 completes, of another count blocks until
that many cycles on; WAKEAT of a cycle that has come completes, of a later one blocks; a WAIT or WAKEAT that depends on commands
late for their promises raises PROMISE with ACCESS 6 instead, and they raise it no second time (R192, R336, R396). SYNC blocks as
arrived in the current phase, raises CONVERGENCE in a group with several splits, and in a gang whose other groups have each
retired or arrived the phase advances and every waiting group goes on, itself among them. BBI and BBA at an aligned offset inside
the region, with a count below 2^24, place their step in the queues and go on; an offset off 16 raises ALIGN, one beyond the region
and a greater count PROT, with ACCESS 3. BBW, its offset checked alike with ACCESS 1, reads PEND behind the group's older entries:
it stalls while one of them bars the read, goes on where PEND is 0, and blocks where it is not, or raises PROMISE. On a front whose
gang is not resident the three stall (R319).
(What it rests on that is the model's choice: log 10, 41, 77.) -/
def Obligations.ByteAndGroupWaits : Prop :=
  (∀ (h : Hd) (cls : WaitClass) (n : Imm) (a : RegNo) (s : State) (m : Issue),
    let late := fun (w : Wait) => s.lateFor (qidOf m.ag) m.g.host w
    let promise := fun (i : Instr) (w : Wait) =>
      Completes i s (({ m.of i with s := s.markPromised ((late w).map (·.id)) } : Issue).raise .promise 6 0)
    let blocks := fun (i : Instr) (w : Wait) =>
      Completes i s (({ m.of i with k := { m.k with state := .blocked, wait := w } } : Issue).commit.dropRun)
    let now := s.cycle m.g.host
    (Issues (.wait h cls n) h s m →
      (m.g.counter cls ≤ (immInt n).toNat → Completes (.wait h cls n) s (m.of (.wait h cls n)).done) ∧
      ((immInt n).toNat < m.g.counter cls → let w := Wait.counter cls (immInt n).toNat (lenWords h.len)
        (late w = [] → blocks (.wait h cls n) w) ∧ (late w ≠ [] → promise (.wait h cls n) w))) ∧
    (Issues (.sleep h a) h s m →
      (m.sget a.toNat = 0 → Completes (.sleep h a) s ({ m.of (.sleep h a) with mf := true } : Issue).done) ∧
      (m.sget a.toNat ≠ 0 → blocks (.sleep h a) (.sleep (now + (m.sget a.toNat).toNat)))) ∧
    (Issues (.wakeat h a) h s m →
      let till := (m.sget2 a.toNat).toNat
      (late (.wakeat till) ≠ [] → promise (.wakeat h a) (.wakeat till)) ∧
      (late (.wakeat till) = [] → till ≤ now → Completes (.wakeat h a) s (m.of (.wakeat h a)).done) ∧
      (late (.wakeat till) = [] → now < till → blocks (.wakeat h a) (.wakeat till))) ∧
    (Issues (.sync h) h s m → ∀ gang idx no x, m.ag = .split gang idx no → s.gang? gang = some x →
      (1 < m.g.splits.length → Completes (.sync h) s ((m.of (.sync h)).raise .convergence 0 0)) ∧
      (m.g.splits = [m.k] → m.g.retired = false → idx = m.g.idx → (x.groups.map (·.idx)).Nodup →
        (∀ y ∈ x.groups, y.idx ≠ m.g.idx → y.retired = true ∨ y.arrived = some x.phase) →
        ∃ t y g k, Completes (.sync h) s t ∧ t.gang? gang = some y ∧ y.phase = x.phase + 1 ∧
          y.groups.map (·.idx) = x.groups.map (·.idx) ∧ g ∈ y.groups ∧ g.idx = m.g.idx ∧
          g.splits = [k] ∧ g.arrived = none ∧ k.state = .ready ∧ (m.k.levels = [] → k.pc = m.k.pc + 4) ∧
          ∀ z ∈ x.groups, z.idx ≠ m.g.idx → (if z.retired then z else { z with
            arrived := none
            splits := z.splits.map fun j => match j.waiting, j.wait with
              | true, .sync _ => j.resume 1 (s.now z)
              | _, _ => j }) ∈ y.groups) ∧
      (m.g.splits = [m.k] → m.g.retired = false → (∃ y ∈ x.groups, y.idx ≠ m.g.idx ∧ y.retired = false ∧ y.arrived ≠ some x.phase) →
        idx = m.g.idx →
        Completes (.sync h) s (({ m.of (.sync h) with
          g := { m.g with arrived := some x.phase }, k := { m.k with state := .blocked, wait := .sync x.phase } } : Issue).commit.dropRun)))) ∧
  (∀ (h : Hd) (a b : RegNo) (s : State) (m : Issue) (core base size : Nat), (s.who m.g).sp = some (core, base, size) →
    let off := (m.sget a.toNat).toNat
    let n := (m.sget b.toNat).toNat
    let places := fun (i : Instr) (arrive : Bool) => Issues i h s m →
      (off % 16 ≠ 0 → Completes i s ((m.of i).raise .align 3 off)) ∧
      (off % 16 = 0 → size < off + 16 → Completes i s ((m.of i).raise .prot 3 off)) ∧
      (off % 16 = 0 → off + 16 ≤ size → 2 ^ 24 ≤ n → Completes i s ((m.of i).raise .prot 3 0)) ∧
      (off % 16 = 0 → off + 16 ≤ size → n < 2 ^ 24 → ∃ e : Entry,
        e.kind = .barrier arrive n ∧ e.key = spKey core (base + off) ∧ e.n = 16 ∧ e.pos = m.g.nextPos ∧
        e.order = (if arrive then .rel else .rlx) ∧ e.scope = .core ∧
        Completes i s ({ m.of i with g := { m.g with queue := m.g.queue ++ [e], nextPos := m.g.nextPos + 1 } } : Issue).done)
    places (.bbi h a b) false ∧ places (.bba h a b) true ∧
    (Issues (.bbw h a) h s m →
      (off % 16 ≠ 0 → Completes (.bbw h a) s ((m.of (.bbw h a)).raise .align 1 off)) ∧
      (off % 16 = 0 → size < off + 16 → Completes (.bbw h a) s ((m.of (.bbw h a)).raise .prot 1 off)) ∧
      (off % 16 = 0 → off + 16 ≤ size →
        let read := m.g.loadNow s (spKey core (base + off)) 3 true
        (m.g.queue = [] → read = some (s.viewHome m.g.host (spKey core (base + off)) 3, s.readHome (spKey core (base + off)) 3)) ∧
        (read = none → Completes (.bbw h a) s (m.of (.bbw h a)).stall) ∧
        ∀ s1 bs, read = some (s1, bs) →
          let n : Issue := { m.of (.bbw h a) with s := s1 }
          (leNat bs = 0 → Completes (.bbw h a) s n.done) ∧
          (leNat bs ≠ 0 → s1.lateFor (qidOf m.ag) m.g.host (.barrier off) = [] → Completes (.bbw h a) s
            (({ n with k := { m.k with state := .blocked, wait := .barrier off } } : Issue).commit.dropRun)) ∧
          (leNat bs ≠ 0 → s1.lateFor (qidOf m.ag) m.g.host (.barrier off) ≠ [] → Completes (.bbw h a) s
            (({ n with s := s1.markPromised ((s1.lateFor (qidOf m.ag) m.g.host (.barrier off)).map (·.id)) } : Issue).raise
              .promise 6 0))))) ∧
  (∀ (h : Hd) (a b : RegNo) (s : State) (m : Issue), (s.who m.g).sp = none → ∀ i ∈ [Instr.bbi h a b, .bba h a b, .bbw h a],
    Issues i h s m → Completes i s (m.of i).stall)

/-! ## Memory -/

/-- The checks of an access (R158-R161, R165, R168, R170, R180), over the active lanes in order. First ALIGN over all, with the
address of the first lane that breaks it. Then in the scratchpad, the Quay window and the weight store the first lane that reaches
beyond the region, the Quay area or the store (of which programs write nothing) raises PROT with its address; where the context asks
for it the first poisoned byte that a lane reads raises POISON with that byte's address; and else the byte is that of the region,
area or store at its base plus the address. In the global space the lanes are checked one after the other, the first that fails
giving the cause: PROT for an address beyond 56 bits, PAGE where the tables that the core uses map nothing, PROT for a store to a
page without write permission, and for memory that is not the context's or a module that the link map does not reach, POISON, and
else the byte of the page; a page found for one lane serves every later one. In the pod space a device id that the link map does not
reach raises PROT with address 0; the module's own id is its global space; on a peer PROT where no context has the PODTAG, or the tag
is 0, else by the tables of that context, PROT for an atomic on a page with TARGET other than 00 and for memory of this module that
is not the context's.
(What it rests on that is the model's choice: log 11, 31, 38, 87, 96, 111.) -/
def Obligations.AccessChecks : Prop :=
  ∀ (m : Issue) (id : Word) (n : Nat) (rd wr at' : Bool) (accs : List (Nat × Nat)), 0 < n →
    let w := m.s.who m.g
    let x := m.ctx
    let run := fun (space : Space) => m.checks space id n rd wr at' (fun _ _ => true) accs
    let aligned := ∀ y ∈ accs, y.2 % n = 0
    let flat := fun (space : Space) (size : Nat) (key : Nat → Nat) => aligned →
      let beyond := fun (y : Nat × Nat) => decide (size < y.2 + n)
      let poison := fun (y : Nat × Nat) => if rd && x.poisonTrap then m.s.firstPoison (key y.2) n else none
      ((∀ y ∈ accs, y.2 + n ≤ size ∧ poison y = none) →
        run space = ({ s := m.s, memo := [] }, .ok (accs.map fun y => (y.1, ⟨key y.2, 0⟩)))) ∧
      (∀ y, accs.find? (fun z => beyond z || (poison z).isSome) = some y →
        (size < y.2 + n → (run space).2 = .error ⟨.prot, y.2⟩) ∧
        (∀ k, y.2 + n ≤ size → poison y = some k → (run space).2 = .error ⟨.poison, y.2 + (k - key y.2)⟩))
    (∀ space y, accs.find? (fun y => y.2 % n != 0) = some y → (run space).2 = .error ⟨.align, y.2⟩) ∧
    (∀ core base size, w.sp = some (core, base, size) → flat .sp size fun a => spKey core (base + a)) ∧
    flat .qw (x.qaSize * 4096) (fun a => quayKey (x.qaBase * 4096 + a)) ∧
    (wr = false → flat .ws (x.wsSize * 2 ^ 21) fun a => wsKey (x.wsBase * 2 ^ 21 + a)) ∧
    (wr = true → ∀ y r, accs = y :: r → aligned → (run .ws).2 = .error ⟨.prot, y.2⟩) ∧
    (aligned → run .gv = Chk.all { s := m.s, memo := [] } (fun c a => c.loc w .gv a n rd wr) accs) ∧
    (aligned → m.s.reaches id = false → (run .rm).2 = .error ⟨.prot, 0⟩) ∧
    (aligned → m.s.reaches id = true →
      run .rm = Chk.all { s := m.s, memo := [] } (fun c a => c.pod w id a n rd wr at') accs) ∧
    (∀ (c : Chk) (f : Chk → Nat → Chk × Except Bad Loc) (y : Nat × Nat) (r : List (Nat × Nat)),
      c.all f [] = (c, .ok []) ∧
      (∀ c1 b, f c y.2 = (c1, .error b) → (c.all f (y :: r)).2 = .error b) ∧
      (∀ c1 l, f c y.2 = (c1, .ok l) → (∀ b, (c1.all f r).2 = .error b → (c.all f (y :: r)).2 = .error b) ∧
        ∀ ls, (c1.all f r).2 = .ok ls → (c.all f (y :: r)).2 = .ok ((y.1, l) :: ls))) ∧
    (∀ (c : Chk) (a : Nat),
      (∀ p, c.memo.find? (fun q => decide (q.va ≤ a) && decide (a < q.va + q.size)) = some p → c.page w a = (c, some p)) ∧
      (c.memo.find? (fun q => decide (q.va ≤ a) && decide (a < q.va + q.size)) = none →
        (c.page w a).2 = (c.s.translate w.core w.ctx a).2 ∧ (c.page w a).1.s = (c.s.translate w.core w.ctx a).1) ∧
      (2 ^ 56 ≤ a → (c.loc w .gv a n rd wr).2 = .error ⟨.prot, a⟩ ∧ (c.pod w id a n rd wr at').2 = .error ⟨.prot, a⟩) ∧
      (a < 2 ^ 56 → ∀ c1, c.page w a = (c1, none) → (c.loc w .gv a n rd wr).2 = .error ⟨.page, a⟩) ∧
      (a < 2 ^ 56 → ∀ c1 p, c.page w a = (c1, some p) →
        let key := c1.s.keyAt p (a - p.va)
        let bad := if rd && (c1.s.ctx w.ctx).poisonTrap then c1.s.firstPoison key n else none
        ((wr = true ∧ p.w = false) ∨ c1.s.pageOpen w.ctx p (a - p.va) n = false →
          (c.loc w .gv a n rd wr).2 = .error ⟨.prot, a⟩) ∧
        ((wr = true → p.w = true) → c1.s.pageOpen w.ctx p (a - p.va) n = true →
          (∀ k, bad = some k → (c.loc w .gv a n rd wr).2 = .error ⟨.poison, a + (k - key)⟩) ∧
          (bad = none → c.loc w .gv a n rd wr = (c1, .ok ⟨key, p.target⟩)))) ∧
      (a < 2 ^ 56 → id.setWidth 10 = c.s.devid → c.pod w id a n rd wr at' = c.loc w .gv a n rd wr) ∧
      (a < 2 ^ 56 → id.setWidth 10 ≠ c.s.devid → let tag := (c.s.ctx w.ctx).podTag
        (tag = 0 ∨ (∀ q ∈ c.s.peers, q.dev = id.toNat → q.tag ≠ tag) → (c.pod w id a n rd wr at').2 = .error ⟨.prot, a⟩) ∧
        (∀ q, tag ≠ 0 → c.s.peers.find? (fun q => q.dev == id.toNat && q.tag == tag) = some q →
          (c.s.walkPeer id.toNat q.ttroot.toNat a = .fault → (c.pod w id a n rd wr at').2 = .error ⟨.page, a⟩) ∧
          (∀ b z pte, c.s.walkPeer id.toNat q.ttroot.toNat a = .page b z pte →
            let p := pageOf b z pte
            let key := c.s.remoteKey id.toNat p.target p.peer (p.pa + (a - b))
            let bad := if rd && (c.s.ctx w.ctx).poisonTrap then c.s.firstPoison key n else none
            let closed := p.target ≠ 0 ∧ p.target ≠ 1 ∧ p.peer = c.s.devid.toNat ∧ c.s.ownMemory w.ctx (p.pa + (a - b)) n = false
            ((wr = true ∧ p.w = false) ∨ (at' = true ∧ p.target ≠ 0) ∨ closed → (c.pod w id a n rd wr at').2 = .error ⟨.prot, a⟩) ∧
            ((wr = true → p.w = true) → (at' = true → p.target = 0) → ¬closed →
              (∀ k, bad = some k → (c.pod w id a n rd wr at').2 = .error ⟨.poison, a + (k - key)⟩) ∧
              (bad = none → c.pod w id a n rd wr at' = (c, .ok ⟨key, p.target⟩)))))))

/-- LD in its three forms, LDS and LDL. With no active lane, and for LDL always, nothing happens but the advance of the PC. A
failed check raises its cause with ACCESS 1. Where the checks pass, one load entry for each access, all at one queue position,
joins the queues with the bytes of its location, its type, order and scope, and the destination of its lane, the loads counter
rises by one, `.poll` demotes the split (and counts as a
demotion, R313), and the instruction completes; where the counter stands at its end the run stalls. -/
def Obligations.Loads : Prop :=
  ∀ (h : Hd) (a : MemAttr) (ty : Ty) (d x b0 : Opnd) (b : SrcB) (s : State) (m : Issue),
    let loads := fun (i : Instr) (id : Word) (accs : List (Nat × Nat)) (dest : Nat → Dest) => Issues i h s m →
      (accs = [] → Completes i s (m.of i).done) ∧
      (accs ≠ [] → let c := (m.of i).checks a.space id (tyBytes ty) true false false (fun _ _ => true) accs
        (∀ e, c.2 = .error e → Completes i s ((m.of i).fail c.1.s e 1)) ∧
        (∀ ls, c.2 = .ok ls →
          (65535 ≤ m.g.loads → Completes i s (m.of i).stall) ∧
          (m.g.loads < 65535 → ∃ n : Issue,
            Entered ({ m.of i with s := c.1.s } : Issue) n a .loads (fun pos => ls.map fun l =>
              { pos := pos, split := m.k.no, kind := .load, key := l.2.key, n := tyBytes ty, data := [], ty := ty, dest := dest l.1
                order := if a.order = .sc then .acq else a.order, scope := a.scope
                poll := a.poll || a.space = .rm || l.2.target = 2, cls := some .loads, fence := 0, isFence := false, whole := [] }) ∧
            (a.poll = false → Completes i s n.done) ∧
            (a.poll = true → Completes i s
              ({ n with s := c.1.s.count (m.g.host / 8) (some m.g.ctx) 4 1, k := { n.k with demoted := true } } : Issue).done))))
    let upper := m.reg d + if tyBits ty = 64 then 1 else 0
    let lanes := fun (l : Nat) => Dest.vec (absSlot m.k.base (m.reg d)) (absSlot m.k.base upper) l
    let scalar := fun (_ : Nat) => Dest.scal (m.sreg (m.reg d)) (m.sreg upper)
    loads (.ldVA h a ty d x b) 0 (m.addrV a.space x b) lanes ∧
    loads (.ldSA h a ty d x b) (m.podId x) (m.addrS a.space ty x b) lanes ∧
    loads (.ldSAVB h a ty d x b0) (m.podId x) (m.addrSV a.space x b0) lanes ∧
    loads (.lds h a ty d x b) (m.podId x) (m.addr1 a.space x b) scalar ∧
    (Issues (.ldl h a x b) h s m → Completes (.ldl h a x b) s (m.of (.ldl h a x b)).done)

/-- ST in its two forms and STS. With no active lane nothing happens but the advance of the PC; a failed check raises its
cause with ACCESS 2; where the checks pass, a store entry for each location, holding the low bytes of the value of the highest
lane that writes it, with its order, its scope and the group's cumulative bound (R200), joins the queues, the stores counter rises by one, and the instruction completes. -/
def Obligations.Stores : Prop :=
  ∀ (h : Hd) (a : MemAttr) (ty : Ty) (d x : Opnd) (b : SrcB) (s : State) (m : Issue),
    let stores := fun (i : Instr) (id : Word) (accs : List (Nat × Nat)) (v : Nat → DWord) => Issues i h s m →
      (accs = [] → Completes i s (m.of i).done) ∧
      (accs ≠ [] → let c := (m.of i).checks a.space id (tyBytes ty) false true false (fun _ _ => true) accs
        (∀ e, c.2 = .error e → Completes i s ((m.of i).fail c.1.s e 2)) ∧
        (∀ ls, c.2 = .ok ls →
          (65535 ≤ m.g.stores → Completes i s (m.of i).stall) ∧
          (m.g.stores < 65535 → ∃ (n : Issue) (last : List (Nat × Loc)),
            (∀ l, l ∈ last → l ∈ ls) ∧ (last.map (·.2.key)).Nodup ∧ (∀ l ∈ ls, ∃ x ∈ last, x.2.key = l.2.key) ∧
            ((ls.map (·.1)).Pairwise (· < ·) → ∀ x ∈ last, ∀ l ∈ ls, l.2.key = x.2.key → l.1 ≤ x.1) ∧
            Entered ({ m.of i with s := c.1.s } : Issue) n a .stores (fun pos => last.map fun l =>
              { pos := pos, split := m.k.no, kind := .store, key := l.2.key, n := tyBytes ty, data := valueBytes (tyBytes ty) (v l.1)
                ty := ty, dest := .none, order := if a.order = .sc then .rel else a.order, scope := a.scope, poll := false
                cls := some .stores, fence := m.g.fence, isFence := false, whole := coveredLines (tyBytes ty) ls }) ∧
            Completes i s n.done)))
    stores (.stVA h a ty d x b) 0 (m.addrV a.space x b) (m.vval ty (m.reg d)) ∧
    stores (.stSA h a ty d x b) (m.podId x) (m.addrS a.space ty x b) (m.vval ty (m.reg d)) ∧
    stores (.sts h a ty d x b) (m.podId x) (m.addr1 a.space x b) (fun _ => m.sval ty (m.reg d))

/-- ATOM and RATOM in their two forms each: the same with ACCESS 3, the loads counter, and atomic entries that hold the location,
the operation, its operands, its order and scope, and the destination of its lane; RATOM names its module in S[C] and takes the second operand of a compare-and-swap from behind the
first.
(What it rests on that is the model's choice: log 106.) -/
def Obligations.Atomics : Prop :=
  ∀ (h : Hd) (o : AtomOp) (a : MemAttr) (ty : Ty) (d x b c : Opnd) (s : State) (m : Issue),
    let atoms := fun (i : Instr) (id : Word) (accs : List (Nat × Nat)) (dest : Nat → Dest) (v w : Nat → DWord) => Issues i h s m →
      (accs = [] → Completes i s (m.of i).done) ∧
      (accs ≠ [] → let c := (m.of i).checks a.space id (tyBytes ty) true true true (fun s l => s.atomicOk o ty l) accs
        (∀ e, c.2 = .error e → Completes i s ((m.of i).fail c.1.s e 3)) ∧
        (∀ ls, c.2 = .ok ls →
          (65535 ≤ m.g.loads → Completes i s (m.of i).stall) ∧
          (m.g.loads < 65535 → ∃ n : Issue,
            Entered ({ m.of i with s := c.1.s } : Issue) n a .loads (fun pos => ls.map fun l =>
              { pos := pos, split := m.k.no, kind := .atomic o (v l.1) (w l.1), key := l.2.key, n := tyBytes ty, data := [], ty := ty
                dest := dest l.1, order := if a.order = .sc then .ar else a.order, scope := a.scope, poll := false
                cls := some .loads, fence := m.g.fence, isFence := false, whole := [] }) ∧
            Completes i s n.done)))
    let upper := m.reg d + if tyBits ty = 64 then 1 else 0
    let lanes := fun (l : Nat) => Dest.vec (absSlot m.k.base (m.reg d)) (absSlot m.k.base upper) l
    let scalar := fun (_ : Nat) => Dest.scal (m.sreg (m.reg d)) (m.sreg upper)
    atoms (.atomV h o a ty d x b c) 0 (m.active.map fun l => (l, (m.baseV a.space (m.reg x) l).toNat)) lanes
      (m.vval ty (m.reg b)) (m.vval ty (m.reg c)) ∧
    atoms (.atomS h o a ty d x b c) 0 [(0, (m.baseS a.space (m.reg x)).toNat)] scalar
      (fun _ => m.sval ty (m.reg b)) (fun _ => m.sval ty (m.reg c)) ∧
    atoms (.ratomV h o a ty d x b c) (m.sget (m.reg c)) (m.active.map fun l => (l, (m.vval .n64 (m.reg x) l).toNat))
      lanes (m.vval ty (m.reg b)) (m.vval ty (m.reg b + tyRegs ty)) ∧
    atoms (.ratomS h o a ty d x b c) (m.sget (m.reg c)) [(0, (m.sget2 (m.reg x)).toNat)] scalar
      (fun _ => m.sval ty (m.reg b)) (fun _ => m.sval ty (m.reg b + tyRegs ty))

/-- What a load, store or atomic leaves at its issue, where its checks pass: no byte of memory changes at its home (a store reaches
memory when it drains: Obligations.DrainedStores) and no other core's view of one (the walks of its translation are loads of its own
core, R164), no register half, no mask, no flag and no special register changes, and the queues keep what they held, with new
entries behind it. -/
def Obligations.MemoryIssueFrame : Prop :=
  ∀ (i : Instr) (h : Hd) (a : MemAttr) (s : State) (m : Issue), Issues i h s m →
    (∃ ty d x b, i = .ldVA h a ty d x b ∨ i = .ldSA h a ty d x b ∨ i = .lds h a ty d x b ∨ i = .stVA h a ty d x b ∨
      i = .stSA h a ty d x b ∨ i = .sts h a ty d x b) ∨
    (∃ ty d x b, i = .ldSAVB h a ty d x b) ∨
    (∃ o ty d x b c, i = .atomV h o a ty d x b c ∨ i = .atomS h o a ty d x b c ∨ i = .ratomV h o a ty d x b c ∨
      i = .ratomS h o a ty d x b c) →
    ∃ t, Completes i s t ∧ SameBytes s t ∧
      (∀ core key n, core ≠ m.g.host → t.readView core key n = s.readView core key n) ∧
      (∀ g k, t.group? (qidOf m.ag) = some g → g.split? m.k.no = some k → k.state ≠ .trapped → k.inHandler = m.k.inHandler →
        k.state ≠ .sleeping →
        g.globals = m.g.globals ∧ g.ring = m.g.ring ∧ g.fpflags = m.g.fpflags ∧ g.fpmode = m.g.fpmode ∧ g.tbase = m.g.tbase ∧
        g.acc = m.g.acc ∧ g.stack = m.g.stack ∧ k.mask = m.k.mask ∧ SplitStands m.k k ∧ ∃ es, g.queue = m.g.queue ++ es)

/-- DRAIN of the i-th entry of a group's queues, a store entry that may be taken and names no line of a page in flight that has
not moved (R179): its bytes are at their home and no other byte of memory changes, whatever memory it is: device memory that exists,
a scratchpad, host memory or a peer's; in the Quay window a reserved byte keeps what it held (R300), and a byte beside the device
memory that exists is dropped (log 32). A byte off the entry that is not on a poisoned line reads as before; the entry leaves the queues. Where
the entry may not be taken, or names such a line, nothing happens. A store to a page in flight whose lines have moved writes the same
bytes at the page's destination with the same step (R179), and no byte beside. The addresses are those that the store's checks gave the
entry; no decision is present where the group's other registers are spoken of.
(What it rests on that is the model's choice: log 32, 67.) -/
def Obligations.DrainedStores : Prop :=
  ∀ (q : QId) (i : Nat) (s : State) (g : Group) (e : Entry), s.group? q = some g → g.queue[i]? = some e → e.kind = .store →
    (mayStep g.queue i = false ∨ s.inFlightAt e.key e.n = true → Completes (.drain q i) s s) ∧
    (mayStep g.queue i = true → s.inFlightAt e.key e.n = false → Memory.wf s.mem = true → ∀ page : Option Migration,
      (∀ x ∈ s.migrations, page = some x ∨ e.key + e.data.length ≤ x.src ∨ x.src + x.size ≤ e.key) →
      (∀ x, page = some x → x ∈ s.migrations ∧ x.src ≤ e.key ∧ e.key + e.data.length ≤ x.src + x.size ∧ e.data.length ≤ e.n ∧
        (x.src + x.size ≤ x.dst ∨ x.dst + x.size ≤ x.src)) →
      let lands := fun (a : Nat) => e.key ≤ a ∧ a < e.key + e.data.length ∧ stored e.key = true ∧
        (e.key / 2 ^ 60 = 1 → s.quayHole a = false)
      let copies := fun (a j : Nat) => j < e.data.length ∧ stored e.key = true ∧ stored a = true ∧
        ∃ x, page = some x ∧ a = x.dst + (e.key - x.src) + j
      ∃ t, Completes (.drain q i) s t ∧
        (∀ a, lands a → cellGet t.mem a = e.data.getD (a - e.key) 0) ∧ (∀ a j, copies a j → cellGet t.mem a = e.data.getD j 0) ∧
        (∀ a, ¬lands a → (∀ j, ¬copies a j) → cellGet t.mem a = cellGet s.mem a ∧
          (s.poisonAt a = false → t.readHome a 1 = s.readHome a 1)) ∧
        ((s.core g.lcore).dq = [] → ∃ g1, t.group? q = some g1 ∧ g1.queue = g.queue.eraseIdx i ∧ g1.globals = g.globals ∧
          g1.ring = g.ring))

/-- LOAD_STEP of the i-th entry, a load that may be taken: the value, each byte from the youngest older store of the queue that
covers it, else from memory (the core's view of device memory, the home of any other and where the load is performed there),
reaches its destination, sign-extended for i8 and i16; the entry leaves; no byte of memory changes. ATOMIC_STEP: the home is read
and written as one step with what the operation makes of the old value and the operand (R321), the old value reaches the
destination, a compare-and-swap that stores nothing demotes its split (R322); a poisoned line returns the marker and stays as it is
(R180). The step of a BBI sets PEND and INIT and clears UNDER; that of a BBA
takes its count from PEND, or sets UNDER and PEND to 0 where the count is greater, and the gang's waits on the barrier look again
(R191, R326). FENCE_MARK_LEAVE: a mark with nothing left to wait for leaves, with its Export, its Import and its catch-up of the
core's view, and after a release at device, system or pod scope later stores are cumulative over every store before the step (R200).
PROPAGATE: a store to device memory later than a core's view of one of its bytes moves into that view, its bytes with it.
(What it rests on that is the model's choice: log 51, 85.) -/
def Obligations.QueueSteps : Prop :=
  ∀ (q : QId) (i core seq : Nat) (s : State) (g : Group) (e : Entry),
    (s.group? q = some g → g.queue[i]? = some e → mayStep g.queue i = true →
      (e.kind = .load →
        let r := s.loadStep g.host (g.queue.take i) e.pos e.key e.n e.poll
        let t := ((r.1.setGroup q (g.deliver e.dest e.ty (element e.ty r.2))).leave q i e)
        Completes (.loadStep q i) s t ∧ (∀ a, cellGet t.mem a = cellGet s.mem a) ∧
        ∀ j, j < e.n → r.2[j]? = some (match (g.queue.take i).reverse.find? fun o =>
            o.isStore && decide (o.pos < e.pos) && decide (o.key ≤ e.key + j) && decide (e.key + j < o.key + o.n) with
          | some o => o.data.getD (e.key + j - o.key) 0
          | none => (if viewed e.key = true ∧ e.poll = false then s.readView g.host e.key e.n
              else s.readHome e.key e.n).getD j 0)) ∧
      (s.inFlightAt e.key e.n = false →
        (∀ o x y, e.kind = .atomic o x y →
          let w := tyBits e.ty
          let r := s.atomic (some g.host) o e.ty e.key x y (s.releaseSet e)
          let t := (r.1.setGroup q (g.deliver e.dest e.ty (BitVec.ofNat 64 r.2.1))).leave q i e
          let writes := fun (v : Nat) =>
            r.1 = (s.viewHome g.host e.key (tyBytes e.ty)).storeHome (some g.host) e.key (leBytes (tyBytes e.ty) v) (s.releaseSet e)
          Completes (.atomicStep q i) s (if r.2.2 then t else t.demote q e) ∧ (e.told = true → t.demote q e = t) ∧ r.2.1 = s.homeNat e.key (tyBytes e.ty) ∧
          (s.firstPoison e.key (tyBytes e.ty) ≠ none → (r.2.2 = true ↔ o ≠ .cas) ∧ ∀ a, cellGet r.1.mem a = cellGet s.mem a) ∧
          (s.firstPoison e.key (tyBytes e.ty) = none → w = 32 ∨ w = 64 → w = 8 * tyBytes e.ty →
            (o = .cas → r.2.1 ≠ x.toNat % 2 ^ w → r.2.2 = false ∧ ∀ a, cellGet r.1.mem a = cellGet s.mem a) ∧
            (o = .cas → r.2.1 = x.toNat % 2 ^ w → r.2.2 = true ∧ writes (y.toNat % 2 ^ w)) ∧
            (o ≠ .cas → r.2.2 = true) ∧
            (o = .exch → writes (x.toNat % 2 ^ w)) ∧
            (tyFloat e.ty = false → let old := BitVec.ofNat 64 r.2.1
              (o = .min → writes ((if val e.ty old ≤ val e.ty x then old else x).toNat % 2 ^ w)) ∧
              (o = .max → writes ((if val e.ty x ≤ val e.ty old then old else x).toNat % 2 ^ w)) ∧
              (o = .and → writes ((old &&& x).toNat % 2 ^ w)) ∧ (o = .or → writes ((old ||| x).toNat % 2 ^ w)) ∧
              (o = .xor → writes ((old ^^^ x).toNat % 2 ^ w))) ∧
            (o = .add → tyFloat e.ty = false → writes ((r.2.1 + x.toNat) % 2 ^ w)) ∧
            (o = .add → e.ty = .f32 → writes (arith2 .add .f32 0 .ne (BitVec.ofNat 64 r.2.1) (BitVec.ofNat 64 (x.toNat % 2 ^ w))).1.toNat))) ∧
        (∀ arrive n, e.kind = .barrier arrive n →
          let gang := if arrive then s.regionGang e.key else none
          (∀ x, gang = some x → Completes (.atomicStep q i) s
            (((((s.raiseOverdue x.uid).viewHome g.host e.key e.n).barrierWrite e.key true n (s.releaseSet e)).leave q i e).wakeBarrier x.uid (e.key - spKey x.host x.spBase))) ∧
          (gang = none → Completes (.atomicStep q i) s (((s.viewHome g.host e.key e.n).barrierWrite e.key arrive n (s.releaseSet e)).leave q i e)) ∧
          (∀ j, j < e.n → ∀ hs, latestStore s.homes (e.key + j) s.nextSeq = some hs → hs.rel ≤ ((s.viewHome g.host e.key e.n).core g.host).view.floor + 1))) ∧
      (∀ exp imp catchup, e.kind = .mark exp imp catchup → s.markWaits q g e imp = false →
        let s1 := if exp then s.exportStep g.ctx else s
        let s2 := if imp then s1.importStep (some g.host) else s1
        let s3 := if catchup then s2.catchUp g.host else s2
        let bound := if orderRel e.order && (e.scope == .dev || e.scope == .sys || e.scope == .pod) then s.nextSeq else g.fence
        Completes (.fenceMarkLeave q i) s ((s3.setGroup q { g with fence := bound }).leave q i e) ∧
        (catchup = true → ∀ key, (s3.core g.host).view.bound key = s2.nextSeq - 1) ∧
        (imp = true → s2.pending = []))) ∧
    (∀ c off n rel, c < 320 → off % 16 = 0 → off + 16 ≤ 2 ^ 18 → n < 2 ^ 24 → Memory.wf s.mem = true → s.migrations = [] →
      s.poisonAt (spKey c off) = false →
      let k := spKey c off
      let pend := s.homeNat k 3
      let t0 := s.barrierWrite k false n rel
      let t1 := s.barrierWrite k true n rel
      t0.homeNat k 3 = n ∧ t0.homeNat (k + 8) 3 = n ∧ bitOf (t0.homeNat k 4) 31 = false ∧
      t1.homeNat k 3 = (if n ≤ pend then pend - n else 0) ∧
      bitOf (t1.homeNat k 4) 31 = (bitOf (s.homeNat k 4) 31 || decide (pend < n))) ∧
    (∀ hs, s.homes.find? (fun x => x.seq == seq) = some hs →
      (∃ c ∈ hs.cells, viewed c.1 = true ∧ ((s.core core).view.bound c.1) < seq) →
      Completes (.propagate core seq) s (s.propagate core hs) ∧
      ∀ c ∈ hs.cells, viewed c.1 = true → seq ≤ ((s.propagate core hs).core core).view.bound c.1)

/-- FENCE and FLUSH place a mark of their order and scope behind what the queues hold, and the run stalls; once no mark of the
split stands in the queues the instruction completes. TLBINV waits for the older stores and atomics of the group, then drops the
cached translations of the context, of one page or all, and what the walk caches hold on the path, on its core or on every core;
ICINV empties the instruction cache of its core, and with `.lb` marks the captured loops of every group that the core hosts, and of
its front, for discard. Both
complete in sequence: the PC moves past the instruction where no loop level ends there, the mask, every register half, every flag and
every byte of memory stand.
(What it rests on that is the model's choice: log 44, 80.) -/
def Obligations.MarksAndInvalidations : Prop :=
  (∀ (h : Hd) (o : Order) (sc : Scope) (fm : FlushMode) (s : State) (m : Issue),
    let marks := fun (i : Instr) (o : Order) (sc : Scope) => Issues i h s m →
      (m.k.hold ≠ .fence → ∃ e : Entry, e.isMark = true ∧ e.order = o ∧ e.scope = sc ∧ e.pos = m.g.nextPos ∧ e.split = m.k.no ∧
        Completes i s (({ m.of i with g := { m.g with queue := m.g.queue ++ [e], nextPos := m.g.nextPos + 1 }
                                      k := { m.k with hold := .fence } } : Issue).stallKeep)) ∧
      (m.k.hold = .fence → (∀ e ∈ m.g.queue, e.isFence = true → e.split ≠ m.k.no) →
        Completes i s ({ m.of i with k := { m.k with hold := .none } } : Issue).done) ∧
      (m.k.hold = .fence → (∃ e ∈ m.g.queue, e.isFence = true ∧ e.split = m.k.no) → Completes i s (m.of i).stall)
    marks (.fence h o sc) o sc ∧
    marks (.flush h fm sc) (match fm with | .wb => .rel | .inv => .acq | .wbi => .ar) sc) ∧
  (∀ (h : Hd) (page lb : Bool) (sc : Scope) (a : RegNo) (s : State) (m : Issue),
    (Issues (.tlbinv h page sc a) h s m →
      ((m.g.queue.any fun e => e.isStore || e.isAtomic) = true → Completes (.tlbinv h page sc a) s (m.of (.tlbinv h page sc a)).stall) ∧
      ((m.g.queue.any fun e => e.isStore || e.isAtomic) = false → ∃ t g k, Completes (.tlbinv h page sc a) s t ∧ SameMemory s t ∧
        t.group? (qidOf m.ag) = some g ∧ { g with splits := m.g.splits } = m.g ∧ OthersSame (qidOf m.ag) s t ∧
        g.split? m.k.no = some k ∧ k.mask = m.k.mask ∧ SplitStands m.k k ∧
        ((∀ l ∈ m.k.levels, l.last ≠ m.k.pc) → k.pc = m.k.pc + BitVec.ofNat 64 (4 * lenWords h.len)) ∧
        ∀ c ∈ t.cores, (sc = .dev ∨ c.idx = m.g.host) →
          (∀ e ∈ c.tlb, e.ctx = m.g.ctx →
            page = true ∧ ((m.sget2 a.toNat).toNat < e.va ∨ e.va + e.size ≤ (m.sget2 a.toNat).toNat)) ∧
          (∀ e ∈ c.walks, e.ctx = m.g.ctx → page = true ∧ e.tag ≠ (m.sget2 a.toNat).toNat >>> e.sh))) ∧
    (Issues (.icinv h lb) h s m →
      ∃ t g k, Completes (.icinv h lb) s t ∧ SameBytes s t ∧ (t.core m.g.host).icache = [] ∧
        t.group? (qidOf m.ag) = some g ∧ { g with splits := m.g.splits } = m.g ∧
        g.split? m.k.no = some k ∧ k.mask = m.k.mask ∧ SplitStands m.k k ∧
        ((∀ l ∈ m.k.levels, l.last ≠ m.k.pc) → k.pc = m.k.pc + BitVec.ofNat 64 (4 * lenWords h.len) ∧
          k.levels = if lb then m.k.levels.map fun l => { l with discard := true } else m.k.levels) ∧
        (lb = true → (∀ y ∈ g.splits, y.no ≠ m.k.no → ∀ l ∈ y.levels, l.discard = true) ∧
          ∀ q z, q ≠ qidOf m.ag → t.group? q = some z →
            (match q with
              | .front c => c = m.g.host
              | .group gang _ => ∃ x, s.gang? gang = some x ∧ x.host = m.g.host) →
            ∃ z0, s.group? q = some z0 ∧ { z with splits := z0.splits } = z0 ∧
              z.splits = z0.splits.map fun k => { k with levels := k.levels.map fun l => { l with discard := true } })))

/-! ## Queues and decisions -/

/-- DEQ of a bound, enabled queue blocks at the gatherer as its last arrival, and in a QUIESCENT job receives the end token: mask
and entry pair zero; in a group with several splits it raises CONVERGENCE, on any other queue PROT. EMIT, and ENQ with records of
the scratchpad, behind their checks: on a queue with room, no older store or load being left, the reservation is made at once and the instruction
goes on, ENQ with the first number in its pair; without room a group's split holds its reservation and a front stalls; a host
queue, more records than the capacity, or a bad entry point raises PROT. A reservation is made where the queue has room and the
queues of the reserver's group hold no store, load or atomic older than the instruction; record n is stored at BASE + 64 * (n mod capacity), as a cumulative release, and then
TAIL, which was the first number, stands beyond the records (R42-R44, R345, R346).
(What it rests on that is the model's choice: log 10, 50, 89.) -/
def Obligations.QueueInstructions : Prop :=
  (∀ (h : Hd) (d a b : RegNo) (cnt : BitVec 3) (s : State) (m : Issue) (q : Nat) (hd : QHead),
    let good := fun r => entryPoint r ≠ 0 ∧ entryPoint r % 4 = 0 ∧ entryPoint r < 2 ^ 56
    (Issues (.deq h d a b) h s m →
      (1 < m.g.splits.length → Completes (.deq h d a b) s ((m.of (.deq h d a b)).raise .convergence 0 0)) ∧
      (m.g.splits.length ≤ 1 → m.queueOf (m.sget a.toNat) = none →
        Completes (.deq h d a b) s ((m.of (.deq h d a b)).raise .prot 0 0)) ∧
      (m.g.splits.length ≤ 1 → m.queueOf (m.sget a.toNat) = some (q, hd) →
        ((s.jobOf m.g).map (·.state) ≠ some .quiescent → Completes (.deq h d a b) s
          (({ m.of (.deq h d a b) with s := { s with nextUid := s.nextUid + 1 }
                                       k := { m.k with state := .blocked, wait := .deq s.nextUid q d.toNat b.toNat } } :
            Issue).commit.dropRun)) ∧
        ((s.jobOf m.g).map (·.state) = some .quiescent → Completes (.deq h d a b) s
          ({ ((((((m.of (.deq h d a b)).sput 0 0).sput 1 0).sput 2 0).sput b.toNat 0).sput (b.toNat + 1) 0) with mf := true } :
            Issue).done))) ∧
    (Issues (.emit h a b) h s m →
      let recs := m.active.map fun l =>
        ((List.range 16).map fun w => leBytes 4 (lane (m.vget (b.toNat + w)) l).toNat).flatten
      (m.active = [] → Completes (.emit h a b) s (m.of (.emit h a b)).done) ∧
      (m.active ≠ [] → m.queueOf (m.sget a.toNat) = none →
        Completes (.emit h a b) s ((m.of (.emit h a b)).raise .prot 2 0)) ∧
      (m.active ≠ [] → m.queueOf (m.sget a.toNat) = some (q, hd) →
        (hd.hostp = true ∨ hd.cap < m.active.length ∨ (∃ r ∈ recs, ¬good r) →
          Completes (.emit h a b) s ((m.of (.emit h a b)).raise .prot 2 0)) ∧
        (hd.hostp = false → m.active.length ≤ hd.cap → (∀ r ∈ recs, good r) →
          (∀ s1 n, s.reserve m.g m.g.nextPos q recs = .done s1 n →
            Completes (.emit h a b) s ({ m.of (.emit h a b) with s := s1 } : Issue).done) ∧
          (hd.cap < hd.count + m.active.length →
            Completes (.emit h a b) s (({ m.of (.emit h a b) with k := { m.k with pos := m.g.nextPos } } : Issue).holdAt
              (.reserve q recs none)))))) ∧
    (Issues (.enq h d a b cnt) h s m → ∀ core base size, (s.who m.g).sp = some (core, base, size) →
      (∀ x y z, m.k.hold ≠ .reserve x y z) →
      let off := (m.sget b.toNat).toNat
      let n := cnt.toNat + 1
      let i := m.of (.enq h d a b cnt)
      (m.queueOf (m.sget a.toNat) = none → Completes (.enq h d a b cnt) s (i.raise .prot 6 0)) ∧
      (m.queueOf (m.sget a.toNat) = some (q, hd) →
        (hd.hostp = true → Completes (.enq h d a b cnt) s (i.raise .prot 6 0)) ∧
        (hd.hostp = false → off % 64 ≠ 0 → Completes (.enq h d a b cnt) s (i.raise .align 6 off)) ∧
        (hd.hostp = false → off % 64 = 0 → size < off + 64 * n → Completes (.enq h d a b cnt) s (i.raise .prot 6 off)) ∧
        (hd.hostp = false → off % 64 = 0 → off + 64 * n ≤ size → hd.cap < n →
          Completes (.enq h d a b cnt) s (i.raise .prot 6 0)) ∧
        (hd.hostp = false → off % 64 = 0 → off + 64 * n ≤ size → n ≤ hd.cap → m.g.queue = [] →
          m.ctx.poisonTrap = false ∨ s.firstPoison (spKey core (base + off)) (64 * n) = none →
          let bs := s.readHome (spKey core (base + off)) (64 * n)
          let recs := (List.range n).map fun i => (bs.drop (64 * i)).take 64
          let s0 := s.viewHome m.g.host (spKey core (base + off)) (64 * n)
          let dest := some (m.sreg d.toNat, m.sreg (d.toNat + 1))
          ((∃ r ∈ recs, ¬good r) → Completes (.enq h d a b cnt) s (({ i with s := s0 } : Issue).raise .prot 6 0)) ∧
          ((∀ r ∈ recs, good r) →
            (∀ s1 first, s0.reserve m.g m.g.nextPos q recs = .done s1 first →
              Completes (.enq h d a b cnt) s ((({ i with s := s1 } : Issue).sput2 d.toNat (BitVec.ofNat 64 first)).done)) ∧
            (hd.cap < hd.count + n →
              (m.g.isFront = false →
                Completes (.enq h d a b cnt) s
                  (({ i with s := s0, k := { m.k with pos := m.g.nextPos } } : Issue).holdAt (.reserve q recs dest))) ∧
              (m.g.isFront = true → Completes (.enq h d a b cnt) s
                ({ i with s := s0, k := { m.k with hold := .reserve q recs dest, pos := m.g.nextPos } } : Issue).stallKeep))))))) ∧
  (∀ (s : State) (g : Group) (pos q : Nat) (recs : List (List Byte)),
    let h := s.qhead (s.ctx g.ctx) q
    (h.lg ≤ 20 → h.cap = 2 ^ h.lg) ∧ h.cap ≤ 2 ^ 20 ∧
    (h.cap < h.count + recs.length → s.reserve g pos q recs = .wait s) ∧
    ((∃ e ∈ g.queue, e.isMark = false ∧ e.pos < pos) → s.reserve g pos q recs = .wait s) ∧
    ∀ s1 first, s.reserve g pos q recs = .done s1 first →
      h.count + recs.length ≤ h.cap ∧ first = h.tail ∧ (∀ e ∈ g.queue, e.pos < pos → e.isMark = true) ∧
      ∃ c ls s2,
        Chk.all { s := s, memo := [] } (fun c va => c.loc (s.who g) .gv va 64 false true)
          ((List.range recs.length).map fun i => (i, h.base + 64 * ((h.tail + i) % h.cap))) = (c, .ok ls) ∧
        c.s.traced g.job g.lcore .reservation (g.tracedAs ++ [q, h.tail, recs.length]) = .ok s2 ∧
        s1 = (ls.foldl (fun s x => s.storeHome (some g.host) x.2.key (recs.getD x.1 []) s.nextSeq) s2).storeHome none (h.key + 16)
          (leBytes 8 (h.tail + recs.length)) 0)

/-- DQPUSH appends its pair to the decision queue of its core behind its older entries, accesses and commands, and serves the
waiters: one that waits alone receives the decision and goes on; it stalls while 32 are present or its older entries have not
left. DQPOP takes the oldest decision of its job, and with `.j` goes on at the target that the jump table gives; it receives all
ones where its job has no front on the core, or the front's program has ended and none is left; and it waits, as the last
arrival, behind an earlier waiter of its job or where the front may still push. A `.j` table address off 4 raises ALIGN, a target
off 4 PROT, and nothing is removed.
(What it rests on that is the model's choice: log 10, 23, 42.) -/
def Obligations.Decisions : Prop :=
  ∀ (h : Hd) (d a : RegNo) (j : Bool) (s : State) (m : Issue),
    let c := m.g.lcore
    let own := fun f : Front => (s.core c).front = some f ∧ f.job = m.g.job
    let oldest := (s.core c).dq.find? (fun y => y.job == m.g.job)
    let behind := ∃ w ∈ s.dqWaiters c, ∃ g, s.group? (qidOf w.2.1) = some g ∧ g.job = m.g.job
    let recording := (s.jobOf m.g).map (·.det) = some true
    (Issues (.dqpush h a) h s m →
      (32 ≤ (s.core c).dq.length → Completes (.dqpush h a) s (m.of (.dqpush h a)).stall) ∧
      ((∃ e ∈ m.g.queue, e.isPop = false) → Completes (.dqpush h a) s (m.of (.dqpush h a)).stall) ∧
      (s.dqAway c m.g.job = false → (s.core c).dq.length < 32 → (∀ e ∈ m.g.queue, e.isPop = true) →
        (∀ x ∈ s.cmdsOf (qidOf m.ag), x.accepted = true) → (∀ k ∈ m.g.splits, ∀ x y z, k.hold ≠ .reserve x y z) →
        let d1 : Decision := ⟨m.g.job, m.sget2 a.toNat⟩
        Completes (.dqpush h a) s
          (({ m.of (.dqpush h a) with s := s.setCore { s.core c with dq := (s.core c).dq ++ [d1] } } : Issue).done.dqServeAll c))) ∧
    (∀ n ag D x w, s.dqWaiters c = [(n, ag, D, w, false)] → s.issueOf ag ⟨false, .l0, 0⟩ = some m → ¬recording →
      s.dqFind c m.g.job = some (some x) →
      let m1 := ({ m with s := s.setCore { s.core c with dq := dropFirst x (s.core c).dq } } : Issue).sput2 D x.val
      s.dqServeAll c = ({ m1 with g := m1.g.unpop m1.k.no, k := m1.k.resume 1 (m1.s.now m1.g) } : Issue).commit) ∧
    (Issues (.dqpop h d a j) h s m →
      (¬behind → ((s.core c).front = none ∨ (∃ f, (s.core c).front = some f ∧ f.job ≠ m.g.job) ∨
          (∃ f, own f ∧ f.ended = true ∧ s.dqAway c m.g.job = false ∧ oldest = none)) →
        Completes (.dqpop h d a j) s
          ({ (m.of (.dqpop h d a j)).sput2 d.toNat (BitVec.allOnes 64) with mf := true } : Issue).done) ∧
      ((behind ∨ ∃ f, own f ∧ (s.dqAway c m.g.job = true ∨ (oldest = none ∧ f.ended = false))) →
        Completes (.dqpop h d a j) s
          (({ m.of (.dqpop h d a j) with
              s := s.setCore { s.core c with dqWaits := (s.core c).dqWaits + 1 }
              g := { m.g with queue := m.g.queue ++ [popEntry m.g.nextPos m.k.no], nextPos := m.g.nextPos + 1 }
              k := { m.k with state := .blocked, wait := .dqpop (s.core c).dqWaits d.toNat a.toNat j } } :
            Issue).commit.dropRun)) ∧
      (∀ f x, ¬behind → own f → s.dqAway c m.g.job = false → oldest = some x → ¬recording →
        let took := fun t : State => t.setCore { t.core c with dq := dropFirst x (t.core c).dq }
        let top := (m.k.pc >>> 32) <<< 32
        let ta := (top + (m.sget a.toNat).setWidth 64 + BitVec.ofNat 64 (4 * (x.val.toNat % 2 ^ 16))).toNat
        (j = false → Completes (.dqpop h d a j) s
          ({ ({ m.of (.dqpop h d a j) with s := took s } : Issue).sput2 d.toNat x.val with mf := true } : Issue).done) ∧
        (j = true → ta % 4 ≠ 0 → Completes (.dqpop h d a j) s ((m.of (.dqpop h d a j)).raise .align 1 ta)) ∧
        (j = true → ta % 4 = 0 → ∀ s1 bs, readsNow m ta 4 s1 bs →
          (leNat bs % 4 ≠ 0 → Completes (.dqpop h d a j) s (({ m.of (.dqpop h d a j) with s := s1 } : Issue).raise .prot 0 0)) ∧
          (leNat bs % 4 = 0 → (s1.jobOf m.g).map (·.det) ≠ some true → Completes (.dqpop h d a j) s
            ((({ m.of (.dqpop h d a j) with s := took s1 } : Issue).sput2 d.toNat x.val).jump
              (top + BitVec.ofNat 64 (leNat bs)))))))

/-- Events of queues: a held reservation that can be made is made and its split goes on, and until then it waits; the gatherer
takes an Import step when it sees that the host has advanced TAIL; for the DEQ that came first, of a job that replays no trace,
it hands out the records of the window that share the oldest record's entry point, 96 at most, where a whole batch stands ready,
where no further record may arrive, where the job has no delay, and where a hold has passed its delay; otherwise it starts a
hold; a record whose entry point it cannot read is handed out alone. A batch that meets no fault releases its DEQ with one lane
for each record (R44, R45, R48).
(What it rests on that is the model's choice: log 49.) -/
def Obligations.QueueEvents : Prop :=
  ∀ (ag : Agent) (ctx q : Nat) (s : State) (m : Issue) (c : Context),
    (s.issueOf ag ⟨false, .l0, 0⟩ = some m → ∀ n recs dest, m.k.hold = .reserve n recs dest →
      (∀ s1 first, s.reserve m.g m.k.pos n recs = .done s1 first →
        let x := ({ m with s := s1, k := { m.k with hold := .none } } : Issue).reserved dest first
        let y := ({ x with k := x.k.resume 1 (x.s.now x.g) } : Issue).commit
        Completes (.queueReserve ag) s { y with runs := y.runs.filter fun r => !(r.agent == ag) }) ∧
      (∀ s1, s.reserve m.g m.k.pos n recs = .wait s1 → Completes (.queueReserve ag) s s)) ∧
    (s.ctx? ctx = some c → q < 64 → (s.qhead c q).hostp = true → (c.gather q).seenTail ≠ (s.qhead c q).tail →
      s.importStalls = false →
      Completes (.queueHostImport ctx q) s ((s.importStep none).setCtx
        (((s.importStep none).ctx ctx).setGather { c.gather q with seenTail := (s.qhead c q).tail }))) ∧
    (s.ctx? ctx = some c → ∀ n a d b x r, (n, a, d, b) ∈ s.deqWaiters ctx q →
      (∀ w ∈ s.deqWaiters ctx q, w ≠ (n, a, d, b) → n < w.1) →
      (∀ j, (s.group? (qidOf a)).bind s.jobOf = some j → j.det = false ∨ j.replay = false) →
      gatherWindow (s.qhead c q) (c.gather q) = x :: r →
      let delay := (((s.group? (qidOf a)).bind s.jobOf).map (·.gdelay)).getD 0
      let gives := fun (e : Instr) (batch : List Nat) =>
        ∀ t, s.giveBatch ctx q (s.qhead c q) a d b batch = some t → Completes e s t
      (s.entryAt ctx ((s.qhead c q).record x) = none → gives (.gatherBatch ctx q) [x]) ∧
      (∀ e, s.entryAt ctx ((s.qhead c q).record x) = some e →
        let cand := x :: r.filter fun y => s.entryAt ctx ((s.qhead c q).record y) == some e
        (96 ≤ cand.length ∨ (delay = 0 ∧ (c.gather q).hold = none) ∨ s.mayArrive ctx q (s.qhead c q) = false →
          gives (.gatherBatch ctx q) (cand.take 96)) ∧
        (cand.length < 96 → 0 < delay → s.mayArrive ctx q (s.qhead c q) = true → (c.gather q).hold = none →
          Completes (.gatherBatch ctx q) s (s.setCtx (c.setGather { c.gather q with hold := some (BitVec.ofNat 64 e, s.fcount) }))) ∧
        (∀ t0, (c.gather q).hold = some (BitVec.ofNat 64 e, t0) → t0 + delay ≤ s.fcount →
          gives (.gatherHoldExpire ctx q) (cand.take 96)))) ∧
    (s.issueOf ag ⟨false, .l0, 0⟩ = some m →
      ∀ h d b batch c1 keys, 2 < b → batchReads (s.who m.g) { s := s, memo := [] } (batch.map h.record) = (c1, keys, none) →
        ((c1.s.job? m.g.job).map (·.det) ≠ some true) →
        ∃ t g k, s.giveBatch ctx q h ag d b batch = some t ∧ t.group? (qidOf ag) = some g ∧ g.split? m.k.no = some k ∧
          k.mask = maskOf (List.range batch.length) &&& m.k.owned ∧ k.wait = .none)

/-! ## Copies -/

/-- CPY with room in the command list and a free count: its request, checked, enters the list with the issuer's next number; the
copies counter rises by one; a register D receives the promised cycle where the cluster is of fixed timing and the command can be
promised, or all ones; it stalls without room, and while its tensor is busy or the front's gang is away. KICK on aligned records
of the scratchpad that pass their checks puts its commands in the list, and stalls with those that have no room; a misaligned
offset raises ALIGN, a count of 0 or beyond 4,096 PROT, with ACCESS 6. Events of the copy engine: a command behind its issuer's
drained stores, behind the earlier records of its KICK and behind the earlier re-issued ones, is accepted, and with the last
re-issued one of a gang its save area returns to the pool (R291); while its gang is quiesced a command takes the first missing
line before its last landed one, and no other; a line of an accepted command that meets no fault lands, its bytes at their places, marked where its source is poisoned; one that meets a fault
pauses the command; a landed line is counted, its bytes arrive at the byte barrier, and the last line of a CPY lowers the copies
counter (R205, R284, R286, R334-R336, R354).
(What it rests on that is the model's choice: log 10, 24, 54, 90, 91.) -/
def Obligations.CopyEngine : Prop :=
  (∀ (h : Hd) (mode : CopyMode) (d a b : RegNo) (tid : Tid) (s : State) (m : Issue),
    let copies := fun (i : Instr) (t : Option Tid) => Issues i h s m →
      (m.frontWaits (m.rawReq a.toNat) = true ∨ (∃ x, t = some x ∧ m.g.tidBusy x.toNat = true) → Completes i s (m.of i).stall) ∧
      (m.frontWaits (m.rawReq a.toNat) = false → (∀ x, t = some x → m.g.tidBusy x.toNat = false) →
        (∀ s1 e, s.copyCheck m.g (some mode) (m.rawReq a.toNat) t = (s1, .error e) → Completes i s ((m.of i).fail s1 e 6)) ∧
        (∀ s1 r via x, s.copyCheck m.g (some mode) (m.rawReq a.toNat) t = (s1, .ok (r, via)) → s.copyGang m.g = some x →
          (256 ≤ x.cmds.length ∨ 65535 ≤ m.g.copies → Completes i s ({ m.of i with s := s1 } : Issue).stall) ∧
          (x.cmds.length < 256 → m.g.copies < 65535 →
            let cmd := m.newCmd x.uid s1.nextUid true r via none
            let c := s1.core m.g.host
            let p := max (s1.cycle m.g.host) c.promise + 96 + 4 * s1.lineCount cmd
            let promised := (s1.cluster (m.g.host / 8)).fixed = true ∧ d ≠ 0 ∧ s1.promisable (s1.who m.g) r = true
            let entered := fun (s2 : State) (due : Option Nat) =>
              ({ m.of i with s := ({ s2 with nextUid := s2.nextUid + 1 } : State).enterCmd x.uid { cmd with promise := due }
                             g := { m.g with copies := m.g.copies + 1 } } : Issue)
            (promised → Completes i s
              (((entered (s1.setCore { c with promise := p }) (some p)).sput2 d.toNat (BitVec.ofNat 64 p)).done)) ∧
            (¬promised → d ≠ 0 → Completes i s (((entered s1 none).sput2 d.toNat (BitVec.allOnes 64)).done)) ∧
            (d = 0 → Completes i s (entered s1 none).done))))
    copies (.cpy h mode d a) none ∧ copies (.cpyTid h mode d a tid) (some tid) ∧
    (Issues (.kick h a b) h s m → ∀ x core base size, s.copyGang m.g = some x → (s.who m.g).sp = some (core, base, size) →
      let i := m.of (.kick h a b)
      let off := (m.sget a.toNat).toNat
      let n := (m.sget b.toNat).toNat
      let puts := fun (s2 : State) (raws : List (BitVec 512)) => ∀ s3 left, m.enterAll x.uid raws s2 = (s3, left) →
        (left = [] → Completes (.kick h a b) s ({ i with s := s3, k := { m.k with hold := .none } } : Issue).done) ∧
        (left ≠ [] → Completes (.kick h a b) s ({ i with s := s3, k := { m.k with hold := .kick left } } : Issue).stallKeep)
      (∀ l, m.k.hold = .kick l → puts s l) ∧
      ((∀ l, m.k.hold ≠ .kick l) →
        (off % 64 ≠ 0 → Completes (.kick h a b) s (i.raise .align 6 off)) ∧
        (off % 64 = 0 → n = 0 ∨ 4096 < n → Completes (.kick h a b) s (i.raise .prot 6 0)) ∧
        (off % 64 = 0 → 0 < n → n ≤ 4096 → size < off + 64 * n → Completes (.kick h a b) s (i.raise .prot 6 off)) ∧
        (off % 64 = 0 → 0 < n → n ≤ 4096 → off + 64 * n ≤ size → m.g.queue = [] →
          m.ctx.poisonTrap = false ∨ s.firstPoison (spKey core (base + off)) (64 * n) = none →
          let bs := s.readHome (spKey core (base + off)) (64 * n)
          let raws := (List.range n).map fun i => BitVec.ofNat 512 (leNat ((bs.drop (64 * i)).take 64))
          (∀ s2 e, (s.viewHome m.g.host (spKey core (base + off)) (64 * n)).kickCheck m.g raws = (s2, some e) →
            Completes (.kick h a b) s (i.fail s2 e 6)) ∧
          ∀ s2, (s.viewHome m.g.host (spKey core (base + off)) (64 * n)).kickCheck m.g raws = (s2, none) → puts s2 raws)))) ∧
  (∀ (id line : Nat) (s : State) (c : CopyCmd) (x : Gang), s.cmd? id = some c → s.gang? c.gang = some x →
    (∀ g, s.group? c.issuer = some g → c.accepted = false → x.state ≠ .evicted → g.storesDrained c.pos = true →
      (∀ y ∈ x.cmds.takeWhile (fun y => !(y.id == id)), y.accepted = true ∨
        (¬(y.issuer = c.issuer ∧ y.pos = c.pos) ∧ ¬(y.again = true ∧ c.again = true))) →
      let s1 := s.setCmd { c with accepted := true }
      (x.stage ≠ 3 → Completes (.engineAccept id) s s1) ∧
      (x.stage = 3 → ∀ j, s.job? x.job = some j →
        ((∃ y ∈ x.cmds, y.id ≠ id ∧ y.accepted = false ∧ y.again = true) → Completes (.engineAccept id) s s1) ∧
        ((x.cmds.map (·.id)).Nodup → (∀ y ∈ x.cmds, y.id ≠ id → y.accepted = true ∨ y.again = false) → ∃ t y, Completes (.engineAccept id) s t ∧
          t.gang? c.gang = some y ∧ y.stage = 0 ∧ (t.ctx j.ctx).areas = (s.ctx j.ctx).areas.filter (fun a => a.1 != x.saveOff)))) ∧
    (x.stage = 2 → c.req.mode ≠ .xch → (∀ n ∈ c.landed, n < line) ∨ s.nextLine c ≠ some line →
      Completes (.engineLine (.copy id) line) s s) ∧
    (∀ j, c.accepted = true → c.paused = false → x.state ≠ .evicted → line ∉ c.landed → s.job? x.job = some j →
      x.stage ≠ 2 ∨ c.req.mode = .xch ∨ (line < c.req.rowCount * c.req.perRow ∧ (s.line? c line).isSome = true ∧
        (∀ k, k < line → (s.line? c k).isSome = true → k ∈ c.landed) ∧ ∃ k ∈ c.landed, line < k) →
      let lands := fun s1 : State => Completes (.engineLine (.copy id) line) s
        ((s1.count (x.host / 8) (some j.ctx) 9 1).setCmd { c with landed := line :: c.landed })
      (∀ s1, s.copyLine x j.ctx c line = .done s1 → lands s1) ∧
      (∀ s1 e k, s.copyLine x j.ctx c line = .fault s1 e k → Completes (.engineLine (.copy id) line) s (s1.pauseCmd c e k)) ∧
      (∀ i p n c1 ps c2 qs, s.line? c line = some (i, p, n) → 0 < n → c.req.mode = .lin ∨ c.req.mode = .s2d →
        Chk.parts { s := s, memo := [] } (x.who j.ctx) c.req.sspace (c.req.rowSrc i + BitVec.ofNat 64 p).toNat n true false
          = (c1, .ok ps) →
        c1.parts (x.who j.ctx) c.req.dspace (s.rowDst c.req i + BitVec.ofNat 64 p).toNat n false true = (c2, .ok qs) →
        c2.s.flightParts qs = false →
        let s1 := c2.s.storeParts x.host (c1.s.readParts ps) qs
        (c1.s.poisonParts ps = false → lands s1) ∧
        (c1.s.poisonParts ps = true →
          lands (qs.foldl (fun s q => (linesOf q.1 q.2).foldl State.poisonLine s) s1)))) ∧
    (∀ y z k, s.line? c line = some (y, z, k) → line ∈ c.landed → line ∉ c.counted →
      let s0 := s.raiseOverdue x.uid
      let s1 := s0.setCmd { (s0.cmd? id).getD c with counted := line :: c.counted }
      let s2 := if c.req.bben = true then
        (s1.barrierWrite (spKey x.host (x.spBase + c.req.bboff)) true k 0).wakeBarrier x.uid c.req.bboff else s1
      (c.counted.length + 1 < s.lineCount c → Completes (.engineArrival id line) s s2) ∧
      (s.lineCount c ≤ c.counted.length + 1 → c.fromCpy = true →
        Completes (.engineArrival id line) s ((s2.dropCmd c).countDown c.issuer .copies)) ∧
      (s.lineCount c ≤ c.counted.length + 1 → c.fromCpy = false → Completes (.engineArrival id line) s (s2.dropCmd c))))

/-! ## Tensors, patterns, matrices -/

/-- TDEF of an aligned, well-formed image enters the table step, and one of another image, or that would leave SEL in an entry
without PUB, raises PROT with ACCESS 7; TDEF.get places the entry as held in the store queue, and counts as a store; PUBLISH of a
tensor with PUB enters its toggle, and of any other entry, also one that is not valid, raises PROT with ACCESS 7; PLOAD of an aligned
pattern program enters its install, and of an image that is none raises ILLEGAL with ACCESS 1. TDEF, TDEF.get and PLOAD raise ALIGN
off 32 bytes. The table step, the toggle and the install follow as events, once the older stores have drained (TDEF, PUBLISH), or
nothing before it uses the slot (PLOAD).
(What it rests on that is the model's choice: log 10, 33.) -/
def Obligations.TensorOperations : Prop :=
  ∀ (h : Hd) (tid : Tid) (a : RegNo) (ps : PSlotNo) (o : Opnd) (s : State) (m : Issue), m.g.tiles < 65535 → m.g.tidBusy tid.toNat = false →
    (Issues (.tdef h tid a) h s m →
      let va := (m.sget2 a.toNat).toNat
      (va % 32 ≠ 0 → Completes (.tdef h tid a) s ((m.of (.tdef h tid a)).raise .align 1 va)) ∧
      (va % 32 = 0 → ∀ s1 bs, readsNow m va 32 s1 bs →
        let img := BitVec.ofNat 256 (leNat bs)
        let e := tensorOf (tdefEntry (m.ctx.tensor tid.toNat) img)
        (tdefOk img = true → (e.sel = true → e.pub = true) →
          opEnters (.tdef h tid a) s ({ m with s := s1 } : Issue) (.tdef tid img false)) ∧
        (tdefOk img = false ∨ (e.sel = true ∧ e.pub = false) →
          Completes (.tdef h tid a) s (({ m.of (.tdef h tid a) with s := s1 } : Issue).raise .prot 7 0)))) ∧
    (Issues (.tdefGet h tid a) h s m →
      let va := (m.sget2 a.toNat).toNat
      (va % 32 ≠ 0 → Completes (.tdefGet h tid a) s ((m.of (.tdefGet h tid a)).raise .align 2 va)) ∧
      (va % 32 = 0 → m.g.stores < 65535 → ∀ c l, Chk.loc { s := s, memo := [] } (s.who m.g) .gv va 32 false true = (c, .ok l) →
        ∃ e : Entry, e.isStore = true ∧ e.key = l.key ∧ e.data = leBytes 32 (m.ctx.tensor tid.toNat).toNat ∧ e.pos = m.g.nextPos ∧
          e.cls = some .stores ∧ Completes (.tdefGet h tid a) s
            (({ m.of (.tdefGet h tid a) with s := c.s, g := { m.g with queue := m.g.queue ++ [e], nextPos := m.g.nextPos + 1
                                                                       stores := m.g.stores + 1 } } : Issue).done))) ∧
    (Issues (.publish h tid) h s m → let entry := m.ctx.named tid.toNat [.gv, .sp, .ws]
      (∀ t, entry = some t → t.pub = true → opEnters (.publish h tid) s m (.publish tid none)) ∧
      (entry = none ∨ (∃ t, entry = some t ∧ t.pub = false) →
        Completes (.publish h tid) s ((m.of (.publish h tid)).raise .prot 7 0))) ∧
    (Issues (.pload h ps o) h s m →
      let va := (m.sget2 (m.reg o)).toNat
      (va % 32 ≠ 0 → Completes (.pload h ps o) s ((m.of (.pload h ps o)).raise .align 1 va)) ∧
      (va % 32 = 0 → ∀ s1 bs, readsNow m va 32 s1 bs →
        let img := BitVec.ofNat 256 (leNat bs)
        ((patOf img).isSome = true → opEnters (.pload h ps o) s ({ m with s := s1 } : Issue) (.pload ps.toNat img false)) ∧
        (patOf img = none →
          Completes (.pload h ps o) s (({ m.of (.pload h ps o) with s := s1 } : Issue).raise .illegal 1 0)))) ∧
    (∀ (q : QId) (op : Nat) (g : Group) (x : TileOp), s.group? q = some g → g.op? op = some x →
      (x.kind = .publish tid none → g.storesDrained x.pos = true →
        let s1 := s.setGroup q (g.setOp { x with kind := .publish tid (some ((s.ctx g.ctx).tensor tid.toNat)) })
        Completes (.select q op) s (s1.setCtx ((s1.ctx g.ctx).setTensor tid.toNat ((s.ctx g.ctx).tensor tid.toNat ^^^ selBit)))) ∧
      (∀ img, x.kind = .tdef tid img false → g.storesDrained x.pos = true →
        let s1 := s.setGroup q (g.setOp { x with kind := .tdef tid img true })
        let c := s1.ctx g.ctx
        Completes (.tensorTableStep q op) s
          ((s1.setCtx (c.setTensor tid.toNat (tdefEntry (c.tensor tid.toNat) img))).emptyTid g.ctx tid)) ∧
      (∀ slot img, x.kind = .pload slot img false → s.coreAway g.lcore g.ctx = false → s.pslotUsed g.lcore g.ctx slot = false →
        (∀ y ∈ (s.core g.lcore).pslots, y.1 = slot → y.2.owner = g.ctx) → (g.ops.takeWhile fun y => !(y.id == op)) = [] →
        ∃ t p, Completes (.patternInstall q op) s t ∧ (slot, p) ∈ (t.core g.lcore).pslots ∧ p.loaded = true ∧ p.image = img ∧
          p.gen = (s.pslot g.lcore g.ctx slot).gen + 1 ∧ p.owner = g.ctx))

/-- PGEN to a scalar register writes the kept position at the cursor and moves the cursor by one; to a vector register each
active lane its own, and moves it by 96, up to the number of positions. An unloaded slot or a cursor from 8,192 on raises PROT,
a transposed use of a program that is not invertible NONINV.
(What it rests on that is the model's choice: log 33.) -/
def Obligations.PatternGeneration : Prop :=
  ∀ (h : Hd) (t : Bool) (d a : Opnd) (ps : PSlotNo) (s : State) (m : Issue) (i : Instr),
    i = .pgenV h t d ps a ∨ i = .pgenS h t d ps a → Issues i h s m → m.g.ploadPending ps.toNat = false →
    s.coreAway m.g.lcore m.g.ctx = false →
    let p := s.pslot m.g.lcore m.g.ctx ps.toNat
    let cur := (m.sget (m.reg a + 1)).toNat
    let o := (m.sget (m.reg a)).toNat
    let l := patWindow p.image (o % 65536) (o / 65536) 64 64 t
    (8192 ≤ cur ∨ p.loaded = false → Completes i s ((m.of i).raise .prot 0 0)) ∧
    (cur < 8192 → p.loaded = true → t = true → p.inv = false → Completes i s ((m.of i).raise .noninv 0 0)) ∧
    (cur < 8192 → p.loaded = true → (t = true → p.inv = true) →
      (i = .pgenS h t d ps a → Completes i s ((((m.of i).sput (m.reg d) (posWord l cur)).sput (m.reg a + 1)
        (BitVec.ofNat 32 (min (cur + 1) l.length))).done)) ∧
      (i = .pgenV h t d ps a → m.active ≠ [] → Completes i s ((((m.of i).vput (m.reg d) m.active fun j => posWord l (cur + j)).sput
        (m.reg a + 1) (BitVec.ofNat 32 (min (cur + 96) l.length))).done)))

/-- MWB of a usable tile position fills a free weight-buffer entry in state LOADING and counts in the tiles class. MMA and MMAS
on a READY entry whose tensor pairs with the type capture their registers and A's scales, with every lane active and one split,
and enter the product; on a LOADING entry they hold it, and multiply by it once it is READY. MCLR enters, and so does MRD in its
forms: a dense read, with its registers or its lines; a compacting one, whose entries, flags and scalars are those of the tile as
it stands, with SPOVERFLOW where entries are left; a ticketed read to memory holds its run until its rows are appended, and then
writes its scalar. An instruction of the matrix array on a group that has not converged raises CONVERGENCE (R212-R225, R231).
The arithmetic that products and reads are made of (their events: Obligations.EngineEvents): the elements of A and of a weight entry,
with their scales (R140-R142, R218-R220); a product of two; blocksum, the exact sum of a block's products rounded once to f32, with its
special cases; fold, a rounded sum whose error goes to C (R221, R222); and the value that MRD reads, S + C rounded once (R223).
(What it rests on that is the model's choice: log 5, 18, 55, 56, 107, 108, 122.) -/
def Obligations.MatrixInstructions : Prop :=
  ∀ (h : Hd) (ty : Ty) (t sc tick : Bool) (acc : AccNo) (a d c : Opnd) (a6 b6 : RegNo) (tid : Tid) (ps : PSlotNo) (b : SrcB)
    (spc : Space) (s : State) (m : Issue), m.g.tiles < 65535 →
    let core := m.g.lcore
    let with' := fun (n : Issue) (k : TileKind) =>
      ({ n with g := { n.g with tiles := n.g.tiles + 1, nextOp := n.g.nextOp + 1
                                ops := n.g.ops ++ [{ id := n.g.nextOp, pos := n.g.nextPos, kind := k }] } } : Issue)
    let loads := fun (i : Instr) (r0 c0 layer : Nat) => Issues i h s m → m.g.tidBusy tid.toNat = false →
      s.coreAway core m.g.ctx = false → m.g.ploadPending (tensorOf (m.ctx.tensor tid.toNat)).pat = false →
      m.g.storesDrained m.g.nextPos = true → ∀ x no, m.ctx.named tid.toNat [.gv, .ws] = some x →
      (weightOk s core m.g.ctx x r0 c0 layer = false → Completes i s ((m.of i).raise .prot 7 0)) ∧
      (weightOk s core m.g.ctx x r0 c0 layer = true → s.wChoice core m.g.ctx tid.toNat = some no →
        ∃ w : WEntry, w.no = no ∧ w.owner = m.g.ctx ∧ w.st = .loading ∧ w.tid = tid ∧ w.r0 = r0 ∧ w.c0 = c0 ∧ w.layer = layer ∧
          w.cursor = 0 ∧ w.issuer = qidOf m.ag ∧
          Completes i s (({ m.of i with s := s.setW core w, g := { m.g with tiles := m.g.tiles + 1 } } : Issue).done))
    let products := fun (i : Instr) (sparse : Option PSlotNo) (t : Bool) => Issues i h s m →
      let enters := fun w : WEntry => Completes i s
        ((with' { m.of i with s := s.setW core { w with age := (s.core core).nextAge }, k := { m.k with hold := .none } }
          (.mma acc.toNat t ty ((List.range 16).map fun j => m.vget (m.reg a + j)) (if sc then some (m.vget (m.reg c)) else none)
            w)).done.dropDoomed core)
      (m.converged = false → Completes i s ((m.of i).raise .convergence 7 0)) ∧
      (m.converged = true → s.coreAway core m.g.ctx = false →
        (∀ no w, m.k.hold = .mma no → (s.core core).wbuf.find? (fun w => w.owner == m.g.ctx && w.no == no && w.tid == tid) = some w →
          (w.st = .ready → enters w) ∧ (w.st = .loading → Completes i s (m.of i).stall)) ∧
        ((∀ no, m.k.hold ≠ .mma no) → m.g.tidBusy tid.toNat = false →
          (∀ p, sparse = some p → m.g.ploadPending p.toNat = false) → ∀ x w, m.ctx.named tid.toNat [.gv, .ws] = some x →
          s.wentry core m.g.ctx tid.toNat = some w → x.ty ∈ ([.f16, .bf16, .e4m3, .e5m2, .cb8] : List Ty) → tileK x.ty = tileK ty →
          (match sparse with
            | none => x.comp = false ∧ t = false
            | some p => x.comp = true ∧ p.toNat = x.pat ∧ w.gen = (s.pslot core m.g.ctx x.pat).gen ∧
                (t = true → tileK x.ty ≠ 32 ∧ (s.pslot core m.g.ctx x.pat).inv = true)) →
          (w.st = .ready → enters w) ∧
          (w.st = .loading → Completes i s ({ m.of i with k := { m.k with hold := .mma w.no } } : Issue).stallKeep)))
    loads (.mwb h tid a6) (m.sget a6.toNat).toNat (m.sget (a6.toNat + 1)).toNat 0 ∧
    loads (.mwbLayer h tid a6 b6) ((m.sget a6.toNat).toNat % 65536) ((m.sget a6.toNat).toNat / 65536) (m.sget b6.toNat).toNat ∧
    products (.mma h ty acc a tid sc c) none false ∧ products (.mmas h t ty acc a tid ps sc c) (some ps) t ∧
    (Issues (.mclr h acc) h s m →
      (m.converged = true → opEnters (.mclr h acc) s m (.mclr acc.toNat)) ∧
      (m.converged = false → Completes (.mclr h acc) s ((m.of (.mclr h acc)).raise .convergence 0 0))) ∧
    (Issues (.mrdV h ty false false d acc b) h s m → m.g.isFront = false → ∀ c0 n slots,
      denseCtl ty (m.srcS1 .n32 b).toNat = some (c0, n) → m.vrange (m.reg d) (denseRegs ty n) = some slots →
      (∀ x ∈ slots, m.g.vecPending x = false) →
      opEnters (.mrdV h ty false false d acc b) s m (.mrdV acc.toNat ty c0 n slots m.k.mask)) ∧
    (Issues (.mrdV h ty true tick d acc b) h s m →
      let i := Instr.mrdV h ty true tick d acc b
      let bn := m.ctlReg b
      (m.converged = false → Completes i s ((m.of i).raise .convergence 0 0)) ∧
      (m.converged = true → ∀ skip bound, compactCtl tick (m.sget bn).toNat = some (skip, bound) → m.g.accBusy acc.toNat = false →
        let rows := if tick then pickRows s 96 (List.range 96) else (s, List.range 96)
        let ticket := if tick then (m.sget (bn + 1)).toNat else 0
        let list := ((rows.2.map fun r => nonZeros ty (m.g.acc.getD acc.toNat []) r).flatten).drop skip
        let put := (numbered ticket list).filter fun x => decide (x.1 < bound)
        ∀ slots, m.vrange (m.reg d) (if put = [] then 0 else maxOf (put.map (·.1)) / 96 + 1) = some slots →
          (put = [] ∨ (slots.drop (minOf (put.map (·.1)) / 96)).any m.g.vecPending = false) →
          let n := ({ m.of i with s := rows.1 } : Issue).putEntries (m.reg d) (put.map fun x => (x.1, recWord x.2))
          let n1 := with' (if tick then n.sput (bn + 1) (BitVec.ofNat 32 (ticket + list.length))
            else n.compactCtlOut bn skip bound list.length) (.mrdRec [] (tileFlags ty (m.g.acc.getD acc.toNat [])))
          (list.length ≤ put.length → Completes i s n1.done) ∧
          (put.length < list.length → Completes i s (n1.raise .spoverflow 0 0)))) ∧
    (Issues (.mrdS h ty spc false false a acc b) h s m → (∀ o, m.k.hold ≠ .tick o) →
      (m.converged = false → Completes (.mrdS h ty spc false false a acc b) s
        ((m.of (.mrdS h ty spc false false a acc b)).raise .convergence 2 0)) ∧
      (m.converged = true → ∀ c0 n s1 ls, denseCtl ty (m.srcS1 .n32 b).toNat = some (c0, n) →
        m.mrdDest spc (m.mrdBase spc (m.reg a)) (tyBytes ty) (96 * n * tyBytes ty) = (s1, .ok ls) →
        opEnters (.mrdS h ty spc false false a acc b) s ({ m with s := s1 } : Issue) (.mrdS acc.toNat ty c0 n ls))) ∧
    (Issues (.mrdS h ty spc true false a acc b) h s m → (∀ o, m.k.hold ≠ .tick o) → m.converged = true →
      let i := Instr.mrdS h ty spc true false a acc b
      ∀ skip bound s1 ls, compactCtl false (m.sget (m.ctlReg b)).toNat = some (skip, bound) → m.g.accBusy acc.toNat = false →
        let tile := m.g.acc.getD acc.toNat []
        let list := (((List.range 96).map fun r => nonZeros ty tile r).flatten).drop skip
        m.mrdDest spc (m.mrdBase spc (m.reg a)) 8 (8 * min bound list.length) = (s1, .ok ls) →
        let bytes := ((list.take bound).map recBytes).flatten
        let n1 := with' (({ m.of i with s := s1 } : Issue).compactCtlOut (m.ctlReg b) skip bound list.length)
          (.mrdRec (ls.map fun x => (x.2.1, (bytes.drop x.1).take x.2.2)) (tileFlags ty tile))
        (list.length ≤ bound → Completes i s n1.done) ∧ (bound < list.length → Completes i s (n1.raise .spoverflow 0 0))) ∧
    (Issues (.mrdS h ty spc true true a acc b) h s m →
      let i := Instr.mrdS h ty spc true true a acc b
      let base := m.mrdBase spc (m.reg a)
      ((∀ o, m.k.hold ≠ .tick o) → m.converged = true → ∀ skip bound s1 ls c1 l,
        compactCtl true (m.sget (m.ctlReg b)).toNat = some (skip, bound) → m.mrdDest spc (base + 8) 8 (8 * bound) = (s1, .ok ls) →
        Chk.loc { s := s1, memo := [] } (s1.who m.g) spc base 8 true true = (c1, .ok l) → c1.s.atomicOk .add .n64 l = true →
        Completes i s (with' { m.of i with s := c1.s, k := { m.k with hold := .tick m.g.nextOp } }
          (.mrdTick acc.toNat ty l.key ls bound (List.range 96) [] 0 false)).stallKeep) ∧
      (∀ op o ac ty' ct ds bd ws put dr, m.k.hold = .tick op → m.g.op? op = some o → o.kind = .mrdTick ac ty' ct ds bd [] ws put dr →
        let n := ({ m.of i with k := { m.k with hold := .none } } : Issue).sput (m.ctlReg b + 1) (BitVec.ofNat 32 put)
        (dr = false → Completes i s n.done) ∧ (dr = true → Completes i s (n.raise .spoverflow 2 0)))) ∧
    (∀ (f : Shape) (x : Nat), shapeOf ty = some f → ty ∈ ([.f16, .bf16, .e4m3, .e5m2] : List Ty) →
      (f.isNan x → elemVal ty x = .nan (f.isSignalling x)) ∧ (f.isInf x → elemVal ty x = .val (.inf (f.neg x))) ∧
      (f.isFinite x → ∃ n e, elemVal ty x = .val (.fin (f.neg x) n e) ∧ finVal (.fin (f.neg x) n e) = f.value x)) ∧
    (∀ code i : Nat, code < 65536 → i < 8 →
      let shell : Nat := code / 2 ^ 14 + if i = code / 2 % 8 then code / 2 ^ 12 % 4 + 1 else 0
      let magnitude : Rat := (shell : Rat) / 2 + ((code % 2 : Nat) : Rat) / 4
      ∃ n e, cb8Val code i = .val (.fin (decide (magnitude ≠ 0) && code.testBit (4 + i)) n e) ∧ n * pow2 e = magnitude) ∧
    (∀ (v : MVal) (e : Nat), v.scaled 255 = .nanScale ∧ (e < 255 →
      (v = .nanScale → v.scaled e = v) ∧ (∀ sig, v = .nan sig → v.scaled e = v) ∧ (∀ neg, v = .val (.inf neg) → v.scaled e = v) ∧
      ∀ neg n x, v = .val (.fin neg n x) →
        ∃ n' x', v.scaled e = .val (.fin neg n' x') ∧ (n' : Rat) * pow2 x' = n * pow2 x * pow2 ((e : Int) - 127))) ∧
    (∀ (tile : List VReg) (scale : Option VReg) (r k : Nat), r < 96 → k < tileK ty → ty ∈ ([.f16, .bf16, .e4m3, .e5m2] : List Ty) →
      let w := if tyBits ty = 16 then 16 else 8
      let x := elemVal ty ((lane (tile.getD (k * w / 32) VReg.zero) r).extractLsb' (k * w % 32) w).toNat
      (aRow ty tile scale r)[k]? = some (match scale with
        | none => x
        | some v => x.scaled ((lane v r).extractLsb' (8 * (k / 32)) 8).toNat)) ∧
    (∀ (w : WEntry) (r col : Nat), let x := tensorOf w.image
      r < 64 → col < tileK x.ty →
      let byte := fun i => (w.elems.getD i 0).toNat
      let inside := fun r col => w.r0 + r < x.rows ∧ w.c0 + col < x.cols ∧
        (x.comp = true → patSet ((patOf w.prog).getD []) (w.r0 + r) (w.c0 + col) = true)
      let before := (List.range (tileK x.ty * r + col)).countP fun i => decide (inside (i / tileK x.ty) (i % tileK x.ty))
      let place := if x.comp then before else tileK x.ty * r + col
      let stored := if x.ty = .cb8 then cb8Val (byte (place / 8 * 2) + 256 * byte (place / 8 * 2 + 1)) (place % 8)
        else if x.ty = .f16 ∨ x.ty = .bf16 then elemVal x.ty (byte (2 * place) + 256 * byte (2 * place + 1))
        else elemVal x.ty (byte place)
      let scaled := if x.scaled then stored.scaled (w.scales.getD (place / 32) 0).toNat else stored
      (w.tile.getD r []).getD col none = if inside r col then some scaled else none) ∧
    (∀ (x y : MVal),
      (x = .nanScale ∨ y = .nanScale → mvalMul x y = .bad false) ∧
      (x ≠ .nanScale → y ≠ .nanScale → (∃ sig, x = .nan sig) ∨ (∃ sig, y = .nan sig) →
        mvalMul x y = .bad (decide (x = .nan true ∨ y = .nan true))) ∧
      (∀ p q, x = .val (.inf p) → y = .val (.inf q) → mvalMul x y = .val (.inf (p != q))) ∧
      (∀ p q n e, (x = .val (.inf p) ∧ y = .val (.fin q n e)) ∨ (y = .val (.inf p) ∧ x = .val (.fin q n e)) →
        mvalMul x y = if n = 0 then .bad true else .val (.inf (p != q))) ∧
      (∀ p q n k e z, x = .val (.fin p n e) → y = .val (.fin q k z) →
        ∃ n' e', mvalMul x y = .val (.fin (p != q) n' e') ∧ (n' : Rat) * pow2 e' = n * pow2 e * (k * pow2 z))) ∧
    (∀ terms : List Term, let p := blockSum terms
      let q := (terms.map fun x => match x with | .val v => finVal v | .bad _ => 0).sum
      let both := Term.val (.inf true) ∈ terms ∧ Term.val (.inf false) ∈ terms
      let broken := (∃ iv, Term.bad iv ∈ terms) ∨ both
      (broken → p = (single.defaultNan, if Term.bad true ∈ terms ∨ both then fIV else 0)) ∧
      (∀ neg, ¬broken → Term.val (.inf neg) ∈ terms → p = (single.sgn neg + single.infinity, 0)) ∧
      (¬broken → (∀ neg, Term.val (.inf neg) ∉ terms) →
        let minus := terms ≠ [] ∧ ∀ x ∈ terms, ∃ e, x = .val (.fin true 0 e)
        (q ≠ 0 → RoundsTo single .ne false q (BitVec.ofNat 64 p.1, p.2) ∧ p.1 < 2 ^ 32) ∧
        (minus → p = (single.sgn true, 0)) ∧ (q = 0 → ¬minus → p = (0, 0)))) ∧
    (∀ (pair : Word × Word) (p : Nat), p < 2 ^ 32 →
      let wide := fun (x : Word) => x.setWidth 64
      let sum := arith2 .add .f32 0 .ne (wide pair.1) (BitVec.ofNat 64 p)
      let left := single.value pair.1.toNat + single.value p - single.value sum.1.toNat
      let finite := single.isFinite pair.1.toNat ∧ single.isFinite p ∧ single.isFinite sum.1.toNat
      (¬finite → fold pair p = ((sum.1.setWidth 32, 0), sum.2)) ∧
      (finite → ∃ e : DWord, (left = 0 → e = 0) ∧ (left ≠ 0 → ∃ fl, RoundsTo single .ne false left (e, fl)) ∧
        let low := arith2 .add .f32 0 .ne (wide pair.2) e
        fold pair p = ((sum.1.setWidth 32, low.1.setWidth 32), low.2))) ∧
    (∀ (f : Shape) (pair : Word × Word), shapeOf ty = some f →
      let u := pair.1.toNat
      let v := pair.2.toNat
      let r := readElem ty pair
      let q := single.value u + single.value v
      let as := fun (x : Nat) => (convert ty .f32 ⟨.ne, false, false, 0⟩ x)
      (single.isNan u ∨ single.isNan v → r = ((as (single.quieted (if single.isNan u then u else v))).1,
        if single.isSignalling u ∨ single.isSignalling v then fIV else 0)) ∧
      (single.isInf u → single.isInf v → r = if single.neg u = single.neg v then as (single.sgn (single.neg u) + single.infinity)
        else (f.defaultNan, fIV)) ∧
      (single.isInf u → single.isFinite v → r = as (single.sgn (single.neg u) + single.infinity)) ∧
      (single.isFinite u → single.isInf v → r = as (single.sgn (single.neg v) + single.infinity)) ∧
      (single.isFinite u → single.isFinite v →
        (q ≠ 0 → RoundsTo f .ne false q (BitVec.ofNat 64 r.1, r.2) ∧ r.1 < 2 ^ f.width) ∧
        (q = 0 → r = (f.sgn (decide (single.value u = 0) && single.neg u && single.neg v), 0))))

/-! ## Geometry -/

/-- The geometry instructions. GRAS, GREP, GBLD and GPATCH whose identifiers, roots and operands are good enter their operation
with the registers they capture; GQRY starts a query for each active lane, or slot 96, and writes the slot numbers; GPOP, each of
its slots without a round in progress, delivers its words and starts the next rounds; GINW reads a line of the scratchpad that
holds a good header and writes its words, and raises PROT on another: the positions moved by the child's lattice offset, modulo 2^64,
for `.smp` whether they lie in the child's box, for `.edge` which corners of the box have an edge function that is not negative, for
`.ray` the direction as it was (R245, R246). A bad identifier raises PROT with ACCESS 7. Without an active lane GREP, GPATCH, GQRY,
GPOP and GINW of lanes have no effect, and GRAS and GBLD enter all the same, with no root and no lane (R249, R253); a scalar GQRY or
GPOP on s0 to s2 raises ILLEGAL. What the engines compute (their events: Obligations.EngineEvents): exact positions and child boxes
(R242); the samples that a triangle covers, with their depths (R246); the ray of a query record and when it hits a triangle (R247); the
hits that a box node and a user leaf yield (R255, R256); and what a lane of GBLD appends to a record (R253).
(What it rests on that is the model's choice: log 10, 33, 57, 58.) -/
def Obligations.GeometryInstructions : Prop :=
  ∀ (h : Hd) (mode : QMode) (commit : Bool) (vtid tid : Tid) (a6 d6 b6 : RegNo) (d a b : Opnd) (s : State) (m : Issue),
    m.g.tiles + 96 < 65535 → (∀ x, m.g.tidBusy x = false) →
    let rasters := fun (i : Instr) (w : List (Word × Word)) => Issues i h s m →
      (m.ctx.vbuf vtid.toNat = none ∨ m.ctx.roots w = none → Completes i s ((m.of i).raise .prot 7 0)) ∧
      (∀ v rs, m.ctx.vbuf vtid.toNat = some v → m.ctx.roots w = some rs →
        opEnters i s m (.gras vtid (m.ctx.tensor vtid.toNat) rs (rs.map Root.task) 0 0 0 0 0 0))
    let builds := fun (i : Instr) (tri : Bool) => Issues i h s m →
      (m.ctx.geom tid.toNat = none → Completes i s ((m.of i).raise .prot 7 0)) ∧
      (∀ x core base size, m.ctx.geom tid.toNat = some x → (s.who m.g).sp = some (core, base, size) →
        let off := (m.sget b6.toNat).toNat
        (off % 32 ≠ 0 → Completes i s ((m.of i).raise .align 7 off)) ∧
        (off % 32 = 0 → size < off + 160 → Completes i s ((m.of i).raise .prot 7 off)) ∧
        (off % 32 = 0 → off + 160 ≤ size → opEnters i s m (.gbld tri commit tid (m.ctx.tensor tid.toNat) off m.active
          ((List.range (if tri then 1 else 6)).map fun j => m.vget (a6.toNat + j)) false)))
    let queries := fun (i : Instr) (recs : List (Nat × List Word)) (fin : Issue → Issue) => Issues i h s m →
      (m.ctx.geom tid.toNat = none ∨ (∃ r ∈ recs, m.ctx.geom (recGtid r.2).toNat = none ∨ recOk mode r.2 = false) →
        Completes i s ((m.of i).raise .prot 7 0)) ∧
      ((∃ x, m.ctx.geom tid.toNat = some x) →
        (∀ r ∈ recs, (m.ctx.geom (recGtid r.2).toNat).isSome = true ∧ recOk mode r.2 = true) → recs.length ≤ 96 →
        let g1 := recs.foldl (fun g r => g.startQuery (newQuery r.1 mode r.2 (m.ctx.tensor (recGtid r.2).toNat))) m.g
        Completes i s (fin { m.of i with g := g1 }).done)
    let pops := fun (i : Instr) (slots : List Nat) (put : Issue → (Nat → List Word) → Issue) => Issues i h s m → slots.length ≤ 96 →
      ((∃ n ∈ slots, 96 < n) → Completes i s ((m.of i).raise .prot 0 0)) ∧
      ((∀ n ∈ slots, n ≤ 96) → (∃ n ∈ slots, ∃ x, m.g.qslot n = some x ∧ x.active = true ∧ x.ready = false) →
        Completes i s (m.of i).stall) ∧
      ((∀ n ∈ slots, n ≤ 96 ∧ ∀ x, m.g.qslot n = some x → x.active = true → x.ready = true) →
        let n := put (m.of i) fun k => popWords (m.g.qslot k)
        let g1 := (m.g.queries.filter fun x => slots.contains x.slot).foldl (fun g x => g.popped x) n.g
        Completes i s ({ n with g := g1 } : Issue).done)
    let walks := fun (i : Instr) (f : Inward) (nIn nOut : Nat) => Issues i h s m →
      let v := (m.sget (m.reg b)).toNat
      (m.active = [] → Completes i s (m.of i).done) ∧
      (m.active ≠ [] → v / 8 % 16 ≠ 0 → Completes i s ((m.of i).raise .prot 1 v)) ∧
      (m.active ≠ [] → v / 8 % 16 = 0 → ∀ core base size, (s.who m.g).sp = some (core, base, size) →
        (size < v / 128 * 128 + 128 → Completes i s ((m.of i).raise .prot 1 (v / 128 * 128))) ∧
        (v / 128 * 128 + 128 ≤ size → m.g.queue = [] → m.g.loads < 65535 →
          m.ctx.poisonTrap = false ∨ s.firstPoison (spKey core (base + v / 128 * 128)) 128 = none →
          let n := nodeOf (leNat (s.readHome (spKey core (base + v / 128 * 128)) 128))
          let x : Issue := { m.of i with s := s.viewHome m.g.host (spKey core (base + v / 128 * 128)) 128 }
          (n.headOk = false ∨ n.kind = 2 ∨ n.childs.length ≤ v % 8 → Completes i s (x.raise .prot 1 v)) ∧
          (∀ ch, n.headOk = true → n.kind ≠ 2 → n.childs[v % 8]? = some ch →
            Completes i s ((List.range nOut).foldl (fun (y : Issue) r => y.vput (m.reg d + r) m.active fun l =>
              (f.words n ch ((List.range nIn).map fun r => lane (m.vget (m.reg a + r)) l)).getD r 0) x).done)))
    rasters (.grasS h vtid a6) [(m.sget a6.toNat, m.sget (a6.toNat + 1))] ∧
    rasters (.grasV h vtid a6) (m.active.map fun l => (lane (m.vget a6.toNat) l, lane (m.vget (a6.toNat + 1)) l)) ∧
    (Issues (.grep h d6 a6 vtid) h s m →
      (m.ctx.vbuf vtid.toNat = none → Completes (.grep h d6 a6 vtid) s ((m.of (.grep h d6 a6 vtid)).raise .prot 7 0)) ∧
      (∀ v, m.ctx.vbuf vtid.toNat = some v →
        (m.active = [] → Completes (.grep h d6 a6 vtid) s (m.of (.grep h d6 a6 vtid)).done) ∧
        (m.active ≠ [] → opEnters (.grep h d6 a6 vtid) s m (.grep (m.ctx.tensor vtid.toNat) (absSlot m.k.base d6.toNat) m.active
          ((List.range 5).map fun j => m.vget (a6.toNat + j)) 0)))) ∧
    builds (.gbldVtx h commit tid a6 b6) false ∧ builds (.gbldTri h commit tid a6 b6) true ∧
    (Issues (.gpatch h d6 a6 tid) h s m →
      (m.active = [] → Completes (.gpatch h d6 a6 tid) s (m.of (.gpatch h d6 a6 tid)).done) ∧
      (m.active ≠ [] → m.ctx.geom tid.toNat = none ∨ (∃ l ∈ m.active, 8192 ≤ (lane (m.vget (a6.toNat + 1)) l).toNat) →
        Completes (.gpatch h d6 a6 tid) s ((m.of (.gpatch h d6 a6 tid)).raise .prot 7 0)) ∧
      (∀ x, m.active ≠ [] → m.ctx.geom tid.toNat = some x → (∀ l ∈ m.active, (lane (m.vget (a6.toNat + 1)) l).toNat < 8192) →
        opEnters (.gpatch h d6 a6 tid) s m (.gpatch tid (m.ctx.tensor tid.toNat) (absSlot m.k.base d6.toNat) m.active []
          ((List.range 5).map fun j => m.vget (a6.toNat + j))))) ∧
    queries (.gqryV h mode d a tid) (m.active.map fun l => (l, (List.range 12).map fun j => lane (m.vget (m.reg a + j)) l))
      (fun n => n.vput (m.reg d) m.active fun l => BitVec.ofNat 32 l) ∧
    (3 ≤ m.reg a → queries (.gqryS h mode d a tid) [(96, (List.range 12).map fun j => m.sget (m.reg a + j))]
      fun n => n.sput (m.reg d) 96) ∧
    (Issues (.gqryS h mode d a tid) h s m → m.reg a < 3 →
      Completes (.gqryS h mode d a tid) s ((m.of (.gqryS h mode d a tid)).raise .illegal 0 0)) ∧
    (Issues (.gpopV h d a) h s m → m.active = [] → Completes (.gpopV h d a) s (m.of (.gpopV h d a)).done) ∧
    (m.active ≠ [] → pops (.gpopV h d a) (m.active.map fun l => (lane (m.vget (m.reg a)) l).toNat) fun n w =>
      (List.range 13).foldl (fun (x : Issue) r =>
        x.vput (m.reg d + r) m.active fun l => (w (lane (m.vget (m.reg a)) l).toNat).getD r 0) n) ∧
    (3 ≤ m.reg d → pops (.gpopS h d a) [(m.sget (m.reg a)).toNat] fun n w =>
      (List.range 13).foldl (fun (x : Issue) r => x.sput (m.reg d + r) ((w (m.sget (m.reg a)).toNat).getD r 0)) n) ∧
    (Issues (.gpopS h d a) h s m → m.reg d < 3 → Completes (.gpopS h d a) s ((m.of (.gpopS h d a)).raise .illegal 0 0)) ∧
    walks (.ginwSmp h d a b) .smp 4 5 ∧ walks (.ginwEdge h d a b) .edge 8 9 ∧ walks (.ginwRay h d a b) .ray 9 9 ∧
    (∀ (f : Inward) (n : Node) (c : Child) (x : List Word),
      let y := f.words n c x
      let pair := fun (l : List Word) (i : Nat) => (l.getD (2 * i + 1) 0 ++ l.getD (2 * i) 0 : DWord)
      let q := fun i => (pair y i).toInt
      let e : Int := 2 ^ (n.level - n.b + c.s)
      (∀ i, i < (match f with | .smp => 2 | .edge => 4 | .ray => 3) → pair y i = pair x i - BitVec.ofInt 64
        (c.off.axis (if f = .ray then i else i % 2) * 2 ^ (n.level - n.b) * if f = .ray then 2 ^ 16 else 1)) ∧
      (f = .smp → y.length = 5 ∧ y.getD 4 0 = if 0 ≤ q 0 ∧ q 0 ≤ e ∧ 0 ≤ q 1 ∧ q 1 ≤ e then 1 else 0) ∧
      (f = .edge → y.length = 9 ∧ ∀ i, (y.getD 8 0).getLsbD i =
        (decide (i < 4) && decide (0 ≤ (q 2 - q 0) * (e * (i / 2 % 2 : Nat) - q 1) - (q 3 - q 1) * (e * (i % 2 : Nat) - q 0)))) ∧
      (f = .ray → y.length = 9 ∧ ∀ i, i < 3 → y.getD (6 + i) 0 = x.getD (6 + i) 0)) ∧
    (∀ (n : Node) (o : Pos) (v j : Nat) (inst : BitVec 12) (node tri : Nat),
      (∀ e, n.esc.find? (fun e => e.used && e.vidx == v) = some e → n.pos o v = e.p) ∧
      (∀ p, n.esc.find? (fun e => e.used && e.vidx == v) = none → n.verts[v]? = some p → ∀ axis,
        (n.pos o v).axis axis = o.axis axis + p.axis axis * 2 ^ (n.level - n.b)) ∧
      (∀ ch, n.childs[j]? = some ch → (n.childAt o j).2 = n.level - n.b + ch.s ∧ ∀ axis,
        (n.childAt o j).1.axis axis = o.axis axis + ch.off.axis axis * 2 ^ (n.level - n.b)) ∧
      primitive node tri inst = (BitVec.ofNat 40 node ++ BitVec.ofNat 12 tri ++ inst : BitVec 64)) ∧
    (∀ (v0 v1 v2 : Pos) (cull : BitVec 2) (width height : Nat) (ident ident' : DWord) (x y depth : Nat),
      let E := fun (a b : Pos) (px py : Int) => (b.x - a.x) * (py - a.y) - (b.y - a.y) * (px - a.x)
      let area := E v0 v1 v2.x v2.y
      let u1 := if area < 0 then v2 else v1
      let u2 := if area < 0 then v1 else v2
      let at' := fun (a b : Pos) => E a b (256 * x + 128) (256 * y + 128)
      let covers := fun (a b : Pos) => 0 < at' a b ∨ (at' a b = 0 ∧ (b.y < a.y ∨ (b.y = a.y ∧ a.x < b.x)))
      (RasterTask.commit x y depth ident' ∈ triangleSamples v0 v1 v2 cull width height ident ↔
        ident' = ident ∧ x < width ∧ y < height ∧ area ≠ 0 ∧ ¬(cull = 1 ∧ area < 0) ∧ ¬(cull = 2 ∧ 0 < area) ∧
        covers u1 u2 ∧ covers u2 v0 ∧ covers v0 u1 ∧ depth ≤ 0xFFFFFFFE ∧
        (at' u1 u2 * v0.z + at' u2 v0 * u1.z + at' v0 u1 * u2.z) / area.natAbs = depth)) ∧
    (∀ (q : List Word), let w := fun i => (q.getD i 0).toNat
      let dir := fun k => single.value (w (6 + k))
      (rayOf q = none ↔ (∃ k, k < 3 ∧ ¬single.isFinite (w (6 + k))) ∨ (∀ k, k < 3 → dir k = 0) ∨ single.isNan (w 9) ∨
        (single.isInf (w 9) ∧ single.neg (w 9) = true) ∨ (single.isFinite (w 9) ∧ single.value (w 9) < 0)) ∧
      ∀ r, rayOf q = some r → r.kz < 3 ∧
        (∀ k, k < 3 → r.d k = dir k ∧ r.o k = ((q.getD (2 * k + 1) 0 ++ q.getD (2 * k) 0 : DWord).toInt : Rat) / 65536 ∧
          magOf (dir k) ≤ magOf (dir r.kz) ∧ (magOf (dir k) = magOf (dir r.kz) → r.kz ≤ k)) ∧
        (r.kx, r.ky) = (if dir r.kz < 0 then ((r.kz + 2) % 3, (r.kz + 1) % 3) else ((r.kz + 1) % 3, (r.kz + 2) % 3)) ∧
        (∀ k shear, (k = r.kx ∧ shear = r.sx) ∨ (k = r.ky ∧ shear = r.sy) → (dir k = 0 → shear = 0) ∧
          (dir k ≠ 0 → ∃ x : Res, RoundsTo ⟨11, 52, true⟩ .ne false (dir k / dir r.kz) x ∧ shear = (⟨11, 52, true⟩ : Shape).value x.1.toNat)) ∧
        r.tmax = (if single.isInf (w 9) then none else some (single.value (w 9))) ∧
        ∀ (v0 v1 v2 : Pos) (p0 p1 p2 : Rat × Rat),
          let flat := fun (v : Pos) (p : Rat × Rat) => ∀ k shear x, (k = r.kx ∧ shear = r.sx ∧ x = p.1) ∨ (k = r.ky ∧ shear = r.sy ∧ x = p.2) →
            let exact := (v.axis k : Rat) - r.o k - shear * ((v.axis r.kz : Rat) - r.o r.kz)
            (exact = 0 → x = 0) ∧
            (exact ≠ 0 → ∃ y : Res, RoundsTo ⟨11, 52, true⟩ .dn false exact y ∧ x = (⟨11, 52, true⟩ : Shape).value y.1.toNat)
          let U := fun (a b : Rat × Rat) => a.1 * b.2 - a.2 * b.1
          let counts := fun (a b : Rat × Rat) => U a b ≠ 0 ∨ b.2 < a.2 ∨ (b.2 = a.2 ∧ a.1 < b.1)
          let normal := fun k : Nat => let e := v1.sub v0
            let g := v2.sub v0
            ((e.axis ((k + 1) % 3) * g.axis ((k + 2) % 3) - e.axis ((k + 2) % 3) * g.axis ((k + 1) % 3) : Int) : Rat)
          let along := normal 0 * r.d 0 + normal 1 * r.d 1 + normal 2 * r.d 2
          let off := fun k : Nat => (v0.axis k : Rat) - r.o k
          (∀ v ∈ [v0, v1, v2], ∀ k, k < 3 → -2 ^ 64 < v.axis k ∧ v.axis k < 2 ^ 64) → flat v0 p0 → flat v1 p1 → flat v2 p2 → ∀ t, (r.hit v0 v1 v2 = some t ↔
            ((0 ≤ U p0 p1 ∧ 0 ≤ U p1 p2 ∧ 0 ≤ U p2 p0) ∨ (U p0 p1 ≤ 0 ∧ U p1 p2 ≤ 0 ∧ U p2 p0 ≤ 0)) ∧
            ¬(U p0 p1 = 0 ∧ U p1 p2 = 0 ∧ U p2 p0 = 0) ∧ counts p0 p1 ∧ counts p1 p2 ∧ counts p2 p0 ∧ along ≠ 0 ∧
            t * along = normal 0 * off 0 + normal 1 * off 1 + normal 2 * off 2 ∧ 0 ≤ t ∧ ∀ m, r.tmax = some m → t ≤ m)) ∧
    (∀ (x : QSlot) (t : QTask) (n : Node), x.mode ≠ .key →
      let o := if n.kind = 1 then n.origin else ⟨t.x, t.y, t.z⟩
      let good := n.ok = true ∧ n.dim = false ∧ (match t.lev with | none => n.kind = 1 | some l => n.kind = 0 ∧ n.level = l)
      let centre := fun k => (x.qrec.getD (2 * k + 1) 0 ++ x.qrec.getD (2 * k) 0 : DWord).toInt
      let distance := fun (p : Pos) => min ((p.x - centre 0) ^ 2 + (p.y - centre 1) ^ 2 + (p.z - centre 2) ^ 2).toNat (2 ^ 64 - 1)
      let limit := (x.qrec.getD 7 0 ++ x.qrec.getD 6 0 : DWord).toNat
      let near := ∃ p : Pos, distance p ≤ limit ∧ ∀ k, k < 3 → o.axis k ≤ p.axis k ∧ p.axis k ≤ o.axis k + 2 ^ n.level
      (¬good → boxVisit x t n = .fail 3) ∧
      (good → ∃ ts hs, boxVisit x t n = .go ts hs ∧
        (x.mode = .near ∨ x.mode = .any → ∀ h, h ∈ hs ↔ ∃ j tri r u, n.tris[j]? = some tri ∧ rayOf x.qrec = some r ∧
          r.hit (n.pos o tri.1) (n.pos o tri.2.1) (n.pos o tri.2.2) = some u ∧ h.ident = primitive t.node j (recInst x.qrec) ∧
          h.ord = u ∧ h.key.toNat < 2 ^ 32 ∧ (u = 0 → h.key = 0) ∧ (u ≠ 0 → ∃ fl, RoundsTo single .ne false u (h.key, fl))) ∧
        (x.mode = .near ∨ x.mode = .any ∨ x.mode = .knn ∨ t.lev = none ∨ n.ext = true ∨ near →
          ts.length = n.childs.length ∧ (∀ j ch, n.childs[j]? = some ch → ∃ y : QTask, ts[j]? = some y ∧ y.node = n.first + j ∧
            (⟨y.x, y.y, y.z⟩ : Pos) = (n.childAt o j).1 ∧ y.lev = some (n.level - n.b + ch.s)) ∧
          (x.mode = .rad ∨ x.mode = .knn → hs = if n.tris ≠ [] then [] else (List.range n.verts.length).filterMap fun v =>
            let d := distance (n.pos o v)
            if x.mode = .rad ∧ limit < d then none
            else some { ident := primitive t.node v (recInst x.qrec), key := BitVec.ofNat 64 d, ord := (d : Rat) })))) ∧
    (∀ (x : QSlot) (v desc : Nat), v.testBit 6 = true →
      let size := if desc % 2 = 0 then 4 else 8
      let signed := decide (2 ≤ desc % 4)
      let field := fun (at' bytes : Nat) => v / 2 ^ (8 * at') % 2 ^ (8 * bytes)
      let keysAt := desc / 2 ^ 24 % 256
      let valuesAt := desc / 2 ^ 40 % 256
      let n := field (desc / 2 ^ 16 % 256) 1
      let key : Nat → Int := fun i => let k := field (keysAt + i * size) size
        if signed ∧ 2 ^ (8 * size - 1) ≤ k then (k : Int) - 2 ^ (8 * size) else k
      let bound : Nat → Int := fun i => let b := (x.qrec.getD (i + 1) 0 ++ x.qrec.getD i 0 : DWord)
        if signed then b.toInt else b.toNat
      let good := v % 4 = 2 ∧ desc.testBit 7 = true ∧ desc / 2 ^ 16 % 256 < 128 ∧ n ≤ desc / 2 ^ 8 % 256 ∧
        (n = 0 ∨ keysAt + n * size ≤ 128 ∧ valuesAt + n * 4 ≤ 128) ∧ ∀ i, i + 1 < n → key i < key (i + 1)
      (¬good → userVisit x v desc = .fail 3) ∧
      (good → userVisit x v desc = .go [] ((List.range n).filterMap fun i => if bound 0 ≤ key i ∧ key i ≤ bound 2
        then some { ident := BitVec.ofNat 64 (field (valuesAt + i * 4) 4), key := BitVec.ofInt 64 (key i), ord := (key i : Rat) }
        else none))) ∧
    (∀ (r : Build) (line : Nat) (p : Pos) (word : Nat), r.node = nodeOf line → line < 2 ^ 1024 →
      let n := r.node
      let cell : Int := 2 ^ (n.level - n.b)
      let appends := fun (y : Build) (verts : List Pos) (tris : List (Nat × Nat × Nat)) (esc : List Esc) =>
        { y.node with raw := n.raw, verts := n.verts, tris := n.tris, esc := n.esc, fin := n.fin } = n ∧
        y.node.verts = n.verts ++ verts ∧ y.node.tris = n.tris ++ tris ∧ y.node.esc = esc ∧ y.node = nodeOf y.node.raw ∧
        y.origin = r.origin ∧ y.index = r.index
      let full := n.verts.length ≥ 24 ∨ 1024 < n.fin + 3 * (n.b + 1)
      let inside := ∀ k, k < 3 → 0 ≤ p.axis k - r.origin.axis k ∧ p.axis k - r.origin.axis k ≤ 2 ^ n.level ∧
        cell ∣ p.axis k - r.origin.axis k
      (full → r.vertex p = { r with status := r.status ||| 1 }) ∧
      (¬full → inside → (r.vertex p).status = r.status ∧ ∃ v : Pos, appends (r.vertex p) [v] [] n.esc ∧
        ∀ k, k < 3 → v.axis k * cell = p.axis k - r.origin.axis k) ∧
      (¬full → ¬inside → (∀ e ∈ n.esc, e.used = true) → r.vertex p = { r with status := r.status ||| 4 }) ∧
      (∀ before free after, ¬full → ¬inside → n.esc = before ++ free :: after → (∀ e ∈ before, e.used = true) → free.used = false →
        (∀ k, k < 3 → -2 ^ 47 ≤ p.axis k ∧ p.axis k < 2 ^ 47) →
        (r.vertex p).status = r.status ||| 2 ∧
        appends (r.vertex p) [⟨0, 0, 0⟩] [] (before ++ { p := p, vidx := n.verts.length, used := true } :: after)) ∧
      (let tri := (word % 32, word / 32 % 32, word / 1024 % 32)
        let good := word < 2 ^ 15 ∧ tri.1 < n.verts.length ∧ tri.2.1 < n.verts.length ∧ tri.2.2 < n.verts.length
        let room := n.tris.length < 16 ∧ n.fin + 15 ≤ 1024
        (¬good → r.triangle word = { r with status := r.status ||| 16 }) ∧
        (good → ¬room → r.triangle word = { r with status := r.status ||| 8 }) ∧
        (good → room → (r.triangle word).status = r.status ∧ appends (r.triangle word) [] [tri] n.esc)))

/-- Events of tile operations and queries: a product that has its turn completes: each element of its accumulator takes the block
sums of its row and column in turn, and FPFLAGS what they raise (R212, R220-R222; blocksum, fold and the read value:
Obligations.MatrixInstructions); a dense MRD writes its window to the active lanes of its registers, or line by line to memory (R223); an
operation of geometry with no work left with its statistics, a toggle that nothing in flight depends on, a TDEF once nothing
uses the old tile; the walk of a query takes its next node, whose hits join those found, and a query whose walk is over or whose
node fails becomes ready, in the order of its mode, up to three results at a time (R255, R257); a GRAS visits a node, with the samples
of its triangles and its children as its next work (R250), and is taken back to its roots; the only commit that can be made is made,
the least key staying in the element, or waits where its line is in flight; a GBLD appends its lanes in order, stores its record, and
commits its node where it is good (R253; a lane of it, a box and a leaf: Obligations.GeometryInstructions); a weight load takes its next line, and with its last is READY and counted down.
(What it rests on that is the model's choice: log 5, 25, 115.) -/
def Obligations.EngineEvents : Prop :=
  (∀ (q : QId) (op slot : Nat) (s : State) (g : Group) (o : TileOp), s.group? q = some g → s.stilled q = false →
    (g.op? op = some o →
      (∀ g1, o.kind.counts = none → (∀ t x, o.kind ≠ .publish t (some x)) → (∀ t i, o.kind ≠ .tdef t i true) →
        g.tileDone o = some g1 → Completes (.tileOpComplete q op) s
          (((s.count (g.host / 8) (some g.ctx) 0x0B o.kind.blocks).setGroup q g1).opDone q op)) ∧
      (∀ acc, o.kind = .mclr acc → g.accTurn o.id acc = true →
        g.tileDone o = some { g with acc := g.acc.set acc ((g.acc.getD acc []).map fun r => r.map fun _ => (0, 0)) }) ∧
      (∀ acc t aty a asc w, o.kind = .mma acc t aty a asc w → g.accTurn o.id acc = true → acc < g.acc.length →
        (g.acc.getD acc []).length = 96 → (∀ r ∈ g.acc.getD acc [], r.length = 64) →
        let weight := fun n k => if t then (w.tile.getD k []).getD n none else (w.tile.getD n []).getD k none
        let terms := fun m n b => (List.range 32).filterMap fun j =>
          (weight n (32 * b + j)).map fun v => mvalMul ((aRow aty a asc m).getD (32 * b + j) .nanScale) v
        let sum := fun m n => (List.range (tileK aty / 32)).foldl (fun (x : (Word × Word) × FFlags) b =>
          let p := blockSum (terms m n b)
          let y := fold x.1 p.1
          (y.1, x.2 ||| p.2 ||| y.2)) ((g.acc.getD acc []).at' m n, 0)
        ∃ g1, g.tileDone o = some g1 ∧ (∀ m n, m < 96 → n < 64 → (g1.acc.getD acc []).at' m n = (sum m n).1) ∧
          (∀ b, b ≠ acc → g1.acc.getD b [] = g.acc.getD b []) ∧ { g1 with acc := g.acc, fpflags := g.fpflags } = g ∧
          ∀ i, g1.fpflags.getLsbD i = true ↔ g.fpflags.getLsbD i = true ∨ ∃ m n, m < 96 ∧ n < 64 ∧ (sum m n).2.getLsbD i = true) ∧
      (∀ acc ty c0 n slots ls, o.kind = .mrdV acc ty c0 n slots ls → g.accTurn o.id acc = true → g.ring ≠ [] →
        slots.Pairwise (fun x y => ¬SamePlace g x y) → tyBits ty ∈ [8, 16, 32, 64] →
        let elem := fun m j => readElem ty ((g.acc.getD acc []).at' m (c0 + j))
        ∃ g1, g.tileDone o = some g1 ∧ g1.acc = g.acc ∧ g1.splits = g.splits ∧ (∀ x, g1.scal x = g.scal x) ∧
          (∀ x, (∀ y ∈ slots, ¬SamePlace g x y) → g1.vec x = g.vec x) ∧
          (∀ i x m, slots[i]? = some x → m < 96 → let after := lane (g1.vec x) m
            (ls.getLsbD m = false → after = lane (g.vec x) m) ∧
            (ls.getLsbD m = true → tyBits ty = 64 → after = (BitVec.ofNat 64 (elem m (i / 2)).1).extractLsb' (32 * (i % 2)) 32) ∧
            (ls.getLsbD m = true → ∀ p k, tyBits ty * p = 32 → k < p →
              after.extractLsb' (tyBits ty * k) (tyBits ty) = BitVec.ofNat (tyBits ty) (elem m (i * p + k)).1)) ∧
          ∀ i, g1.fpflags.getLsbD i = true ↔ g.fpflags.getLsbD i = true ∨ ∃ m j, m < 96 ∧ ls.getLsbD m = true ∧ j < n ∧ (elem m j).2.getLsbD i = true) ∧
      (∀ acc ty c0 n lines line off key len, o.kind = .mrdS acc ty c0 n lines → lines[line]? = some (off, key, len) → 0 < n →
        let start := Completes (.engineLine (.tile q op) line) s
        (g.accTurn op acc = false ∨ s.inFlightAt key len = true → start s) ∧
        (g.accTurn op acc = true → s.inFlightAt key len = false → 0 < len → ∃ bs : List Byte, bs.length = len ∧
          (∀ i, i < len → let e := tyBytes ty
            let j := (off + i) / e
            bs[i]? = some ((BitVec.ofNat 64 (readElem ty ((g.acc.getD acc []).at' (j / n) (c0 + j % n))).1).extractLsb' (8 * ((off + i) % e)) 8)) ∧
          start ((s.storeHome (some g.host) key bs 0).setGroup q (g.setOp { o with kind := .mrdS acc ty c0 n (lines.eraseIdx line) })))) ∧
      (∀ acc ty c0 n, o.kind = .mrdS acc ty c0 n [] → ∃ g1, g.tileDone o = some g1 ∧ { g1 with fpflags := g.fpflags } = g ∧
        ∀ i, g1.fpflags.getLsbD i = true ↔ g.fpflags.getLsbD i = true ∨
          ∃ m j, m < 96 ∧ j < n ∧ (readElem ty ((g.acc.getD acc []).at' m (c0 + j))).2.getLsbD i = true) ∧
      (∀ v im rs work pr sa pa bd po dr line r i x y z lev, o.kind = .gras v im rs work pr sa pa bd po dr →
        work[line]? = some (.visit r i x y z lev) →
        let u := s.rasterVisit (s.who g) g.ctx (tensorOf im) r i ⟨x, y, z⟩ lev
        let k : TileKind := .gras v im rs (work.take line ++ u.2.tasks ++ work.drop (line + 1)) (pr + u.2.prims) (sa + u.2.samples) pa
          (bd + u.2.bad) (po + u.2.poison) dr
        Completes (.engineLine (.tile q op) line) s ((u.1.count (g.host / 8) (some g.ctx) 0x0D 1).setGroup q (g.setOp { o with kind := k }))) ∧
      (∀ tri commit tid img off ls a line, o.kind = .gbld tri commit tid img off ls a false →
        let r := s.buildStep (s.who g) g.ctx tri commit tid img off ls a
        (g.buildTurn op off = false ∨ r = none → Completes (.engineLine (.tile q op) line) s s) ∧
        (∀ s1, g.buildTurn op off = true → r = some s1 → Completes (.engineLine (.tile q op) line) s
          (s1.setGroup q (g.setOp { o with kind := .gbld tri commit tid img off ls a true })))) ∧
      (∀ l, o.kind.counts = some l → Completes (.tileOpComplete q op) s ((s.stats g.ctx l).opDone q op)) ∧
      (∀ t x, o.kind = .publish t (some x) → s.inFlight g.ctx t x = false → Completes (.tileOpComplete q op) s (s.opDone q op)) ∧
      (∀ t i, o.kind = .tdef t i true → s.tidUsed g.ctx t = false → Completes (.tileOpComplete q op) s (s.opDone q op)) ∧
      Completes (.grasReplay q op) s (s.setGroup q (g.setOp { o with kind := o.kind.replay })) ∧
      (∀ v im rs pr sa pa bd po dr x y z w, o.kind = .gras v im rs [.commit x y z w] pr sa pa bd po dr →
        let r := ({ s with choices := s.choices + 1 } : State).commitSample (s.who g) g.host (tensorOf im) x y z w
        (r = none → Completes (.sampleCommit q op) s s) ∧
        (∀ s1 pass drop, r = some (s1, pass, drop) →
          let k : TileKind := .gras v im rs [] pr sa (pa + pass.toNat) bd po (dr + drop.toNat)
          Completes (.sampleCommit q op) s
            ((s1.count (g.host / 8) (some g.ctx) 0x0C (!drop).toNat).setGroup q (g.setOp { o with kind := k }))))) ∧
    (∀ x, g.qslot slot = some x → x.active = true → x.ready = false →
      (x.over = true → Completes (.queryRoundReady q slot) s (s.putQuery q (x.round 0))) ∧
      (x.over = false → ∀ t r, x.walk = t :: r →
        let v := (s.count (g.host / 8) (some g.ctx) 0x0D 1).queryVisit (s.who g) g.ctx x t
        (∀ st, v.2 = .fail st → t.quiet = false → Completes (.queryRoundReady q slot) s (v.1.putQuery q (x.round st))) ∧
        (∀ ts hs, v.2 = .go ts hs →
          let y : QSlot := { x with walk := ts ++ r, found := x.join hs }
          (y.over = false → Completes (.queryRoundReady q slot) s (v.1.putQuery q y)) ∧
          (y.over = true → Completes (.queryRoundReady q slot) s (v.1.putQuery q (y.round 0))))))) ∧
  (∀ (s : State) (w : Who) (host x y depth : Nat) (buf : Tensor) (ident : DWord),
    let at' := Chk.parts { s := s, memo := [] } w buf.space (lowBits 64 (buf.base0 + y * buf.stride + 16 * x)) 16 false true
    let r := s.commitSample w host buf x y depth ident
    (∀ c e, at' = (c, .error e) → r = some (c.s, false, true)) ∧
    (∀ c ps, at' = (c, .ok ps) → let old := leNat ((c.s.readParts ps).take 12)
      let key := depth * 2 ^ 64 + ident.toNat
      (c.s.flightParts ps = true → r = none) ∧
      (c.s.flightParts ps = false → (key < old → r = some (c.s.storeParts host (leBytes 16 key) ps, true, false)) ∧
        (old ≤ key → ∃ pass, r = some (c.s, pass, false))))) ∧
  (∀ (s : State) (w : Who) (ctx i : Nat) (buf : Tensor) (r : Root) (o : Pos) (lev : Option Nat),
    let entry := s.entryNow ctx r.gtid r.image
    let v := s.rasterVisit w ctx buf r i o lev
    (∀ s1, s.fetchNode w entry i false = .poison s1 → v = (s1, ⟨[], 0, 0, 0, 1⟩)) ∧
    (∀ s1, s.fetchNode w entry i false = .bad s1 → v = (s1, ⟨[], 0, 0, 1, 0⟩)) ∧
    (∀ s1 n ps, s.fetchNode w entry i false = .node s1 n ps →
      let good := n.ok = true ∧ i < entry.nodes ∧ n.dim = true ∧ (match lev with | none => n.kind = 1 | some l => n.kind = 0 ∧ n.level = l)
      let from' := if n.kind = 1 then n.origin else o
      (¬good → v = (s1, ⟨[], 0, 0, 1, 0⟩)) ∧
      (good → ∃ samples kids, v.1 = s1 ∧ v.2.tasks = samples ++ kids ∧ v.2.bad = 0 ∧ v.2.poison = 0 ∧ v.2.samples = samples.length ∧
        samples = ((List.range n.tris.length).map fun j => let t := n.tris.getD j (0, 0, 0)
          triangleSamples (n.pos from' t.1) (n.pos from' t.2.1) (n.pos from' t.2.2) r.cull (buf.cols / 4) buf.rows
            (primitive i j r.inst)).flatten ∧
        kids.length = n.childs.length ∧ ∀ j ch, n.childs[j]? = some ch → let c := (n.childAt from' j).1
          kids[j]? = some (.visit r (n.first + j) c.x c.y c.z (some (n.level - n.b + ch.s)))))) ∧
  (∀ (s : State) (w : Who) (ctx : Nat) (x : QSlot) (t : QTask),
    let entry := s.entryNow ctx (recGtid x.qrec) x.image
    let v := s.queryVisit w ctx x t
    (∀ s1, s.fetchNode w entry t.node false = .poison s1 → v = (s1, .fail 2)) ∧
    (∀ s1, s.fetchNode w entry t.node false = .bad s1 → v = (s1, .fail 3)) ∧
    (∀ s1 n ps, s.fetchNode w entry t.node false = .node s1 n ps →
      (entry.nodes ≤ t.node → v = (s1, .fail 3)) ∧ (t.node < entry.nodes → x.mode ≠ .key → v = (s1, boxVisit x t n)) ∧
      (t.node < entry.nodes → x.mode = .key → v =
        (s1, userVisit x n.raw (s1.homeNat ((s1.ctx ctx).qkey (0x100 + 16 * (n.raw / 4 % 16))) 16))))) ∧
  (∀ (x : QSlot) (hs : List QHit) (status : Byte),
    let first := fun (a b : QHit) => a.ord < b.ord ∨ (a.ord = b.ord ∧ a.ident.toNat ≤ b.ident.toNat)
    (x.mode = .rad → x.join hs = x.found ++ hs) ∧ (x.mode = .any → x.join hs = (x.found ++ hs).take 1) ∧
    (x.mode ∈ ([.near, .knn, .key] : List QMode) → x.found.Pairwise first → ∃ l : List QHit, l.Perm (x.found ++ hs) ∧ l.Pairwise first ∧
      x.join hs = if x.mode = .near then l.take 1 else if x.mode = .knn then l.take (x.qrec.getD 6 0).toNat else l) ∧
    let y := x.round status
    y.ready = true ∧ y.owed = false ∧ y.walk = [] ∧ y.found = [] ∧
      (status = 0 ∨ x.mode ∈ ([.any, .rad, .key] : List QMode) →
        y.results = ((x.found.drop x.delivered).take 3).map (fun h => (⟨h.ident, h.key⟩ : QResult)) ∧
        y.status = if x.delivered + 3 < x.found.length then 1 else status) ∧
      (status ≠ 0 → x.mode ∈ ([.near, .knn] : List QMode) → y.results = [] ∧ y.status = status)) ∧
  (∀ (s : State) (w : Who) (ctx core base size : Nat) (tri commit : Bool) (tid : Tid) (img : BitVec 256) (off : Nat) (ls : List Nat)
      (a : List VReg), w.sp = some (core, base, size) →
    let key := spKey core (base + off)
    let built := (buildOf (s.homeNat key 160)).lanes tri a ls
    let t := s.entryNow ctx tid img
    let good := built.node.ok = true ∧ built.index < t.nodes
    let shadow := Chk.parts { s := s, memo := [] } w t.space (t.nodeAt built.index true) 128 false true
    let r := s.buildStep w ctx tri commit tid img off ls a
    let saves := fun (s1 : State) (status : Nat) => ∃ bs : List Byte, bs.length = 160 ∧ leNat (bs.take 128) = built.node.raw ∧
      bs[152]? = some (BitVec.ofNat 8 status) ∧ (∀ i, 128 ≤ i → i < 160 → i ≠ 152 → bs[i]? = (s.readHome key 160)[i]?) ∧
      r = some (s1.storeHome (some core) key bs 0)
    (commit = false → saves s built.status) ∧
    (commit = true → ¬good → saves s (built.status ||| 32)) ∧
    (commit = true → good → (∀ c e, shadow = (c, .error e) → saves c.s (built.status ||| 32)) ∧
      ∀ c ps, shadow = (c, .ok ps) → (c.s.flightParts ps = true → r = none) ∧
        (c.s.flightParts ps = false → saves (c.s.storeParts core (leBytes 128 built.node.raw) ps) built.status))) ∧
  (∀ (r : Build) (tri : Bool) (a : List VReg) (l : Nat) (ls : List Nat), r.lanes tri a [] = r ∧
    let words := fun i => lane (a.getD i VReg.zero) l
    let axis := fun i => (words (2 * i + 1) ++ words (2 * i) : DWord).toInt
    r.lanes tri a (l :: ls) = (if tri then r.triangle (words 0).toNat else r.vertex ⟨axis 0, axis 1, axis 2⟩).lanes tri a ls) ∧
  (∀ (core no : Nat) (s : State) (w : WEntry) (g : Group), (s.core core).wbuf.find? (fun w => w.no == no) = some w →
    w.st = .loading → w.paused = false → s.group? w.issuer = some g →
    let all := tileFetch (tensorOf w.image) w.prog w.r0 w.c0 w.layer
    (all.length ≤ w.cursor → Completes (.engineLine (.wbuf core no) w.cursor) s
      (((s.setW core { w with st := .ready }).dropDoomed core).countDown w.issuer .tiles)) ∧
    (w.cursor < all.length →
      let l := lineAt all w.cursor
      let lo := minOf (l.map (·.va))
      let n := maxOf (l.map (·.va)) + 1 - lo
      let r := Chk.loc { s := s, memo := [] } { ctx := w.owner, core := g.host, sp := none } (tensorOf w.image).space lo n true false
      (∀ e, r.2 = .error e → Completes (.engineLine (.wbuf core no) w.cursor) s (r.1.s.wForward core w e)) ∧
      (∀ k, r.2 = .ok k →
        let bs := r.1.s.readHome k.key n
        let w1 := { w.fill (l.map fun x => (x, bs.getD (x.va - lo) 0)) with cursor := w.cursor + l.length }
        (w.cursor + l.length < all.length → Completes (.engineLine (.wbuf core no) w.cursor) s (r.1.s.setW core w1)) ∧
        (all.length ≤ w.cursor + l.length → Completes (.engineLine (.wbuf core no) w.cursor) s
          (((r.1.s.setW core { w1 with st := .ready }).dropDoomed core).countDown w.issuer .tiles)))))

/-- The fused sequence: with the checks of its four instructions passed and no trap of theirs enabled, the four results are
those of VMAX, VSUB, VEXP2 and VADD in order, each reading what the one before wrote; the PC is behind the fourth, which goes on
in sequence (R156). An enabled trap is raised at the VMAX with nothing else changed (R157). -/
def Obligations.FusedSequence : Prop :=
  ∀ (f : FusedOps) (s : State) (m : Issue), s.issuer f.h1 = some m → (∀ i ∈ fusedInstrs f, m.verdict i = .go) →
    let md := m.g.fpmode
    let put := fun (n : Issue) (d : RegNo) (r : Nat → Res) => n.vputT .f32 d.toNat n.active fun l => (r l).1
    let r1 := fun l => arith2 .max .f32 md .ne (m.vval .f32 f.vP.toNat l) (m.vval .f32 f.vQ.toNat l)
    let n1 := put (m.of (.fusedExpSum f)) f.vM r1
    let r2 := fun l => arith2 .sub .f32 md .ne (n1.vval .f32 f.vX.toNat l) (n1.vval .f32 f.vM.toNat l)
    let n2 := put n1 f.vE r2
    let r3 := fun l => funOp .exp2 .f32 md .ne (n2.vval .f32 f.vE.toNat l)
    let n3 := put n2 f.vF r3
    let r4 := fun l => arith2 .add .f32 md .ne (n3.vval .f32 f.vT.toNat l) (n3.vval .f32 f.vF.toNat l)
    let n4 := put n3 f.vS r4
    let fl := laneFlags m r1 ||| laneFlags m r2 ||| laneFlags m r3 ||| laneFlags m r4
    (m.g.fpTraps fl = false → ∃ x : Issue, Completes (.fusedExpSum f) s x.done ∧ x.g = n4.g.orFlags fl ∧
      x.k = { n4.k with pc := m.k.pc + BitVec.ofNat 64 (4 * fusedLead f) } ∧ x.h = f.h4 ∧
      { x.s with runs := s.runs } = s) ∧
    (m.g.fpTraps fl = true → Completes (.fusedExpSum f) s
      (({ m with k := if m.k.inHandler then { m.k with noFuseIn := some m.k.pc } else { m.k with noFuse := some m.k.pc } } : Issue).raise .fpexc 0 0))

/-! ## Jobs, gangs, Sillage, faults -/

/-- A pending gang of an active job that is first for its core, finds the front free or its own and room, in a cluster of its
context's mode, is placed, and the state of every group is as follows: s0, s1 and s2 are all ones in its single split, the PC is
WENTRY, every slot of its allotment, the scalars, the index registers, the loop counters and the four counters are zero, the
window base is 0, the stack is empty, and the scratchpad region and the accumulator tiles read as zero (no line being poisoned).
(What it rests on that is the model's choice: log 29.) -/
def Obligations.PlacedGroups : Prop :=
  ∀ (gang sp : Nat) (s : State) (x : Gang) (j : Job) (places : List (Nat × Nat)), s.gang? gang = some x → s.job? x.job = some j →
    x.state = .pending → j.state = .active → s.firstFor x x.lcore = true → x.held = false → j.det = false ∨ j.replay = false →
    s.poisoned = [] → s.tags = [] →
    (j.fentry = 0 ∨ (s.core x.lcore).front = none ∨ ∃ f, (s.core x.lcore).front = some f ∧ f.job = j.uid) →
    (s.cluster (x.lcore / 8)).fixed = (s.ctx j.ctx).fixed → s.room x.lcore j = some (places, sp) →
    ∃ t y, Completes (.gangPlace gang) s t ∧ t.gang? gang = some y ∧ y.state = .resident ∧ y.host = x.lcore ∧ y.spBase = sp ∧
      y.groups.length = places.length ∧
      (∀ n, n < 256 * j.spUnits → t.readHome (spKey y.host (y.spBase + n)) 1 = [0]) ∧
      ∀ g ∈ y.groups,
        (∃ k, g.splits = [k] ∧ k.mask = BitVec.allOnes 96 ∧ k.owned = BitVec.allOnes 96 ∧ k.pc = j.wentry ∧ k.base = 0 ∧
          ∀ i, k.lcGet i = 0) ∧
        (∀ n l, l < 96 → lane (g.vec n) l = 0) ∧ (∀ n, g.scal n = 0) ∧ (∀ i, word g.x i = 0) ∧ g.ring.length = j.allot - 8 ∧
        g.loads = 0 ∧ g.stores = 0 ∧ g.copies = 0 ∧ g.tiles = 0 ∧ g.stack = [] ∧
        ∀ tile ∈ g.acc, ∀ r ∈ tile, ∀ p ∈ r, p = (0, 0)

/-- Events of jobs. A launch record is read behind an Import step: one that is well formed becomes a job, its gangs pending, which
is ACTIVE where its dependences hold; one whose index names no slot is reported in the refusal record of the area; an ill-formed
one completes its slot with BAD_DESC. A retired gang with nothing outstanding gives up its groups, its region and the area it has
been saved in; a front that has ended, its gangs retired, gives up its core, and the decisions of its job are discarded; a job
whose groups all wait in DEQ with drained queues becomes QUIESCENT; a job whose gangs have retired and whose fronts have ended,
or that has been stopped, completes its slot once nothing of it is left to perform, with the status that tells what it leaves.
RUN_ISSUE: on a scheduler without a run in progress, the candidate that R55 picks starts a run: it is ISSUING and the youngest of
the runs; a window that is not resident is made so first. A split whose window Sillage cannot make resident yet is no candidate, and
which of two candidates runs where one lacks its window is free. A job that replays expects the events of the trace at TRACEADDR,
none where another firmware has recorded it; one that records leaves its trace there where it fits
(R30, R32, R34, R46, R47, R49, R55, R59, R110, R301).
(What it rests on that is the model's choice: log 5, 15, 48, 52, 101, 103, 110, 114.) -/
def Obligations.JobEvents : Prop :=
  (∀ (n core : Nat) (s : State) (c : Context) (j : Job) (x : Gang) (f : Front) (r : Ring),
    (s.ctx? n = some c → s.attached = true → s.ring? c 0 64 = some r → r.count ≠ 0 → s.importStalls = false →
      let s1 := s.importStep none
      let w := s1.homeNat (c.qkey (r.entry 64 r.head)) 64
      let s2 := s1.ringPop r
      let cidx := w / 2 ^ 64 % 2 ^ 19
      (c.slotOf cidx = none → Completes (.launchRead n) s
        ((s2.storeNat (c.qkey 0xC8) 8 r.head).storeNat (c.qkey 0xC0) 8 (s2.homeNat (c.qkey 0xC0) 8 + 1))) ∧
      ((c.slotOf cidx).isSome = true → r.head ∈ c.aborted → Completes (.launchRead n) s
        ((s2.setCtx { s2.ctx n with aborted := c.aborted.filter fun k => k != r.head }).complete c cidx stAborted)) ∧
      ((c.slotOf cidx).isSome = true → r.head ∉ c.aborted → s2.launchOk c w = false →
        Completes (.launchRead n) s (s2.complete c cidx stBadDesc)) ∧
      ((c.slotOf cidx).isSome = true → r.head ∉ c.aborted → s2.launchOk c w = true →
        let j0 := jobOfRecord s2.nextUid n r.head w (s2.homeNat (c.qkey (w % 2 ^ 23)) 256) s2.nextSeq
        let gs := j0.gangs (s2.nextUid + 1)
        gs.length = j0.ccount * j0.wpc ∧ (∀ y ∈ gs, y.state = .pending ∧ y.job = j0.uid ∧ y.placed = false) ∧
        ∃ j1, { j1 with expected := [] } = j0 ∧ (j0.replay = false → j1 = j0) ∧
          (j0.det = true → j0.replay = true → j1.expected = readTrace s2.firmware (s2.ctxBytes c j0.traceAddr.toNat j0.traceSz)) ∧
          Completes (.launchRead n) s
            ({ s2 with jobs := s2.jobs ++ [j1], gangs := s2.gangs ++ gs, nextUid := s2.nextUid + 1 + gs.length } : State).recheck)) ∧
    (s.gang? n = some x → x.state = .retired → x.groups ≠ [] → x.cmds = [] →
      (x.groups.any fun y => s.outstanding (.group n y.idx) y) = false →
      let s1 := s.setGang { x with groups := [], spSize := 0, stage := 0 }
      (x.stage = 0 → Completes (.gangResourceRelease n) s s1) ∧
      (x.stage ≠ 0 → s.job? x.job = some j → Completes (.gangResourceRelease n) s
        (s1.setCtx { s.ctx j.ctx with areas := (s.ctx j.ctx).areas.filter fun a => a.1 != x.saveOff }))) ∧
    ((s.core core).front = some f → f.ended = true → s.outstanding (.front core) f.group = false →
      (∀ y ∈ s.gangs, y.job = f.job → y.lcore = core → y.state = .retired) →
      let others := fun l : List Decision => l.filter fun d => d.job != f.job
      Completes (.frontRelease core) s (s.setCore { s.core core with
        front := none, dq := others (s.core core).dq
        saved := (s.core core).saved.map fun y => (y.1, y.2.1, y.2.2.1, others y.2.2.2) })) ∧
    (s.job? n = some j → j.state = .active → s.allInDeq n = true → s.liveGroups n ≠ [] →
      s.reserving (fun y => y.job == n) none = false →
      (∀ q ∈ j.queues, (s.qhead (s.ctx j.ctx) q).head = (s.qhead (s.ctx j.ctx) q).tail ∧ (s.qhead (s.ctx j.ctx) q).hold = false) →
      Completes (.jobEndCondition n) s ((s.setJob { j with state := .quiescent }).endTokens n)) ∧
    (s.job? n = some j → s.opsLeft n = false →
      let ends := fun (t : State) (status : Nat) => Completes (.jobComplete n) s
        ((t.setJob { j with state := .complete, status := BitVec.ofNat 8 status }).complete (t.ctx j.ctx) j.cidx status)
      let trace := s.writeTrace (s.ctx j.ctx) j
      let drained := ∀ q ∈ j.queues, (s.qhead (s.ctx j.ctx) q).head = (s.qhead (s.ctx j.ctx) q).tail
      (j.state = .stopped → ends s j.status.toNat) ∧
      (j.state = .active ∨ j.state = .quiescent → (∀ y ∈ s.gangs, y.job = n → y.state = .retired) →
        (∀ k ∈ s.cores, ∀ y, k.front = some y → y.job = n → y.ended = true) →
        (j.det = false → trace = (s, true)) ∧
        (j.det = true → j.replay = false → (trace.2 = true ↔ (traceFile s.firmware j.trace).length ≤ j.traceSz)) ∧
        (trace.2 = false → ends trace.1 stTraceFull) ∧
        (trace.2 = true → drained → ends trace.1 stDone) ∧ (trace.2 = true → ¬drained → ends trace.1 stUndrained)))) ∧
  (∀ (core sched : Nat) (s : State) (a c : Cand), (s.runs.any fun r => r.core == core && r.sched == sched) = false →
    let now := (s.core core).now sched + 1
    let all := (s.cands core sched).filter fun x => !s.unready x.g x.k
    let ready := pickCand now (all.filter fun x => x.g.resident x.k.wants)
    let s0 : State := { s with choices := s.choices + 1 }
    pickCand now all = some a → c = (if Config.freeBool s.choices then a else ready.getD a) →
    (c.g.resident c.k.base = true → Completes (.runIssue core sched) s (s0.startRun core sched now c)) ∧
    (c.g.resident c.k.base = false →
      ∀ s1 g1, s0.window c.g c.k.pos c.g.bases c.k.base noMid = (s1, g1, .ok) →
        Completes (.runIssue core sched) s ((s1.setGroup (qidOf c.agent) g1).startRun core sched now { c with g := g1 }))) ∧
  (∀ (fw fw' : List DWord) (events : List (List Nat)) (rest : List Byte),
    ((∀ e ∈ events, e ≠ [] ∧ e.length < 2 ^ 64 ∧ ∀ x ∈ e, x < 2 ^ 64) → readTrace fw (traceFile fw events ++ rest) = events) ∧
    (fw'.length = fw.length → fw' ≠ fw → readTrace fw (traceFile fw' events ++ rest) = []))

/-- Events of Sillage and traps: a spillable slot that nothing has yet to write, or the lowest of more than 16 stack entries, is
spilled early, and a spilled slot refilled where its position is free, or the topmost spilled entry where the core holds fewer
than 16; a transfer that meets a fault is abandoned and nothing changes; a trap enters its handler once its group's queues are empty
and its copies and tiles counters zero, and goes to the host once the queues are empty; until then it waits (R210); a waiting record
is written at TAIL of the fault ring.
(What it rests on that is the model's choice: log 30, 51, 99.) -/
def Obligations.SillageAndFaultEvents : Prop :=
  ∀ (q : QId) (n : Nat) (s s1 : State) (g g1 : Group) (ag : Agent) (c : Context) (r : Ring) (fr : BitVec 512) (rest : List (BitVec 512)),
    (s.group? q = some g → g.isFront = false → s.onCore q = true →
      (8 ≤ n → (g.at' n).abs = some n → (g.at' n).clean = false → g.spillable n = true → g.vecPending n = false →
        g.scalPending (.slot n) = false →
        (s.spillSlot g n = (s1, .ok g1) → Completes (.sillageSpill q (.slot n)) s (s1.setGroup q g1)) ∧
        (∀ e, s.spillSlot g n = (s1, .error e) → Completes (.sillageSpill q (.slot n)) s s)) ∧
      (16 < g.held →
        (s.spillEntry g = (s1, .ok g1) → Completes (.sillageSpill q (.entry g.spilled)) s (s1.setGroup q g1)) ∧
        (∀ e, s.spillEntry g = (s1, .error e) → Completes (.sillageSpill q (.entry g.spilled)) s s)) ∧
      (n ∈ g.out → g.positionFree n = true →
        (s.fillWindow (g.refillPos n) (g.bases ++ g.parkedBases) (g.yield n) [n] = (s1, g1, .ok) →
          Completes (.sillageRefill q (.slot n)) s (s1.setGroup q g1)) ∧
        (∀ e, s.fillWindow (g.refillPos n) (g.bases ++ g.parkedBases) (g.yield n) [n] = (s1, g1, .bad e) →
          Completes (.sillageRefill q (.slot n)) s s)) ∧
      (n + 1 = g.spilled → g.held < 16 →
        (s.refillEntry g = (s1, g1, .ok) → Completes (.sillageRefill q (.entry n)) s (s1.setGroup q g1)) ∧
        (∀ e, s.refillEntry g = (s1, g1, .bad e) → Completes (.sillageRefill q (.entry n)) s s))) ∧
    (∀ k t, s.group? (qidOf ag) = some g → g.split? (splitNoOf ag) = some k → k.trap = some t →
      let u := (s.count (g.host / 8) (some g.ctx) 0x0E 1).takeTrap (qidOf ag) g k t
      let toHost := g.isFront = true ∨ k.inHandler = true ∨ g.tbase = 0
      (¬toHost → g.drained = true → g.copies = 0 → g.tiles = 0 → Completes (.trapEntry ag) s u) ∧
      (toHost → g.drained = true → Completes (.faultForward (.agent ag)) s u) ∧
      (g.drained = false ∨ g.copies ≠ 0 ∨ g.tiles ≠ 0 → Completes (.trapEntry ag) s s) ∧
      (g.drained = false → Completes (.faultForward (.agent ag)) s s)) ∧
    (s.ctx? n = some c → c.heldFaults = fr :: rest → s.ring? c 0x20 64 = some r → r.count < r.cap →
      Completes (.faultRecordAppend n) s
        (((s.setCtx { c with heldFaults := rest }).storeHome none (c.qkey (r.entry 64 r.tail)) (leBytes 64 fr.toNat) 0).ringPush r))

/-! ## Host commands, migration, eviction, clocks, links -/

/-- Commands of the command ring, each with HEAD moved past it: RESUME of a sleeper lets it go on, of a number that names none
does nothing; ABORT stops every unfinished job of the context with the index, once none of them is within a run, and marks those
whose launch records have not been read; an OP other than
1 to 3 does nothing; MIGRATE whose ARG names no descriptor does nothing, and otherwise reports 4 for a reserved bit or a misaligned
address, 1 where no leaf maps it, 2 where NEWPTE names no page of that size, 3 where the page is already on its way, or starts
(R304, R305). (What it rests on that is the model's choice: log 52, 63, 65, 66, 109, 114.) -/
def Obligations.HostCommands : Prop :=
  ∀ (ctx : Nat) (s s1 : State) (r : Ring) (arg op : Nat), s.command ctx = some (s1, r, op, arg) →
    (op = 1 → ((s1.ctx ctx).sleepers.find? (fun f => f.1 == arg) = none → Completes (.resume ctx) s (s1.ringPop r)) ∧
      (∀ src, (s1.ctx ctx).sleepers.find? (fun f => f.1 == arg) = some (arg, src) →
        Completes (.resume ctx) s (((s1.setCtx { s1.ctx ctx with
          sleepers := (s1.ctx ctx).sleepers.filter fun f => f.1 != arg }).resumeSrc ctx src).ringPop r))) ∧
    (op = 2 →
      let js := s1.jobs.filter fun x => x.ctx == ctx && x.cidx == arg && x.state != .complete && x.state != .stopped
      ((∀ j ∈ js, s1.jobBusy j.uid = false) →
        let t := js.foldl (fun t j => t.stopJob j stAborted) s1
        Completes (.abort ctx) s ((t.abortQueued ctx arg).ringPop r) ∧
        ∀ c q, t.ctx? ctx = some c → t.ring? c 0 64 = some q →
          { t.abortQueued ctx arg with contexts := t.contexts } = t ∧
          { (t.abortQueued ctx arg).ctx ctx with aborted := c.aborted } = c ∧
          ∀ n, n ∈ ((t.abortQueued ctx arg).ctx ctx).aborted ↔ n ∈ c.aborted ∨
            ∃ i, i < q.count ∧ n = (q.head + i) % 2 ^ 64 ∧ t.homeNat (c.qkey (q.entry 64 n)) 64 / 2 ^ 64 % 2 ^ 19 = arg) ∧
      ((∃ j ∈ js, s1.jobBusy j.uid = true) → Completes (.abort ctx) s s)) ∧
    (op = 3 →
      let c := s1.ctx ctx
      (arg < 0x1000 ∨ arg % 32 ≠ 0 ∨ c.qaBytes < arg + 32 → Completes (.migrate ctx) s (s1.ringPop r)) ∧
      (0x1000 ≤ arg → arg % 32 = 0 → arg + 32 ≤ c.qaBytes →
        let d := s1.homeNat (c.qkey arg) 32
        let va := d % 2 ^ 56
        let new := d / 2 ^ 64 % 2 ^ 64
        let reports := fun n : Nat => Completes (.migrate ctx) s ((s1.migrationDone c arg n).ringPop r)
        let reserved := zeroBits d [(254, 200), (191, 128), (63, 56)]
        (reserved = false → reports 4) ∧ (reserved = true → s1.leaf c va = none → reports 1) ∧
        (reserved = true → ∀ key b old, s1.leaf c va = some (key, b, old) →
          (va % 2 ^ b ≠ 0 → reports 4) ∧ (va % 2 ^ b = 0 → s1.destOk b new = false → reports 2) ∧
          (va % 2 ^ b = 0 → s1.destOk b new = true → (∃ m ∈ s1.migrations, m.ctx = ctx ∧ m.va = va) → reports 3) ∧
          (va % 2 ^ b = 0 → s1.destOk b new = true → (∀ m ∈ s1.migrations, ¬(m.ctx = ctx ∧ m.va = va)) →
            ∃ m : Migration, m.id = s1.nextUid ∧ m.va = va ∧ m.size = 2 ^ b ∧ m.pteKey = key ∧ m.moved = [] ∧ m.ctx = ctx ∧
              m.desc = arg ∧ m.newPte.toNat = new ∧ m.src = s1.keyAt (pageOf va (2 ^ b) (BitVec.ofNat 64 old)) 0 ∧
              m.dst = s1.keyAt (pageOf va (2 ^ b) (BitVec.ofNat 64 new)) 0 ∧ Completes (.migrate ctx) s
                (({ s1 with migrations := s1.migrations ++ [m], nextUid := s1.nextUid + 1 } : State).ringPop r))))) ∧
    (op ≠ 1 → op ≠ 2 → op ≠ 3 → Completes (.cmdUnknown ctx) s (s1.ringPop r))

/-- A line of a migration is copied byte for byte to its destination, with its poison mark, and with its tag where it travels
compressed (R296); with every line moved and the page out
of use, the swap writes NEWPTE into the leaf entry, then RESULT 0 with DONE into the descriptor, forgets the migration, leaves no
cached translation of the page on any core, and what each job has counted of its reducing copies to a line (R184) it has counted of
the line at the destination. While an access that has been translated uses the page, nothing changes (R179, R305).
(What it rests on that is the model's choice: log 67, 112.) -/
def Obligations.MigrationSteps : Prop :=
  ∀ (mig line : Nat) (s : State) (m : Migration), Memory.wf s.mem = true → s.migrations.find? (fun x => x.id == mig) = some m →
    let src := m.src + 128 * line
    let dst := m.dst + 128 * line
    let busy := (∃ x ∈ s.gangs, ∃ g ∈ x.groups, g.uses m.src m.size = true) ∨
      ∃ k ∈ s.cores, ∃ f, k.front = some f ∧ f.group.uses m.src m.size = true
    (line ∉ m.moved → line < m.size / 128 → stored dst = true → ∃ t m1, Completes (.migrateLine mig line) s t ∧
      t.migrations.find? (fun x => x.id == mig) = some m1 ∧ m1.moved = line :: m.moved ∧
      t.poisonAt dst = s.poisonAt src ∧ (s.poisonAt src = false → s.travels m src dst = true → t.tagOf (lineOf dst) = s.tagOf (lineOf src)) ∧
      ∀ a, cellGet t.mem a = if dst ≤ a ∧ a < dst + 128 then cellGet s.mem (src + (a - dst)) else cellGet s.mem a) ∧
    (busy → Completes (.migrateSwap mig) s s) ∧
    ((∃ i, i < m.size / 128 ∧ i ∉ m.moved) → Completes (.migrateSwap mig) s s) ∧
    ((∀ i, i < m.size / 128 → i ∈ m.moved) → ¬busy →
      let s1 := ({ s with
        migrations := s.migrations.filter fun x => x.id != mig
        jobs := s.jobs.map fun (j : Job) => j.carryRegions (lineOf m.src) (lineOf m.dst) (m.size / 128) } : State).storeHome none m.pteKey
        (leBytes 8 m.newPte.toNat) 0
      let s2 : State := { s1 with cores := s1.cores.map fun k => k.dropTlb m.ctx (some m.va) }
      let t := s2.storeNat ((s2.ctx m.ctx).qkey (m.desc + 24)) 8 (2 ^ 63)
      Completes (.migrateSwap mig) s t ∧
        (deviceExists m.pteKey = true → cellsGet s1.mem m.pteKey 8 = leBytes 8 m.newPte.toNat) ∧
        (∀ x ∈ t.migrations, x.id ≠ mig) ∧
        (∀ j ∈ s.jobs, ∀ i n, i < m.size / 128 → (lineOf m.src + i, n) ∈ j.redNext →
          ∃ j' ∈ t.jobs, { j' with redNext := j.redNext } = j ∧ (lineOf m.dst + i, n) ∈ j'.redNext) ∧
        ∀ c ∈ t.cores, (∀ e ∈ c.tlb, e.ctx = m.ctx → m.va < e.va ∨ e.va + e.size ≤ m.va) ∧
          ∀ e ∈ c.walks, e.ctx = m.ctx → e.tag ≠ m.va >>> e.sh)

/-- Eviction and restoring: a gang that a pending gang's placement picks as its victim is held, with an area of the save pool;
once its groups are settled, no run of it is left and its weight loads are complete, it is stilled, its rasters back at their roots;
once its commands are at rest and the eviction ring has room it is EVICTED, its image in the area and its record in the ring; while a
queue of its groups holds an entry, or an exchange copy is unfinished, it is not; an evicted gang with a place, which no other gang
precedes there and whose evictor does not wait, takes it, RESIDENT, its splits in the states in which they were saved, its scratchpad
and its stacks from the area, PLACED and HOST written into its record, and its area given back once its re-issued commands have all
been accepted; what a context holds on a core can be handed to an area and taken back (R233, R278-R282, R286-R291, R306).
(What it rests on that is the model's choice: log 60, 61, 64, 98.) -/
def Obligations.EvictionEvents : Prop :=
  ∀ (gang core ctx off : Nat) (s : State) (x : Gang) (j : Job) (c : Context),
    (s.gang? gang = some x → s.job? x.job = some j →
      let jc := s.ctx j.ctx
      (∀ p, s.gangs.find? (fun p => (s.victimFor p).any fun v => v.uid == gang) = some p → jc.areaFor j.areaSize = some off →
        Completes (.gangEvict gang) s
          ((s.setGang { x with held := true, stage := 1, saveOff := off, evictor := some p.uid }).setCtx
            { jc with areas := (off, j.areaSize) :: jc.areas })) ∧
      (x.stage = 1 → x.state = .resident → s.issuing gang = false → (∀ g ∈ x.groups, g.settled = true) → s.frontBusy x = false →
        (∀ g ∈ x.groups, s.loadsWeights (.group gang g.idx) = false) → (∀ y ∈ x.cmds, y.req.mode ≠ .xch) →
        Completes (.copyQuiesce gang) s (s.setGang { x with
          stage := 2
          groups := x.groups.map fun g => { g with ops := g.ops.map fun o => { o with kind := o.kind.replay } } })) ∧
      ((∃ g ∈ x.groups, g.drained = false) ∨ (∃ y ∈ x.cmds, y.req.mode = .xch) → Completes (.evictSave gang) s s) ∧
      (x.stage = 2 → x.state = .resident → (∀ g ∈ x.groups, g.settled = true) → s.frontBusy x = false →
        (∀ y ∈ x.cmds, y.req.mode ≠ .xch ∧ s.quiesced y = true) →
        ∀ r, s.ring? jc 0x40 16 = some r → r.count < r.cap → ∃ (s1 : State) (y : Gang),
          Completes (.evictSave gang) s ((s1.storeHome none (jc.qkey (r.entry 16 r.tail))
            (leBytes 16 (packBits [(19, j.cidx), (13, 0), (16, x.worker), (16, 0), (64, x.saveOff)])) 0).ringPush r) ∧
          s1.gang? gang = some y ∧ y.state = .evicted ∧ y.stage = 0 ∧ y.listSeq = r.tail ∧ y.saveOff = x.saveOff ∧
          y.groups = x.groups.map (fun g => { g with queue := [], splits := g.splits.map Split.saved, arrived := none }) ∧
          y.cmds = x.cmds.map s.suffix ∧
          (Memory.wf s.mem = true → stored (jc.poolKey x.saveOff) = true →
            cellsGet s1.mem (jc.poolKey x.saveOff) ((y.image j).length + x.spSize) =
              y.image j ++ cellsGet s.mem (spKey x.host x.spBase) x.spSize)) ∧
      (x.state = .evicted → ∀ places sp, s.restoreAt x j = some (core, places, sp) → s.firstFor x core = true →
        s.evictorWaits x = false → ∃ (s1 : State) (y : Gang), Completes (.gangRestore gang) s (s1.markPlaced jc x.listSeq core) ∧
          let back := ∀ z ∈ x.cmds, z.accepted = true ∨ z.again = false
          s1.gang? gang = some y ∧ y.state = .resident ∧ y.host = core ∧ y.spBase = sp ∧ y.held = false ∧
          (back → y.stage = 0 ∧ (s1.ctx j.ctx).areas = jc.areas.filter (fun a => a.1 != x.saveOff)) ∧
          (¬back → y.stage = 3 ∧ y.saveOff = x.saveOff ∧ (s1.ctx j.ctx).areas = jc.areas) ∧ y.evictor = none ∧ y.age = s.nextUid ∧ y.cmds.map (·.req) = x.cmds.map (·.req) ∧
          (places.length = x.groups.length → y.groups.map (·.idx) = x.groups.map (·.idx)) ∧
          (∀ g ∈ y.groups, g.host = core ∧ g.spBase = sp ∧ ∃ g0 ∈ x.groups, g.idx = g0.idx ∧
            (g.splits.map fun k => { k with stamp := 0 }) = (g0.splits.map fun k => { k with stamp := 0 }) ∧
            g.stack = s.savedStack g0 (jc.poolKey x.saveOff + 0x4100 + g0.idx * blockSize j.allot j.acct)) ∧
          (Memory.wf s.mem = true → jc.poolKey x.saveOff + j.areaSize ≤ 2 ^ 60 →
            cellsGet s1.mem (spKey core sp) x.spSize =
              cellsGet s.mem (jc.poolKey x.saveOff + (x.image j).length) x.spSize))) ∧
    (∀ seq host r, host < 320 → s.ring? c 0x40 16 = some r →
      let k := c.qkey (r.entry 16 seq)
      ((r.tail + 2 ^ 64 - seq) % 2 ^ 64 ≤ r.count → ∃ v, s.markPlaced c seq host = s.storeNat k 8 v ∧
        v / 2 ^ 57 % 2 = 1 ∧ v / 2 ^ 48 % 2 ^ 9 = host ∧ v % 2 ^ 48 = s.homeNat k 8 % 2 ^ 48 ∧ v / 2 ^ 58 = s.homeNat k 8 / 2 ^ 58) ∧
      (r.count < (r.tail + 2 ^ 64 - seq) % 2 ^ 64 → s.markPlaced c seq host = s)) ∧
    (s.ctx? ctx = some c → s.coreAway core ctx = false →
      (∃ w ∈ (s.core core).wbuf, w.owner = ctx) ∨ (∃ p ∈ (s.core core).pslots, p.2.owner = ctx) ∨
        (∃ d ∈ (s.core core).dq, s.decisionOf ctx d = true) →
      c.areaFor coreAreaSize = some off → ∃ t, Completes (.coreStateHandover core ctx) s t ∧
        (∀ w ∈ (t.core core).wbuf, w.owner ≠ ctx) ∧ (∀ p ∈ (t.core core).pslots, p.2.owner ≠ ctx) ∧
        (∀ d ∈ (t.core core).dq, s.decisionOf ctx d = false) ∧ (ctx, off) ∈ (t.core core).away ∧
        t.ctx? ctx = some { c with areas := (off, coreAreaSize) :: c.areas } ∧
        let ws := (s.core core).wbuf.filter fun w => w.owner == ctx
        let ps := (s.core core).pslots.filter fun p => p.2.owner == ctx
        let ds := (s.core core).dq.filter (s.decisionOf ctx)
        (t.core core).saved = (ctx, ws, ps, ds) :: (s.core core).saved ∧
        (Memory.wf s.mem = true → stored (c.poolKey off) = true →
          cellsGet t.mem (c.poolKey off) (s.coreImage core ws ps ds).length = s.coreImage core ws ps ds)) ∧
    (s.ctx? ctx = some c → ∀ ws ps ds, (s.core core).saved.find? (fun y => y.1 == ctx) = some (ctx, ws, ps, ds) →
      let k := s.core core
      let clash := (∃ w ∈ ws, ∃ y ∈ k.wbuf, y.no = w.no) ∨ (∃ p ∈ ps, ∃ y ∈ k.pslots, y.1 = p.1) ∨ 32 < k.dq.length + ds.length
      (clash → Completes (.coreStateRestore core ctx) s s) ∧
      (¬clash → ∃ s1 : State, Completes (.coreStateRestore core ctx) s (s1.dqServeAll core) ∧
        (s1.core core).wbuf = k.wbuf ++ ws ∧ (s1.core core).pslots = k.pslots ++ ps ∧ (s1.core core).dq = ds ++ k.dq ∧
        (∀ y ∈ (s1.core core).saved, y.1 ≠ ctx) ∧ (∀ a ∈ (s1.core core).away, a.1 ≠ ctx) ∧
        (s1.ctx ctx).areas = c.areas.filter (fun a => !((k.away.filter fun y => y.1 == ctx).map (·.2)).contains a.1)))

/-- Ends of waits, and clocks: a SLEEP whose cycle has come and a WAKEAT whose cycle has come with no late promise go on; a wait
that depends on a command late for its promise raises PROMISE with ACCESS 6, and none does while its gang is being evicted (R289);
the end of the refresh window and a stretched
cycle let time pass; a power bubble stops FCOUNT and the fixed-timing clusters, at most one cycle in 16; a drained cluster changes
mode; an elastic cluster takes a clock from 400 to 960 MHz.
(What it rests on that is the model's choice: log 13, 41, 74, 98.) -/
def Obligations.TimeEvents : Prop :=
  ∀ (ag : Agent) (cl mhz : Nat) (fixed : Bool) (s : State) (m : Issue),
    (s.waiter ag = some m →
      (∀ till, m.k.wait = .sleep till → till ≤ s.cycle m.g.host → Completes (.sleepExpire ag) s m.waitOver) ∧
      (∀ till, m.k.wait = .wakeat till → till ≤ s.cycle m.g.host →
        (s.lateFor (qidOf ag) m.g.host m.k.wait = [] → Completes (.wakeatExpire ag) s m.waitOver) ∧
        (m.k.state = .blocked → s.evicting (qidOf ag) = false → s.lateFor (qidOf ag) m.g.host m.k.wait ≠ [] →
          Completes (.wakeatExpire ag) s (m.raiseLate (s.lateFor (qidOf ag) m.g.host m.k.wait)))) ∧
      (m.k.state = .blocked → s.evicting (qidOf ag) = false → s.lateFor (qidOf ag) m.g.host m.k.wait ≠ [] →
        Completes (.promiseExpire ag) s (m.raiseLate (s.lateFor (qidOf ag) m.g.host m.k.wait))) ∧
      (s.evicting (qidOf ag) = true → Completes (.promiseExpire ag) s s)) ∧
    (∃ t, Completes .wsRefreshWindow s t ∧ t.fcount = (s.fcount / 1280 + 1) * 1280 ∧ SameMemory s t) ∧
    ((∃ f, s.lastBubble = some f ∧ s.fcount < f + 15) → Completes .powerBubble s s) ∧
    ((∀ f, s.lastBubble = some f → f + 15 ≤ s.fcount) → ∃ t, Completes .powerBubble s t ∧ t.fcount = s.fcount ∧
      t.lastBubble = some s.fcount ∧ SameMemory s t ∧
      ∀ i, i < 40 → (t.cluster i).fixed = (s.cluster i).fixed ∧ (t.cluster i).cycle =
        if (s.cluster i).fixed then (s.cluster i).cycle else (s.cluster i).cycle + (s.cluster i).mhz / 800) ∧
    (cl < 40 → (s.cluster cl).fixed = false → ∃ t, Completes (.cycleStretch cl) s t ∧ t.fcount = s.fcount ∧
      (t.cluster cl).cycle = (s.cluster cl).cycle + 1) ∧
    (cl < 40 → (s.cluster cl).fixed ≠ fixed → s.drained cl = true → ∃ t, Completes (.clusterModeChange cl fixed) s t ∧
      (t.cluster cl).fixed = fixed) ∧
    (cl < 40 → (s.cluster cl).fixed = false → 400 ≤ mhz → mhz ≤ 960 → ∃ t, Completes (.elasticClockChange cl mhz) s t ∧
      (t.cluster cl).mhz = mhz ∧ (t.cluster cl).cycle = (s.cluster cl).cycle)

/-- The host and the control page: a module reset keeps flash, fuses, the identity key and what lies outside the module, and leaves
the rest as at reset; an update takes effect at the next reset; links train; VERSION reads back as it was chosen within HIFMIN and
HIFMAX, else 0. A control page write, unless it meets a create that has not been processed, leaves the bytes it lays over HIFSEL,
DEVID, CTXCMD, the mailbox, the route table and the event counters, whose source 0 or above 0x11 stops the counter at its value, and
nothing else (R295, R297, R307, R313). CTXCMD creates and destroys contexts, with their Quay area at zero, or reports why not. A write
through BAR2 lands at its bytes but for those of the allotment of a context with an ACTIVE job, which set WSDROP (R294). The host
reads and writes through a trained link: in the Quay window of an attached module but for reserved bytes, for what an interface in
RUN keeps from it, and for a TAIL that the device produces; in the device memory that exists as a pending write; in its own memory
(R44, R207, R294, R300, R315).
(What it rests on that is the model's choice: log 5, 16, 68, 69, 70, 71, 92, 93, 97.) -/
def Obligations.HostEvents : Prop :=
  ∀ (img : FwImage) (link ok at' : Bool) (path : HostPath) (l4 : BitVec 4) (lo hi : BitVec 8) (ver : BitVec 8) (off n cl : Nat)
    (bytes : List Byte) (k : BitVec 4) (v : BitVec 128) (op : Byte) (ctx : BitVec 6) (tg : HostTarget) (s : State),
    let bytesLand := fun (t : State) (key : Nat → Nat) (lands : Nat → Prop) => Memory.wf s.mem = true → s.migrations = [] →
      (∀ i, i < bytes.length → lands (off + i) → cellGet t.mem (key (off + i)) = bytes.getD i 0) ∧
      ∀ a, (∀ i, i < bytes.length → lands (off + i) → a ≠ key (off + i)) → cellGet t.mem a = cellGet s.mem a
    let counter := fun (t : State) (c k v : Nat) => t.counterOf c k =
      { cluster := c, k := k, enable := bitOf v 79, allCtx := bitOf v 78, ctx := bitsOf v 77 72, source := BitVec.ofNat 8 (bitsOf v 71 64)
        count := if bitsOf v 71 64 = 0 ∨ 0x11 < bitsOf v 71 64 then (s.counterOf c k).count else BitVec.ofNat 64 v }
    let page := fun (t : State) =>
      let hit := fun (b n : Nat) => !bytes.isEmpty && decide (off < b + n) && decide (b < off + bytes.length)
      let reg := fun (b n : Nat) => leNat ((List.range n).map fun i =>
        if off ≤ b + i ∧ b + i < off + bytes.length then bytes.getD (b + i - off) 0 else s.ctrlByte (b + i))
      { t with hifVer := s.hifVer, wsDrop := s.wsDrop, devid := s.devid, ctxcmd := s.ctxcmd, ctxPend := s.ctxPend
               mailbox := s.mailbox, routes := s.routes, evCounters := s.evCounters } = s ∧
      t.hifVer = (if hit 8 1 then (if s.booted = true ∧ reg 8 1 = 1 then 1 else 0) else s.hifVer) ∧
      t.wsDrop = (s.wsDrop && !(hit 9 1 && bitOf (reg 9 1) 0)) ∧
      t.devid = (if hit 0x10 8 then BitVec.ofNat 10 (reg 0x10 8) else s.devid) ∧
      t.ctxcmd = (if hit 0x40 4 then (s.ctxcmd &&& 0x00FF0000) ||| BitVec.ofNat 32 (reg 0x40 4 % 2 ^ 14) else s.ctxcmd) ∧
      t.ctxPend = (hit 0x40 4 || s.ctxPend) ∧ t.mailbox = (if hit 0x80 128 then BitVec.ofNat 1024 (reg 0x80 128) else s.mailbox) ∧
      (∀ i, i < 1024 → t.route i = if hit (0x1000 + 2 * i) 2 then reg (0x1000 + 2 * i) 2 else s.route i) ∧
      ∀ c j, c < 40 → j < 16 → let at' := 0x10000 + 256 * c + 16 * j
        (hit at' 16 = true → counter t c j (reg at' 16)) ∧ (hit at' 16 = false → t.counterOf c j = s.counterOf c j)
    let weights := fun (t : State) =>
      let active := fun a => ∃ c ∈ s.contexts, c.wsBase * 2 ^ 21 ≤ a ∧ a < (c.wsBase + c.wsSize) * 2 ^ 21 ∧
        ∃ j ∈ s.jobs, j.ctx = c.id ∧ j.state = .active
      (t.wsDrop = true ↔ s.wsDrop = true ∨ ∃ i, i < bytes.length ∧ off + i < 2 ^ 33 ∧ active (off + i)) ∧
        bytesLand t wsKey fun a => a < 2 ^ 33 ∧ ¬active a
    (∃ t, Completes .moduleReset s t ∧ t.flash = s.flash ∧ t.fuseKey = s.fuseKey ∧ t.fuseMin = s.fuseMin ∧ t.fuseCfg = s.fuseCfg ∧
      t.idKey = s.idKey ∧ t.peers = s.peers ∧ t.contexts = [] ∧ t.jobs = [] ∧ t.gangs = [] ∧ t.runs = [] ∧ t.linkUp = 0 ∧
      t.hifVer = 0 ∧ t.tdisp = [] ∧ t.ctxPend = false ∧ t.fcount = 0 ∧ t.booted = s.imageBoots ∧
      ∀ a, a < 2 ^ 64 → cellGet t.mem a = 0) ∧
    Completes (.firmwareUpdate img) s { s with flash := img } ∧
    (∃ t, Completes (.hostLinkTrain link ok at') s t ∧ t.linkUp.getLsbD link.toNat = ok ∧
      t.linkUp.getLsbD (!link).toNat = s.linkUp.getLsbD (!link).toNat ∧ t.mem = s.mem) ∧
    (∃ t, Completes (.gulLinkUp l4 lo hi) s t ∧ t.mem = s.mem ∧
      (max glMin lo.toNat ≤ min glMax hi.toNat → (l4.toNat, min glMax hi.toNat) ∈ t.gulVer) ∧
      (min glMax hi.toNat < max glMin lo.toNat → ∀ x ∈ t.gulVer, x.1 ≠ l4.toNat)) ∧
    Completes (.hifVersionSelect ver) s { s with hifVer := if s.booted = true ∧ ver = 1 then 1 else 0 } ∧
    Completes .wsdropClear s { s with wsDrop := false } ∧
    (s.ctxBusy off bytes = false → ∃ t, Completes (.registerWrite off bytes) s t ∧ page t) ∧
    (s.ctxBusy off bytes = true → Completes (.registerWrite off bytes) s s) ∧
    (40 ≤ cl → Completes (.eventCounterWrite cl k v) s s) ∧
    (cl < 40 → ∃ t, Completes (.eventCounterWrite cl k v) s t ∧ { t with evCounters := s.evCounters } = s ∧
      counter t cl k.toNat v.toNat ∧ ∀ c j, c ≠ cl ∨ j ≠ k.toNat → t.counterOf c j = s.counterOf c j) ∧
    (∀ x, s.ctxAsked = some (op.toNat, x) → op ≠ 1 → op ≠ 2 → Completes (.ctxcmdBadOp op) s (s.ctxDone 2)) ∧
    (∀ x, s.ctxAsked = some (1, x) →
      let rec' := s.mailbox.toNat
      let reports := fun n : Nat => Completes .contextCreate s (s.ctxDone n)
      (bitsOf rec' 335 332 ≠ 1 → reports 4) ∧
      (bitsOf rec' 335 332 = 1 → recordOk rec' = false ∨ s.tensorImage (bitsOf rec' 423 368) = none → reports 2) ∧
      (∀ ts, bitsOf rec' 335 332 = 1 → recordOk rec' = true → s.tensorImage (bitsOf rec' 423 368) = some ts →
        let c := contextOf rec' ts
        ((∃ y ∈ s.contexts, c.clashes y = true) → reports 3) ∧
        ((∀ y ∈ s.contexts, c.clashes y = false) → ∃ t, Completes .contextCreate s t ∧ t.contexts = s.contexts ++ [c] ∧
          t.ctxcmd = (s.ctxDone 0).ctxcmd ∧ t.ctxPend = false ∧ (Memory.wf s.mem = true →
          ∀ a, cellGet t.mem a = if c.qkey 0 ≤ a ∧ a < c.qkey c.qaBytes then 0 else cellGet s.mem a)))) ∧
    (Memory.wf s.mem = true → s.ctxAsked = some (2, ctx.toNat) →
      (s.ctx? ctx.toNat = none → Completes (.contextDestroy ctx) s
        (({ s with choices := s.choices + 1 } : State).ctxDone (Config.freeNat s.choices % 5))) ∧
      (∀ c, s.ctx? ctx.toNat = some c →
        let mine := s.gangs.filter fun g => s.jobs.any fun j => j.ctx == c.id && j.uid == g.job
        let queued := ∃ q, s.ring? c 0 64 = some q ∧ q.count ≠ 0
        ((∃ j ∈ s.jobs, j.ctx = c.id ∧ j.state ≠ .complete) ∨ queued ∨ (∃ g ∈ mine, g.state = .evicted) →
          Completes (.contextDestroy ctx) s (s.ctxDone 1)) ∧
        ((∀ j ∈ s.jobs, j.ctx = c.id → j.state = .complete) → ¬queued →
          (∀ g ∈ mine, g.state ≠ .evicted ∧ g.cmds = [] ∧ ∀ y ∈ g.groups, y.unfinished = false) →
          (∀ y ∈ s.cores, ∀ f, y.front = some f → (∃ j ∈ s.jobs, j.ctx = c.id ∧ j.uid = f.job) → f.group.unfinished = false) →
          (∀ m ∈ s.migrations, m.ctx ≠ c.id) → ∃ t, Completes (.contextDestroy ctx) s t ∧ (∀ x ∈ t.contexts, x.id ≠ ctx.toNat) ∧
            (∀ x ∈ t.jobs, x.ctx ≠ c.id) ∧ (∀ x ∈ t.tdisp, x.ctx ≠ c.id) ∧ t.ctxcmd = (s.ctxDone 0).ctxcmd ∧ t.ctxPend = false ∧
            ∀ a, cellGet t.mem a = if c.qkey 0 ≤ a ∧ a < c.qkey c.qaBytes then 0 else cellGet s.mem a))) ∧
    (s.up path.link = true ∨ tg = .hostMem →
      (∃ t, Completes (.hostRead path tg off n) s t ∧ { t with hostData := s.hostData, choices := s.choices } = s ∧
        t.hostData.length = n ∧
        ∀ i, i < n → s.refuses path tg (off + i) = false → t.hostData[i]? = some (s.hostSees tg (off + i))) ∧
      let writes := fun (p : State → Prop) => ∃ t, Completes (.hostWrite path tg off bytes) s t ∧ p t
      (tg = .control → s.ctxBusy off bytes = true ∨ s.refuses path .control off = true → writes fun t => t = s) ∧
      (tg = .control → s.ctxBusy off bytes = false → s.refuses path .control off = false → writes page) ∧
      (tg = .weights → writes weights) ∧
      (tg = .hostMem → writes fun t => bytesLand t hostKey fun _ => True) ∧
      (tg = .quay → s.booted = false ∨ s.hifVer ≠ 1 → writes fun t => t = s) ∧
      (tg = .quay → s.booted = true → s.hifVer = 1 → writes fun t => bytesLand t quayKey fun a =>
        a < 0x800000 ∧ s.tailByte a = false ∧ s.refuses path .quay a = false ∧ s.quayHole (quayKey a) = false) ∧
      (tg = .device →
        let cells := ((List.range bytes.length).map fun i => (off + i, bytes.getD i 0)).filter fun c =>
          deviceExists c.1 && !s.refuses path .device c.1
        writes fun t => t = { s with pending := if cells = [] then s.pending else s.pending ++ [cells] })) ∧
    (bytes ≠ [] → (∀ i, i < bytes.length → s.refuses path tg (off + i) = true) → tg = .quay ∨ tg = .device ∨ tg = .control →
      s.hostLands path tg off bytes = s) ∧
    (bytes ≠ [] → (∀ i, i < bytes.length → s.tailByte (off + i) = true) → s.hostLands path .quay off bytes = s) ∧
    (∃ t, Completes (.wsHostWrite off bytes) s t ∧ weights t)

/-- Errors, attestation and the pod: a soft error poisons a line of device memory and no other; a signed answer holds the version,
the measurement, the fused configuration and the attach state, under the fused identity key; a context's TDISP interface is bound to
a stream, goes to RUN and is unbound; a resent block changes nothing; traffic leaves on the lowest link of its route; an access of
another module is performed at its home for the context of its PODTAG, a cumulative store or atomic with every store here before it
as its release set, or refused (R161, R180, R209, R307, R308, R314-R316).
(What it rests on that is the model's choice: log 11, 12, 38, 76, 92, 94.) -/
def Obligations.LinkEvents : Prop :=
  ∀ (addr n ctx stream : Nat) (link v13 : Bool) (l4 : BitVec 4) (dest : BitVec 10) (pay bs : List Byte) (tag : Word) (va x y : DWord)
    (o : AtomOp) (ty : Ty) (cumul : Bool) (pop : PodOp) (s : State),
    (deviceExists addr = true → ∃ t, Completes (.softError addr) s t ∧ t.poisonAt addr = true ∧ t.mem = s.mem ∧
      ∀ a, lineOf a ≠ lineOf addr → t.poisonAt a = s.poisonAt a) ∧
    (s.up link = true →
      (∃ w : SpdmAnswer, w.link = link ∧ w.version = (if v13 then 0x13 else 0x12) ∧ w.digest = s.measured ∧ w.config = s.fuseCfg ∧
        w.attach = BitVec.ofNat 64 (s.hifVer.toNat + if s.wsDrop then 256 else 0) ∧
        w.sig = Config.spdmSign s.idKey w.version w.digest w.config w.attach ∧
        Completes (.spdmMessage ⟨link, .measure v13⟩) s { s with spdm := some w }) ∧
      ((s.ctx? ctx).isSome = true → (∀ b ∈ s.tdisp, b.ctx ≠ ctx) → Completes (.spdmMessage ⟨link, .bind ctx stream⟩) s
        { s with tdisp := s.tdisp ++ [⟨ctx, link, stream, false⟩] }) ∧
      ((∃ b ∈ s.tdisp, b.ctx = ctx ∧ b.link = link ∧ b.run = false) → Completes (.spdmMessage ⟨link, .run ctx⟩) s
        { s with tdisp := s.tdisp.map fun b => if b.ctx = ctx then { b with run := true } else b }) ∧
      ((∃ b ∈ s.tdisp, b.ctx = ctx ∧ b.link = link) → Completes (.spdmMessage ⟨link, .unbind ctx⟩) s
        { s with tdisp := s.tdisp.filter fun b => b.ctx != ctx })) ∧
    Completes (.linkBlockResend l4) s s ∧
    (∀ l, lowestLink (s.route dest.toNat) = some l →
      Completes (.podForward dest pay) s { s with podSent := s.podSent ++ [(l, dest.toNat, pay)] }) ∧
    (tag = 0 ∨ (∀ c ∈ s.contexts, c.podTag ≠ tag) →
      Completes (.podAccessArrival ⟨tag, va, pop⟩) s { s with podReply := s.podReply ++ [none] }) ∧
    (∀ c, tag ≠ 0 → s.contexts.find? (fun c => c.podTag == tag) = some c →
      let answers := fun (p : PodOp) (t : State) (r : Option (List Byte)) =>
        Completes (.podAccessArrival ⟨tag, va, p⟩) s { t with podReply := t.podReply ++ [r] }
      let set := if cumul then s.nextSeq else 0
      (s.podKey c ⟨tag, va, pop⟩ = none → answers pop s none) ∧
      (∀ key, s.podKey c ⟨tag, va, .read n⟩ = some key → answers (.read n) s (some (s.readHome key n))) ∧
      (∀ key, s.podKey c ⟨tag, va, .write bs cumul⟩ = some key →
        (s.inFlightAt key bs.length = false → answers (.write bs cumul) (s.storeHome none key bs set) (some [])) ∧
        (s.inFlightAt key bs.length = true → Completes (.podAccessArrival ⟨tag, va, .write bs cumul⟩) s s)) ∧
      (∀ key, s.podKey c ⟨tag, va, .atom o ty x y cumul⟩ = some key →
        (s.inFlightAt key (tyBytes ty) = false →
          answers (.atom o ty x y cumul) (s.atomic none o ty key x y set).1 (some (leBytes (tyBytes ty) (s.homeNat key (tyBytes ty))))) ∧
        (s.inFlightAt key (tyBytes ty) = true → Completes (.podAccessArrival ⟨tag, va, .atom o ty x y cumul⟩) s s)))
end

