-- ==== Sys2Proof/Laws/Memory.lean ====
section
/-!
SUPPORT. Laws of memory: the canonical list reads back what was written and nothing else changes; every operation on the list
keeps the canonical form; two lists in canonical form that read alike are equal; every operation of the machine that writes
memory keeps the form.
-/
namespace Sys2Proof.Machine

open Sys2Proof

/-! ## The list -/

theorem cellsAbove_iff {b : Nat} {m : List Host.Cell} : cellsAbove b m = true ↔ ∀ c ∈ m, b < c.1 := by
  induction m with
  | nil => simp [cellsAbove]
  | cons c r ih => obtain ⟨k, v⟩ := c; simp [cellsAbove, ih]

theorem cellsWf_cons {k : Nat} {v : Byte} {r : List Host.Cell} :
    cellsWf ((k, v) :: r) = true ↔ v ≠ 0 ∧ (∀ c ∈ r, k < c.1) ∧ cellsWf r = true := by
  simp [cellsWf, cellsAbove_iff, and_assoc]

/-- What lies above an address reads as zero at it. -/
theorem cellGet_above {m : List Host.Cell} {a : Nat} (h : ∀ c ∈ m, a < c.1) : cellGet m a = 0 := by
  cases m with
  | nil => rfl
  | cons c r =>
    obtain ⟨k, v⟩ := c
    have hk : a < k := h (k, v) (by simp)
    simp [cellGet, hk, show ¬k = a by omega]

theorem mem_cellPut {m : List Host.Cell} {a : Nat} {v : Byte} {c : Host.Cell} (h : c ∈ cellPut m a v) : c ∈ m ∨ c = (a, v) := by
  induction m with
  | nil => grind [cellPut]
  | cons d r ih => obtain ⟨k, w⟩ := d; grind [cellPut]

/-- A write keeps the canonical form. -/
theorem cellPut_wf {m : List Host.Cell} (a : Nat) (v : Byte) (h : cellsWf m = true) : cellsWf (cellPut m a v) = true := by
  induction m with
  | nil => grind [cellPut, cellsWf, cellsAbove]
  | cons d r ih =>
    obtain ⟨k, w⟩ := d
    have h0 := h
    rw [cellsWf_cons] at h
    obtain ⟨hw, hr, hwf⟩ := h
    simp only [cellPut]
    split
    · rename_i hk
      split
      · exact h0
      · rename_i hv
        rw [cellsWf_cons]
        refine ⟨hv, fun c hc => ?_, h0⟩
        rcases List.mem_cons.1 hc with rfl | hc
        · exact hk
        · exact Nat.lt_trans hk (hr c hc)
    · split
      · rename_i hk
        split
        · exact hwf
        · rename_i hv; rw [cellsWf_cons]; exact ⟨hv, fun c hc => hk ▸ hr c hc, hwf⟩
      · rw [cellsWf_cons]
        refine ⟨hw, fun c hc => ?_, ih hwf⟩
        rcases mem_cellPut hc with hc | rfl
        · exact hr c hc
        · simp only; omega

/-- A byte reads back what was written, and every other byte reads as before. -/
theorem cellGet_cellPut {m : List Host.Cell} (h : cellsWf m = true) (a b : Nat) (v : Byte) :
    cellGet (cellPut m a v) b = if b = a then v else cellGet m b := by
  induction m with
  | nil => grind [cellPut, cellGet]
  | cons d r ih =>
    obtain ⟨k, w⟩ := d
    rw [cellsWf_cons] at h
    obtain ⟨hw, hr, hwf⟩ := h
    have ih := ih hwf
    have key : cellGet r k = 0 := cellGet_above hr
    have low : ∀ x, x < k → cellGet r x = 0 := fun x hx => cellGet_above fun c hc => Nat.lt_trans hx (hr c hc)
    have lowB := low b
    grind [cellPut, cellGet]

/-- Lists in canonical form that read alike are equal. -/
theorem cells_ext {m n : List Host.Cell} (hm : cellsWf m = true) (hn : cellsWf n = true)
    (h : ∀ a, cellGet m a = cellGet n a) : m = n := by
  induction m generalizing n with
  | nil =>
    cases n with
    | nil => rfl
    | cons d r =>
      obtain ⟨k, w⟩ := d
      have := h k
      rw [cellsWf_cons] at hn
      simp [cellGet] at this
      exact absurd this.symm hn.1
  | cons c r ih =>
    obtain ⟨k, v⟩ := c
    rw [cellsWf_cons] at hm
    cases n with
    | nil =>
      have := h k
      simp [cellGet] at this
      exact absurd this hm.1
    | cons d r' =>
      obtain ⟨k', v'⟩ := d
      rw [cellsWf_cons] at hn
      have hk : k = k' := by
        rcases Nat.lt_trichotomy k k' with hlt | heq | hgt
        · have := h k; simp [cellGet, hlt, show ¬k' = k by omega] at this; exact absurd this hm.1
        · exact heq
        · have := h k'; simp [cellGet, hgt, show ¬k = k' by omega] at this; exact absurd this.symm hn.1
      subst hk
      have hv : v = v' := by have := h k; simpa [cellGet] using this
      subst hv
      have : r = r' := by
        refine ih hm.2.2 hn.2.2 fun a => ?_
        have ha := h a
        by_cases hka : k = a
        · subst hka; rw [cellGet_above hm.2.1, cellGet_above hn.2.1]
        · by_cases hak : a < k
          · rw [cellGet_above fun c hc => Nat.lt_trans hak (hm.2.1 c hc), cellGet_above fun c hc => Nat.lt_trans hak (hn.2.1 c hc)]
          · simpa [cellGet, hka, hak] using ha
      rw [this]

theorem cellsPut_wf {m : List Host.Cell} (h : cellsWf m = true) (a : Nat) (bs : List Byte) : cellsWf (cellsPut m a bs) = true := by
  induction bs generalizing m a with
  | nil => exact h
  | cons v r ih => exact ih (cellPut_wf a v h) _

theorem cellsPutIf_wf {m : List Host.Cell} (p : Nat → Bool) (h : cellsWf m = true) (a : Nat) (bs : List Byte) :
    cellsWf (cellsPutIf p m a bs) = true := by
  induction bs generalizing m a with
  | nil => exact h
  | cons v r ih =>
    simp only [cellsPutIf]
    split
    · exact ih (cellPut_wf a v h) _
    · exact ih h _

/-- Bytes written from an address on read back, and every other byte reads as before. -/
theorem cellGet_cellsPut {m : List Host.Cell} (h : cellsWf m = true) (a b : Nat) (bs : List Byte) :
    cellGet (cellsPut m a bs) b = if a ≤ b ∧ b < a + bs.length then bs.getD (b - a) 0 else cellGet m b := by
  induction bs generalizing m a with
  | nil => simp [cellsPut, show ¬(a ≤ b ∧ b < a) by omega]
  | cons v r ih =>
    rw [cellsPut, ih (cellPut_wf a v h), cellGet_cellPut h]
    by_cases hab : b = a
    · subst hab; simp [show ¬b + 1 ≤ b by omega]
    · by_cases hin : a ≤ b ∧ b < a + (r.length + 1)
      · have h1 : a + 1 ≤ b ∧ b < a + 1 + r.length := by omega
        obtain ⟨j, hj⟩ : ∃ j, b - a = j + 1 := ⟨b - a - 1, by omega⟩
        simp [h1, hin, hj, show b - (a + 1) = j by omega]
      · have h1 : ¬(a + 1 ≤ b ∧ b < a + 1 + r.length) := by omega
        rw [List.length_cons, if_neg h1, if_neg hin, if_neg hab]

/-- Conditional writes: the bytes where the condition holds read back, and every other byte reads as before. -/
theorem cellGet_cellsPutIf {m : List Host.Cell} (p : Nat → Bool) (h : cellsWf m = true) (a b : Nat) (bs : List Byte) :
    cellGet (cellsPutIf p m a bs) b =
      if (a ≤ b ∧ b < a + bs.length) ∧ p b = true then bs.getD (b - a) 0 else cellGet m b := by
  induction bs generalizing m a with
  | nil => simp [cellsPutIf, show ¬(a ≤ b ∧ b < a) by omega]
  | cons v r ih =>
    have hwf : cellsWf (if p a = true then cellPut m a v else m) = true := by
      split
      · exact cellPut_wf a v h
      · exact h
    have hget : cellGet (if p a = true then cellPut m a v else m) b = if b = a ∧ p a = true then v else cellGet m b := by
      by_cases hp : p a = true <;> simp [hp, cellGet_cellPut h]
    rw [cellsPutIf, ih hwf, hget]
    by_cases hab : b = a
    · subst hab; simp [show ¬b + 1 ≤ b by omega]
    · by_cases hin : a ≤ b ∧ b < a + (r.length + 1)
      · have h1 : a + 1 ≤ b ∧ b < a + 1 + r.length := by omega
        obtain ⟨j, hj⟩ : ∃ j, b - a = j + 1 := ⟨b - a - 1, by omega⟩
        simp [h1, hin, hj, show b - (a + 1) = j by omega, hab]
      · have h1 : ¬(a + 1 ≤ b ∧ b < a + 1 + r.length) := by omega
        rw [List.length_cons, if_neg fun c => h1 c.1, if_neg fun c => hab c.1, if_neg fun c => hin c.1]

theorem cellsWf_filter {m : List Host.Cell} (p : Host.Cell → Bool) (h : cellsWf m = true) : cellsWf (m.filter p) = true := by
  induction m with
  | nil => rfl
  | cons c r ih =>
    obtain ⟨k, v⟩ := c
    rw [cellsWf_cons] at h
    by_cases hp : p (k, v) = true
    · rw [List.filter_cons_of_pos hp, cellsWf_cons]
      exact ⟨h.1, fun c hc => h.2.1 c (List.mem_filter.1 hc).1, ih h.2.2⟩
    · rw [List.filter_cons_of_neg hp]; exact ih h.2.2

/-- Bytes that a filter by address keeps read as before, and those it drops read as zero. -/
theorem cellGet_filter {m : List Host.Cell} (p : Nat → Bool) (h : cellsWf m = true) (a : Nat) :
    cellGet (m.filter fun c => p c.1) a = if p a = true then cellGet m a else 0 := by
  induction m with
  | nil => simp [cellGet]
  | cons c r ih =>
    obtain ⟨k, v⟩ := c
    rw [cellsWf_cons] at h
    have ih := ih h.2.2
    have low : a < k → cellGet r a = 0 := fun ha => cellGet_above fun c hc => Nat.lt_trans ha (h.2.1 c hc)
    grind [cellGet]

@[simp] theorem cellsGet_length (m : List Host.Cell) (a n : Nat) : (cellsGet m a n).length = n := by simp [cellsGet]

/-! ## Operations of the machine -/

/-- Folds of operations that keep a property keep it. -/
theorem foldl_keeps {α β : Type} (P : β → Prop) (f : β → α → β) (hf : ∀ b a, P b → P (f b a)) (l : List α) (b : β) (hb : P b) :
    P (l.foldl f b) := by
  induction l generalizing b with
  | nil => exact hb
  | cons a r ih => exact ih _ (hf b a hb)

theorem rawPut_wf (s : State) (key : Nat) (bs : List Byte) (h : Memory.wf s.mem = true) :
    Memory.wf (s.rawPut key bs).mem = true := by
  unfold State.rawPut
  split
  · exact h
  · exact cellsPut_wf h _ _

@[simp] theorem propagate_mem (s : State) (core : Nat) (x : HomeStore) : (s.propagate core x).mem = s.mem := rfl
@[simp] theorem viewHome_mem (s : State) (core key n : Nat) : (s.viewHome core key n).mem = s.mem := rfl
@[simp] theorem catchUp_mem (s : State) (core : Nat) : (s.catchUp core).mem = s.mem := rfl
@[simp] theorem recheck_mem (s : State) : s.recheck.mem = s.mem := rfl
@[simp] theorem append_mem (s : State) (x : HomeStore) : (s.append x).mem = s.mem := rfl
@[simp] theorem clearPoison_mem (s : State) (ls : List Nat) : (s.clearPoison ls).mem = s.mem := rfl
@[simp] theorem setTag_mem (s : State) (line tag : Nat) : (s.setTag line tag).mem = s.mem := rfl

/-- The encoding in which a line is held says nothing of its bytes (R175). -/
@[simp] theorem recompress_mem (s : State) (key n : Nat) : (s.recompress key n).mem = s.mem := by
  unfold State.recompress
  split
  · rfl
  · refine foldl_keeps (fun t : State => t.mem = s.mem) _ (fun t l ht => ?_) _ _ rfl
    split
    · exact ht
    · exact ht

/-- A mark says nothing of the bytes of its line (R181). -/
@[simp] theorem poison_mem (s : State) (key : Nat) : (s.poison key).mem = s.mem := by unfold State.poison; split <;> rfl
@[simp] theorem poisonLine_mem (s : State) (line : Nat) : (s.poisonLine line).mem = s.mem := by
  unfold State.poisonLine
  exact foldl_keeps (fun t : State => t.mem = s.mem) _ (fun t l ht => by simpa using ht) _ _ rfl

/-- With no migration in progress a line has no copy (R179). -/
@[simp] theorem alike_none (s : State) (lines : List Nat) (h : s.migrations = []) : s.alike lines = lines := by simp [State.alike, h]

/-- A store mirrored at the destination of a migration keeps the canonical form. -/
theorem mirror_wf (s : State) (key : Nat) (bs : List Byte) (h : Memory.wf s.mem = true) :
    Memory.wf (s.mirror key bs).mem = true := by
  unfold State.mirror
  refine foldl_keeps (fun t : State => Memory.wf t.mem = true) _ (fun t m ht => ?_) _ _ h
  refine foldl_keeps (fun t : State => Memory.wf t.mem = true) _ (fun t k ht => by simpa using ht) _ _ ?_
  refine foldl_keeps (fun t : State => Memory.wf t.mem = true) _ (fun t i ht => ?_) _ _ ht
  split
  · exact rawPut_wf _ _ _ ht
  · exact ht

@[simp] theorem clearPoison_migrations (s : State) (ls : List Nat) : (s.clearPoison ls).migrations = s.migrations := rfl

/-- No migration in progress, nothing is mirrored. -/
@[simp] theorem mirror_none (s : State) (key : Nat) (bs : List Byte) (h : s.migrations = []) : s.mirror key bs = s := by
  simp [State.mirror, h]

/-- A store at a home keeps the canonical form, whatever core it is from. -/
theorem storeHome_wf (s : State) (core : Option Nat) (key : Nat) (bs : List Byte) (rel : Nat) (h : Memory.wf s.mem = true) :
    Memory.wf (s.storeHome core key bs rel).mem = true := by
  unfold State.storeHome
  split
  · exact h
  · have h0 := mirror_wf (s.clearPoison (wholeLines key bs.length)) key bs h
    split
    · cases core <;> simpa using cellsPut_wf h0 _ _
    · split
      · simpa using cellsPutIf_wf _ h0 _ _
      · exact cellsPut_wf h0 _ _

theorem storeNat_wf (s : State) (key n v : Nat) (h : Memory.wf s.mem = true) : Memory.wf (s.storeNat key n v).mem = true :=
  storeHome_wf _ _ _ _ _ h

theorem importStep_wf (s : State) (core : Option Nat) (h : Memory.wf s.mem = true) : Memory.wf (s.importStep core).mem = true := by
  unfold State.importStep
  refine foldl_keeps (fun t : State => Memory.wf t.mem = true) _ (fun t w ht => ?_) _ _ h
  split
  · exact ht
  · exact storeHome_wf _ _ _ _ _ ht

theorem poolPut_wf (s : State) (key : Nat) (bs : List Byte) (ps : List Nat) (h : Memory.wf s.mem = true) :
    Memory.wf (s.poolPut key bs ps).mem = true := rawPut_wf s key bs h

theorem zeroArea_wf (s : State) (c : Context) (h : Memory.wf s.mem = true) : Memory.wf (s.zeroArea c).mem = true :=
  cellsWf_filter _ h

theorem outside_wf {m : List Host.Cell} (h : Memory.wf m = true) : Memory.wf (outside m) = true := cellsWf_filter _ h

/-- Module reset leaves no byte of the module. -/
theorem outside_get {m : List Host.Cell} (h : Memory.wf m = true) {a : Nat} (ha : a < 2 ^ 64) : cellGet (outside m) a = 0 := by
  have := cellGet_filter (fun x => decide (2 ^ 64 ≤ x)) h a
  rw [outside, this, decide_eq_false (by omega)]; rfl

/-- A store outside the Quay window to memory that holds it, no migration in progress: its bytes read back at their home, and
every other byte reads as before. -/
theorem storeHome_get (s : State) (core : Option Nat) (key : Nat) (bs : List Byte) (rel a : Nat) (h : Memory.wf s.mem = true)
    (hm : s.migrations = []) (hd : stored key = true) (hq : key / 2 ^ 60 ≠ 1) :
    cellGet (s.storeHome core key bs rel).mem a = if key ≤ a ∧ a < key + bs.length then bs.getD (a - key) 0 else cellGet s.mem a := by
  unfold State.storeHome
  by_cases hb : bs = []
  · subst hb; simp [show ¬(key ≤ a ∧ a < key) by omega]
  · have h1 : (bs.isEmpty || !stored key) = false := by simp [hb, hd]
    have h2 : (s.clearPoison (wholeLines key bs.length)).mirror key bs = s.clearPoison (wholeLines key bs.length) := mirror_none _ _ _ hm
    rw [if_neg (by simp [h1])]
    split
    · cases core <;> simp [h2, cellGet_cellsPut h]
    · simp [h2, cellGet_cellsPut h]

/-- A store in the Quay window, no migration in progress: the same, but that a reserved byte keeps what it held (R300). -/
theorem storeHome_get_quay (s : State) (core : Option Nat) (key : Nat) (bs : List Byte) (rel a : Nat) (h : Memory.wf s.mem = true)
    (hm : s.migrations = []) (hq : key / 2 ^ 60 = 1) :
    cellGet (s.storeHome core key bs rel).mem a =
      if (key ≤ a ∧ a < key + bs.length) ∧ s.quayHole a = false then bs.getD (a - key) 0 else cellGet s.mem a := by
  unfold State.storeHome
  have hv : viewed key = false := by simp only [viewed, decide_eq_false_iff_not]; omega
  by_cases hb : bs = []
  · subst hb; simp [show ¬(key ≤ a ∧ a < key) by omega]
  · have h1 : (bs.isEmpty || !stored key) = false := by simp [hb, stored, hv]
    have h2 : (s.clearPoison (wholeLines key bs.length)).mirror key bs = s.clearPoison (wholeLines key bs.length) := mirror_none _ _ _ hm
    rw [if_neg (by simp [h1]), if_neg (by simp [hv]), if_pos hq]
    simp only [h2, recheck_mem, clearPoison_mem, cellGet_cellsPutIf _ h, Bool.not_eq_true']

end Sys2Proof.Machine
end

