-- ==== Sys2Proof/Laws/State.lean ====
section
/-!
SUPPORT. What each update of State leaves: one lemma per field, true by rfl, so that no proof unfolds a record update. The
updates of lists by key read back.
-/
namespace Sys2Proof.Machine

open Sys2Proof

/-! ## A context replaced -/

@[simp] theorem State.setCtx_booted (s : State) (c : Context) : (s.setCtx c).booted = s.booted := rfl
@[simp] theorem State.setCtx_flash (s : State) (c : Context) : (s.setCtx c).flash = s.flash := rfl
@[simp] theorem State.setCtx_measured (s : State) (c : Context) : (s.setCtx c).measured = s.measured := rfl
@[simp] theorem State.setCtx_fwVersion (s : State) (c : Context) : (s.setCtx c).fwVersion = s.fwVersion := rfl
@[simp] theorem State.setCtx_fuseKey (s : State) (c : Context) : (s.setCtx c).fuseKey = s.fuseKey := rfl
@[simp] theorem State.setCtx_fuseMin (s : State) (c : Context) : (s.setCtx c).fuseMin = s.fuseMin := rfl
@[simp] theorem State.setCtx_fuseCfg (s : State) (c : Context) : (s.setCtx c).fuseCfg = s.fuseCfg := rfl
@[simp] theorem State.setCtx_idKey (s : State) (c : Context) : (s.setCtx c).idKey = s.idKey := rfl
@[simp] theorem State.setCtx_linkUp (s : State) (c : Context) : (s.setCtx c).linkUp = s.linkUp := rfl
@[simp] theorem State.setCtx_linkAtomics (s : State) (c : Context) : (s.setCtx c).linkAtomics = s.linkAtomics := rfl
@[simp] theorem State.setCtx_devid (s : State) (c : Context) : (s.setCtx c).devid = s.devid := rfl
@[simp] theorem State.setCtx_hifVer (s : State) (c : Context) : (s.setCtx c).hifVer = s.hifVer := rfl
@[simp] theorem State.setCtx_wsDrop (s : State) (c : Context) : (s.setCtx c).wsDrop = s.wsDrop := rfl
@[simp] theorem State.setCtx_routes (s : State) (c : Context) : (s.setCtx c).routes = s.routes := rfl
@[simp] theorem State.setCtx_gulVer (s : State) (c : Context) : (s.setCtx c).gulVer = s.gulVer := rfl
@[simp] theorem State.setCtx_ctxcmd (s : State) (c : Context) : (s.setCtx c).ctxcmd = s.ctxcmd := rfl
@[simp] theorem State.setCtx_ctxPend (s : State) (c : Context) : (s.setCtx c).ctxPend = s.ctxPend := rfl
@[simp] theorem State.setCtx_mailbox (s : State) (c : Context) : (s.setCtx c).mailbox = s.mailbox := rfl
@[simp] theorem State.setCtx_evCounters (s : State) (c : Context) : (s.setCtx c).evCounters = s.evCounters := rfl
@[simp] theorem State.setCtx_spdm (s : State) (c : Context) : (s.setCtx c).spdm = s.spdm := rfl
@[simp] theorem State.setCtx_tdisp (s : State) (c : Context) : (s.setCtx c).tdisp = s.tdisp := rfl
@[simp] theorem State.setCtx_hostData (s : State) (c : Context) : (s.setCtx c).hostData = s.hostData := rfl
@[simp] theorem State.setCtx_podSent (s : State) (c : Context) : (s.setCtx c).podSent = s.podSent := rfl
@[simp] theorem State.setCtx_podReply (s : State) (c : Context) : (s.setCtx c).podReply = s.podReply := rfl
@[simp] theorem State.setCtx_peers (s : State) (c : Context) : (s.setCtx c).peers = s.peers := rfl
@[simp] theorem State.setCtx_fcount (s : State) (c : Context) : (s.setCtx c).fcount = s.fcount := rfl
@[simp] theorem State.setCtx_lastBubble (s : State) (c : Context) : (s.setCtx c).lastBubble = s.lastBubble := rfl
@[simp] theorem State.setCtx_clusters (s : State) (c : Context) : (s.setCtx c).clusters = s.clusters := rfl
@[simp] theorem State.setCtx_mem (s : State) (c : Context) : (s.setCtx c).mem = s.mem := rfl
@[simp] theorem State.setCtx_memInit (s : State) (c : Context) : (s.setCtx c).memInit = s.memInit := rfl
@[simp] theorem State.setCtx_homes (s : State) (c : Context) : (s.setCtx c).homes = s.homes := rfl
@[simp] theorem State.setCtx_nextSeq (s : State) (c : Context) : (s.setCtx c).nextSeq = s.nextSeq := rfl
@[simp] theorem State.setCtx_hostCopy (s : State) (c : Context) : (s.setCtx c).hostCopy = s.hostCopy := rfl
@[simp] theorem State.setCtx_pending (s : State) (c : Context) : (s.setCtx c).pending = s.pending := rfl
@[simp] theorem State.setCtx_poisoned (s : State) (c : Context) : (s.setCtx c).poisoned = s.poisoned := rfl
@[simp] theorem State.setCtx_tags (s : State) (c : Context) : (s.setCtx c).tags = s.tags := rfl
@[simp] theorem State.setCtx_jobs (s : State) (c : Context) : (s.setCtx c).jobs = s.jobs := rfl
@[simp] theorem State.setCtx_gangs (s : State) (c : Context) : (s.setCtx c).gangs = s.gangs := rfl
@[simp] theorem State.setCtx_cores (s : State) (c : Context) : (s.setCtx c).cores = s.cores := rfl
@[simp] theorem State.setCtx_migrations (s : State) (c : Context) : (s.setCtx c).migrations = s.migrations := rfl
@[simp] theorem State.setCtx_nextUid (s : State) (c : Context) : (s.setCtx c).nextUid = s.nextUid := rfl
@[simp] theorem State.setCtx_runs (s : State) (c : Context) : (s.setCtx c).runs = s.runs := rfl
@[simp] theorem State.setCtx_agenda (s : State) (c : Context) : (s.setCtx c).agenda = s.agenda := rfl
@[simp] theorem State.setCtx_choices (s : State) (c : Context) : (s.setCtx c).choices = s.choices := rfl

/-! ## A job replaced -/

@[simp] theorem State.setJob_booted (s : State) (j : Job) : (s.setJob j).booted = s.booted := rfl
@[simp] theorem State.setJob_flash (s : State) (j : Job) : (s.setJob j).flash = s.flash := rfl
@[simp] theorem State.setJob_measured (s : State) (j : Job) : (s.setJob j).measured = s.measured := rfl
@[simp] theorem State.setJob_fwVersion (s : State) (j : Job) : (s.setJob j).fwVersion = s.fwVersion := rfl
@[simp] theorem State.setJob_fuseKey (s : State) (j : Job) : (s.setJob j).fuseKey = s.fuseKey := rfl
@[simp] theorem State.setJob_fuseMin (s : State) (j : Job) : (s.setJob j).fuseMin = s.fuseMin := rfl
@[simp] theorem State.setJob_fuseCfg (s : State) (j : Job) : (s.setJob j).fuseCfg = s.fuseCfg := rfl
@[simp] theorem State.setJob_idKey (s : State) (j : Job) : (s.setJob j).idKey = s.idKey := rfl
@[simp] theorem State.setJob_linkUp (s : State) (j : Job) : (s.setJob j).linkUp = s.linkUp := rfl
@[simp] theorem State.setJob_linkAtomics (s : State) (j : Job) : (s.setJob j).linkAtomics = s.linkAtomics := rfl
@[simp] theorem State.setJob_devid (s : State) (j : Job) : (s.setJob j).devid = s.devid := rfl
@[simp] theorem State.setJob_hifVer (s : State) (j : Job) : (s.setJob j).hifVer = s.hifVer := rfl
@[simp] theorem State.setJob_wsDrop (s : State) (j : Job) : (s.setJob j).wsDrop = s.wsDrop := rfl
@[simp] theorem State.setJob_routes (s : State) (j : Job) : (s.setJob j).routes = s.routes := rfl
@[simp] theorem State.setJob_gulVer (s : State) (j : Job) : (s.setJob j).gulVer = s.gulVer := rfl
@[simp] theorem State.setJob_ctxcmd (s : State) (j : Job) : (s.setJob j).ctxcmd = s.ctxcmd := rfl
@[simp] theorem State.setJob_ctxPend (s : State) (j : Job) : (s.setJob j).ctxPend = s.ctxPend := rfl
@[simp] theorem State.setJob_mailbox (s : State) (j : Job) : (s.setJob j).mailbox = s.mailbox := rfl
@[simp] theorem State.setJob_evCounters (s : State) (j : Job) : (s.setJob j).evCounters = s.evCounters := rfl
@[simp] theorem State.setJob_spdm (s : State) (j : Job) : (s.setJob j).spdm = s.spdm := rfl
@[simp] theorem State.setJob_tdisp (s : State) (j : Job) : (s.setJob j).tdisp = s.tdisp := rfl
@[simp] theorem State.setJob_hostData (s : State) (j : Job) : (s.setJob j).hostData = s.hostData := rfl
@[simp] theorem State.setJob_podSent (s : State) (j : Job) : (s.setJob j).podSent = s.podSent := rfl
@[simp] theorem State.setJob_podReply (s : State) (j : Job) : (s.setJob j).podReply = s.podReply := rfl
@[simp] theorem State.setJob_peers (s : State) (j : Job) : (s.setJob j).peers = s.peers := rfl
@[simp] theorem State.setJob_fcount (s : State) (j : Job) : (s.setJob j).fcount = s.fcount := rfl
@[simp] theorem State.setJob_lastBubble (s : State) (j : Job) : (s.setJob j).lastBubble = s.lastBubble := rfl
@[simp] theorem State.setJob_clusters (s : State) (j : Job) : (s.setJob j).clusters = s.clusters := rfl
@[simp] theorem State.setJob_mem (s : State) (j : Job) : (s.setJob j).mem = s.mem := rfl
@[simp] theorem State.setJob_memInit (s : State) (j : Job) : (s.setJob j).memInit = s.memInit := rfl
@[simp] theorem State.setJob_homes (s : State) (j : Job) : (s.setJob j).homes = s.homes := rfl
@[simp] theorem State.setJob_nextSeq (s : State) (j : Job) : (s.setJob j).nextSeq = s.nextSeq := rfl
@[simp] theorem State.setJob_hostCopy (s : State) (j : Job) : (s.setJob j).hostCopy = s.hostCopy := rfl
@[simp] theorem State.setJob_pending (s : State) (j : Job) : (s.setJob j).pending = s.pending := rfl
@[simp] theorem State.setJob_poisoned (s : State) (j : Job) : (s.setJob j).poisoned = s.poisoned := rfl
@[simp] theorem State.setJob_tags (s : State) (j : Job) : (s.setJob j).tags = s.tags := rfl
@[simp] theorem State.setJob_contexts (s : State) (j : Job) : (s.setJob j).contexts = s.contexts := rfl
@[simp] theorem State.setJob_gangs (s : State) (j : Job) : (s.setJob j).gangs = s.gangs := rfl
@[simp] theorem State.setJob_cores (s : State) (j : Job) : (s.setJob j).cores = s.cores := rfl
@[simp] theorem State.setJob_migrations (s : State) (j : Job) : (s.setJob j).migrations = s.migrations := rfl
@[simp] theorem State.setJob_nextUid (s : State) (j : Job) : (s.setJob j).nextUid = s.nextUid := rfl
@[simp] theorem State.setJob_runs (s : State) (j : Job) : (s.setJob j).runs = s.runs := rfl
@[simp] theorem State.setJob_agenda (s : State) (j : Job) : (s.setJob j).agenda = s.agenda := rfl
@[simp] theorem State.setJob_choices (s : State) (j : Job) : (s.setJob j).choices = s.choices := rfl

/-! ## A gang replaced -/

@[simp] theorem State.setGang_booted (s : State) (g : Gang) : (s.setGang g).booted = s.booted := rfl
@[simp] theorem State.setGang_flash (s : State) (g : Gang) : (s.setGang g).flash = s.flash := rfl
@[simp] theorem State.setGang_measured (s : State) (g : Gang) : (s.setGang g).measured = s.measured := rfl
@[simp] theorem State.setGang_fwVersion (s : State) (g : Gang) : (s.setGang g).fwVersion = s.fwVersion := rfl
@[simp] theorem State.setGang_fuseKey (s : State) (g : Gang) : (s.setGang g).fuseKey = s.fuseKey := rfl
@[simp] theorem State.setGang_fuseMin (s : State) (g : Gang) : (s.setGang g).fuseMin = s.fuseMin := rfl
@[simp] theorem State.setGang_fuseCfg (s : State) (g : Gang) : (s.setGang g).fuseCfg = s.fuseCfg := rfl
@[simp] theorem State.setGang_idKey (s : State) (g : Gang) : (s.setGang g).idKey = s.idKey := rfl
@[simp] theorem State.setGang_linkUp (s : State) (g : Gang) : (s.setGang g).linkUp = s.linkUp := rfl
@[simp] theorem State.setGang_linkAtomics (s : State) (g : Gang) : (s.setGang g).linkAtomics = s.linkAtomics := rfl
@[simp] theorem State.setGang_devid (s : State) (g : Gang) : (s.setGang g).devid = s.devid := rfl
@[simp] theorem State.setGang_hifVer (s : State) (g : Gang) : (s.setGang g).hifVer = s.hifVer := rfl
@[simp] theorem State.setGang_wsDrop (s : State) (g : Gang) : (s.setGang g).wsDrop = s.wsDrop := rfl
@[simp] theorem State.setGang_routes (s : State) (g : Gang) : (s.setGang g).routes = s.routes := rfl
@[simp] theorem State.setGang_gulVer (s : State) (g : Gang) : (s.setGang g).gulVer = s.gulVer := rfl
@[simp] theorem State.setGang_ctxcmd (s : State) (g : Gang) : (s.setGang g).ctxcmd = s.ctxcmd := rfl
@[simp] theorem State.setGang_ctxPend (s : State) (g : Gang) : (s.setGang g).ctxPend = s.ctxPend := rfl
@[simp] theorem State.setGang_mailbox (s : State) (g : Gang) : (s.setGang g).mailbox = s.mailbox := rfl
@[simp] theorem State.setGang_evCounters (s : State) (g : Gang) : (s.setGang g).evCounters = s.evCounters := rfl
@[simp] theorem State.setGang_spdm (s : State) (g : Gang) : (s.setGang g).spdm = s.spdm := rfl
@[simp] theorem State.setGang_tdisp (s : State) (g : Gang) : (s.setGang g).tdisp = s.tdisp := rfl
@[simp] theorem State.setGang_hostData (s : State) (g : Gang) : (s.setGang g).hostData = s.hostData := rfl
@[simp] theorem State.setGang_podSent (s : State) (g : Gang) : (s.setGang g).podSent = s.podSent := rfl
@[simp] theorem State.setGang_podReply (s : State) (g : Gang) : (s.setGang g).podReply = s.podReply := rfl
@[simp] theorem State.setGang_peers (s : State) (g : Gang) : (s.setGang g).peers = s.peers := rfl
@[simp] theorem State.setGang_fcount (s : State) (g : Gang) : (s.setGang g).fcount = s.fcount := rfl
@[simp] theorem State.setGang_lastBubble (s : State) (g : Gang) : (s.setGang g).lastBubble = s.lastBubble := rfl
@[simp] theorem State.setGang_clusters (s : State) (g : Gang) : (s.setGang g).clusters = s.clusters := rfl
@[simp] theorem State.setGang_mem (s : State) (g : Gang) : (s.setGang g).mem = s.mem := rfl
@[simp] theorem State.setGang_memInit (s : State) (g : Gang) : (s.setGang g).memInit = s.memInit := rfl
@[simp] theorem State.setGang_homes (s : State) (g : Gang) : (s.setGang g).homes = s.homes := rfl
@[simp] theorem State.setGang_nextSeq (s : State) (g : Gang) : (s.setGang g).nextSeq = s.nextSeq := rfl
@[simp] theorem State.setGang_hostCopy (s : State) (g : Gang) : (s.setGang g).hostCopy = s.hostCopy := rfl
@[simp] theorem State.setGang_pending (s : State) (g : Gang) : (s.setGang g).pending = s.pending := rfl
@[simp] theorem State.setGang_poisoned (s : State) (g : Gang) : (s.setGang g).poisoned = s.poisoned := rfl
@[simp] theorem State.setGang_tags (s : State) (g : Gang) : (s.setGang g).tags = s.tags := rfl
@[simp] theorem State.setGang_contexts (s : State) (g : Gang) : (s.setGang g).contexts = s.contexts := rfl
@[simp] theorem State.setGang_jobs (s : State) (g : Gang) : (s.setGang g).jobs = s.jobs := rfl
@[simp] theorem State.setGang_cores (s : State) (g : Gang) : (s.setGang g).cores = s.cores := rfl
@[simp] theorem State.setGang_migrations (s : State) (g : Gang) : (s.setGang g).migrations = s.migrations := rfl
@[simp] theorem State.setGang_nextUid (s : State) (g : Gang) : (s.setGang g).nextUid = s.nextUid := rfl
@[simp] theorem State.setGang_runs (s : State) (g : Gang) : (s.setGang g).runs = s.runs := rfl
@[simp] theorem State.setGang_agenda (s : State) (g : Gang) : (s.setGang g).agenda = s.agenda := rfl
@[simp] theorem State.setGang_choices (s : State) (g : Gang) : (s.setGang g).choices = s.choices := rfl

/-! ## A core replaced -/

@[simp] theorem State.setCore_booted (s : State) (c : Core) : (s.setCore c).booted = s.booted := rfl
@[simp] theorem State.setCore_flash (s : State) (c : Core) : (s.setCore c).flash = s.flash := rfl
@[simp] theorem State.setCore_measured (s : State) (c : Core) : (s.setCore c).measured = s.measured := rfl
@[simp] theorem State.setCore_fwVersion (s : State) (c : Core) : (s.setCore c).fwVersion = s.fwVersion := rfl
@[simp] theorem State.setCore_fuseKey (s : State) (c : Core) : (s.setCore c).fuseKey = s.fuseKey := rfl
@[simp] theorem State.setCore_fuseMin (s : State) (c : Core) : (s.setCore c).fuseMin = s.fuseMin := rfl
@[simp] theorem State.setCore_fuseCfg (s : State) (c : Core) : (s.setCore c).fuseCfg = s.fuseCfg := rfl
@[simp] theorem State.setCore_idKey (s : State) (c : Core) : (s.setCore c).idKey = s.idKey := rfl
@[simp] theorem State.setCore_linkUp (s : State) (c : Core) : (s.setCore c).linkUp = s.linkUp := rfl
@[simp] theorem State.setCore_linkAtomics (s : State) (c : Core) : (s.setCore c).linkAtomics = s.linkAtomics := rfl
@[simp] theorem State.setCore_devid (s : State) (c : Core) : (s.setCore c).devid = s.devid := rfl
@[simp] theorem State.setCore_hifVer (s : State) (c : Core) : (s.setCore c).hifVer = s.hifVer := rfl
@[simp] theorem State.setCore_wsDrop (s : State) (c : Core) : (s.setCore c).wsDrop = s.wsDrop := rfl
@[simp] theorem State.setCore_routes (s : State) (c : Core) : (s.setCore c).routes = s.routes := rfl
@[simp] theorem State.setCore_gulVer (s : State) (c : Core) : (s.setCore c).gulVer = s.gulVer := rfl
@[simp] theorem State.setCore_ctxcmd (s : State) (c : Core) : (s.setCore c).ctxcmd = s.ctxcmd := rfl
@[simp] theorem State.setCore_ctxPend (s : State) (c : Core) : (s.setCore c).ctxPend = s.ctxPend := rfl
@[simp] theorem State.setCore_mailbox (s : State) (c : Core) : (s.setCore c).mailbox = s.mailbox := rfl
@[simp] theorem State.setCore_evCounters (s : State) (c : Core) : (s.setCore c).evCounters = s.evCounters := rfl
@[simp] theorem State.setCore_spdm (s : State) (c : Core) : (s.setCore c).spdm = s.spdm := rfl
@[simp] theorem State.setCore_tdisp (s : State) (c : Core) : (s.setCore c).tdisp = s.tdisp := rfl
@[simp] theorem State.setCore_hostData (s : State) (c : Core) : (s.setCore c).hostData = s.hostData := rfl
@[simp] theorem State.setCore_podSent (s : State) (c : Core) : (s.setCore c).podSent = s.podSent := rfl
@[simp] theorem State.setCore_podReply (s : State) (c : Core) : (s.setCore c).podReply = s.podReply := rfl
@[simp] theorem State.setCore_peers (s : State) (c : Core) : (s.setCore c).peers = s.peers := rfl
@[simp] theorem State.setCore_fcount (s : State) (c : Core) : (s.setCore c).fcount = s.fcount := rfl
@[simp] theorem State.setCore_lastBubble (s : State) (c : Core) : (s.setCore c).lastBubble = s.lastBubble := rfl
@[simp] theorem State.setCore_clusters (s : State) (c : Core) : (s.setCore c).clusters = s.clusters := rfl
@[simp] theorem State.setCore_mem (s : State) (c : Core) : (s.setCore c).mem = s.mem := rfl
@[simp] theorem State.setCore_memInit (s : State) (c : Core) : (s.setCore c).memInit = s.memInit := rfl
@[simp] theorem State.setCore_homes (s : State) (c : Core) : (s.setCore c).homes = s.homes := rfl
@[simp] theorem State.setCore_nextSeq (s : State) (c : Core) : (s.setCore c).nextSeq = s.nextSeq := rfl
@[simp] theorem State.setCore_hostCopy (s : State) (c : Core) : (s.setCore c).hostCopy = s.hostCopy := rfl
@[simp] theorem State.setCore_pending (s : State) (c : Core) : (s.setCore c).pending = s.pending := rfl
@[simp] theorem State.setCore_poisoned (s : State) (c : Core) : (s.setCore c).poisoned = s.poisoned := rfl
@[simp] theorem State.setCore_tags (s : State) (c : Core) : (s.setCore c).tags = s.tags := rfl
@[simp] theorem State.setCore_contexts (s : State) (c : Core) : (s.setCore c).contexts = s.contexts := rfl
@[simp] theorem State.setCore_jobs (s : State) (c : Core) : (s.setCore c).jobs = s.jobs := rfl
@[simp] theorem State.setCore_gangs (s : State) (c : Core) : (s.setCore c).gangs = s.gangs := rfl
@[simp] theorem State.setCore_migrations (s : State) (c : Core) : (s.setCore c).migrations = s.migrations := rfl
@[simp] theorem State.setCore_nextUid (s : State) (c : Core) : (s.setCore c).nextUid = s.nextUid := rfl
@[simp] theorem State.setCore_runs (s : State) (c : Core) : (s.setCore c).runs = s.runs := rfl
@[simp] theorem State.setCore_agenda (s : State) (c : Core) : (s.setCore c).agenda = s.agenda := rfl
@[simp] theorem State.setCore_choices (s : State) (c : Core) : (s.setCore c).choices = s.choices := rfl

/-! ## Events counted -/

@[simp] theorem State.count_booted (s : State) (cl : Nat) (c : Option Nat) (src n : Nat) : (s.count cl c src n).booted = s.booted := rfl
@[simp] theorem State.count_flash (s : State) (cl : Nat) (c : Option Nat) (src n : Nat) : (s.count cl c src n).flash = s.flash := rfl
@[simp] theorem State.count_measured (s : State) (cl : Nat) (c : Option Nat) (src n : Nat) : (s.count cl c src n).measured = s.measured := rfl
@[simp] theorem State.count_fwVersion (s : State) (cl : Nat) (c : Option Nat) (src n : Nat) : (s.count cl c src n).fwVersion = s.fwVersion := rfl
@[simp] theorem State.count_fuseKey (s : State) (cl : Nat) (c : Option Nat) (src n : Nat) : (s.count cl c src n).fuseKey = s.fuseKey := rfl
@[simp] theorem State.count_fuseMin (s : State) (cl : Nat) (c : Option Nat) (src n : Nat) : (s.count cl c src n).fuseMin = s.fuseMin := rfl
@[simp] theorem State.count_fuseCfg (s : State) (cl : Nat) (c : Option Nat) (src n : Nat) : (s.count cl c src n).fuseCfg = s.fuseCfg := rfl
@[simp] theorem State.count_idKey (s : State) (cl : Nat) (c : Option Nat) (src n : Nat) : (s.count cl c src n).idKey = s.idKey := rfl
@[simp] theorem State.count_linkUp (s : State) (cl : Nat) (c : Option Nat) (src n : Nat) : (s.count cl c src n).linkUp = s.linkUp := rfl
@[simp] theorem State.count_linkAtomics (s : State) (cl : Nat) (c : Option Nat) (src n : Nat) : (s.count cl c src n).linkAtomics = s.linkAtomics := rfl
@[simp] theorem State.count_devid (s : State) (cl : Nat) (c : Option Nat) (src n : Nat) : (s.count cl c src n).devid = s.devid := rfl
@[simp] theorem State.count_hifVer (s : State) (cl : Nat) (c : Option Nat) (src n : Nat) : (s.count cl c src n).hifVer = s.hifVer := rfl
@[simp] theorem State.count_wsDrop (s : State) (cl : Nat) (c : Option Nat) (src n : Nat) : (s.count cl c src n).wsDrop = s.wsDrop := rfl
@[simp] theorem State.count_routes (s : State) (cl : Nat) (c : Option Nat) (src n : Nat) : (s.count cl c src n).routes = s.routes := rfl
@[simp] theorem State.count_gulVer (s : State) (cl : Nat) (c : Option Nat) (src n : Nat) : (s.count cl c src n).gulVer = s.gulVer := rfl
@[simp] theorem State.count_ctxcmd (s : State) (cl : Nat) (c : Option Nat) (src n : Nat) : (s.count cl c src n).ctxcmd = s.ctxcmd := rfl
@[simp] theorem State.count_ctxPend (s : State) (cl : Nat) (c : Option Nat) (src n : Nat) : (s.count cl c src n).ctxPend = s.ctxPend := rfl
@[simp] theorem State.count_mailbox (s : State) (cl : Nat) (c : Option Nat) (src n : Nat) : (s.count cl c src n).mailbox = s.mailbox := rfl
@[simp] theorem State.count_spdm (s : State) (cl : Nat) (c : Option Nat) (src n : Nat) : (s.count cl c src n).spdm = s.spdm := rfl
@[simp] theorem State.count_tdisp (s : State) (cl : Nat) (c : Option Nat) (src n : Nat) : (s.count cl c src n).tdisp = s.tdisp := rfl
@[simp] theorem State.count_hostData (s : State) (cl : Nat) (c : Option Nat) (src n : Nat) : (s.count cl c src n).hostData = s.hostData := rfl
@[simp] theorem State.count_podSent (s : State) (cl : Nat) (c : Option Nat) (src n : Nat) : (s.count cl c src n).podSent = s.podSent := rfl
@[simp] theorem State.count_podReply (s : State) (cl : Nat) (c : Option Nat) (src n : Nat) : (s.count cl c src n).podReply = s.podReply := rfl
@[simp] theorem State.count_peers (s : State) (cl : Nat) (c : Option Nat) (src n : Nat) : (s.count cl c src n).peers = s.peers := rfl
@[simp] theorem State.count_fcount (s : State) (cl : Nat) (c : Option Nat) (src n : Nat) : (s.count cl c src n).fcount = s.fcount := rfl
@[simp] theorem State.count_lastBubble (s : State) (cl : Nat) (c : Option Nat) (src n : Nat) : (s.count cl c src n).lastBubble = s.lastBubble := rfl
@[simp] theorem State.count_clusters (s : State) (cl : Nat) (c : Option Nat) (src n : Nat) : (s.count cl c src n).clusters = s.clusters := rfl
@[simp] theorem State.count_mem (s : State) (cl : Nat) (c : Option Nat) (src n : Nat) : (s.count cl c src n).mem = s.mem := rfl
@[simp] theorem State.count_memInit (s : State) (cl : Nat) (c : Option Nat) (src n : Nat) : (s.count cl c src n).memInit = s.memInit := rfl
@[simp] theorem State.count_homes (s : State) (cl : Nat) (c : Option Nat) (src n : Nat) : (s.count cl c src n).homes = s.homes := rfl
@[simp] theorem State.count_nextSeq (s : State) (cl : Nat) (c : Option Nat) (src n : Nat) : (s.count cl c src n).nextSeq = s.nextSeq := rfl
@[simp] theorem State.count_hostCopy (s : State) (cl : Nat) (c : Option Nat) (src n : Nat) : (s.count cl c src n).hostCopy = s.hostCopy := rfl
@[simp] theorem State.count_pending (s : State) (cl : Nat) (c : Option Nat) (src n : Nat) : (s.count cl c src n).pending = s.pending := rfl
@[simp] theorem State.count_poisoned (s : State) (cl : Nat) (c : Option Nat) (src n : Nat) : (s.count cl c src n).poisoned = s.poisoned := rfl
@[simp] theorem State.count_tags (s : State) (cl : Nat) (c : Option Nat) (src n : Nat) : (s.count cl c src n).tags = s.tags := rfl
@[simp] theorem State.count_contexts (s : State) (cl : Nat) (c : Option Nat) (src n : Nat) : (s.count cl c src n).contexts = s.contexts := rfl
@[simp] theorem State.count_jobs (s : State) (cl : Nat) (c : Option Nat) (src n : Nat) : (s.count cl c src n).jobs = s.jobs := rfl
@[simp] theorem State.count_gangs (s : State) (cl : Nat) (c : Option Nat) (src n : Nat) : (s.count cl c src n).gangs = s.gangs := rfl
@[simp] theorem State.count_cores (s : State) (cl : Nat) (c : Option Nat) (src n : Nat) : (s.count cl c src n).cores = s.cores := rfl
@[simp] theorem State.count_migrations (s : State) (cl : Nat) (c : Option Nat) (src n : Nat) : (s.count cl c src n).migrations = s.migrations := rfl
@[simp] theorem State.count_nextUid (s : State) (cl : Nat) (c : Option Nat) (src n : Nat) : (s.count cl c src n).nextUid = s.nextUid := rfl
@[simp] theorem State.count_runs (s : State) (cl : Nat) (c : Option Nat) (src n : Nat) : (s.count cl c src n).runs = s.runs := rfl
@[simp] theorem State.count_agenda (s : State) (cl : Nat) (c : Option Nat) (src n : Nat) : (s.count cl c src n).agenda = s.agenda := rfl
@[simp] theorem State.count_choices (s : State) (cl : Nat) (c : Option Nat) (src n : Nat) : (s.count cl c src n).choices = s.choices := rfl

/-! ## A store propagated to a view -/

@[simp] theorem State.propagate_booted (s : State) (core : Nat) (h : HomeStore) : (s.propagate core h).booted = s.booted := rfl
@[simp] theorem State.propagate_flash (s : State) (core : Nat) (h : HomeStore) : (s.propagate core h).flash = s.flash := rfl
@[simp] theorem State.propagate_measured (s : State) (core : Nat) (h : HomeStore) : (s.propagate core h).measured = s.measured := rfl
@[simp] theorem State.propagate_fwVersion (s : State) (core : Nat) (h : HomeStore) : (s.propagate core h).fwVersion = s.fwVersion := rfl
@[simp] theorem State.propagate_fuseKey (s : State) (core : Nat) (h : HomeStore) : (s.propagate core h).fuseKey = s.fuseKey := rfl
@[simp] theorem State.propagate_fuseMin (s : State) (core : Nat) (h : HomeStore) : (s.propagate core h).fuseMin = s.fuseMin := rfl
@[simp] theorem State.propagate_fuseCfg (s : State) (core : Nat) (h : HomeStore) : (s.propagate core h).fuseCfg = s.fuseCfg := rfl
@[simp] theorem State.propagate_idKey (s : State) (core : Nat) (h : HomeStore) : (s.propagate core h).idKey = s.idKey := rfl
@[simp] theorem State.propagate_linkUp (s : State) (core : Nat) (h : HomeStore) : (s.propagate core h).linkUp = s.linkUp := rfl
@[simp] theorem State.propagate_linkAtomics (s : State) (core : Nat) (h : HomeStore) : (s.propagate core h).linkAtomics = s.linkAtomics := rfl
@[simp] theorem State.propagate_devid (s : State) (core : Nat) (h : HomeStore) : (s.propagate core h).devid = s.devid := rfl
@[simp] theorem State.propagate_hifVer (s : State) (core : Nat) (h : HomeStore) : (s.propagate core h).hifVer = s.hifVer := rfl
@[simp] theorem State.propagate_wsDrop (s : State) (core : Nat) (h : HomeStore) : (s.propagate core h).wsDrop = s.wsDrop := rfl
@[simp] theorem State.propagate_routes (s : State) (core : Nat) (h : HomeStore) : (s.propagate core h).routes = s.routes := rfl
@[simp] theorem State.propagate_gulVer (s : State) (core : Nat) (h : HomeStore) : (s.propagate core h).gulVer = s.gulVer := rfl
@[simp] theorem State.propagate_ctxcmd (s : State) (core : Nat) (h : HomeStore) : (s.propagate core h).ctxcmd = s.ctxcmd := rfl
@[simp] theorem State.propagate_ctxPend (s : State) (core : Nat) (h : HomeStore) : (s.propagate core h).ctxPend = s.ctxPend := rfl
@[simp] theorem State.propagate_mailbox (s : State) (core : Nat) (h : HomeStore) : (s.propagate core h).mailbox = s.mailbox := rfl
@[simp] theorem State.propagate_evCounters (s : State) (core : Nat) (h : HomeStore) : (s.propagate core h).evCounters = s.evCounters := rfl
@[simp] theorem State.propagate_spdm (s : State) (core : Nat) (h : HomeStore) : (s.propagate core h).spdm = s.spdm := rfl
@[simp] theorem State.propagate_tdisp (s : State) (core : Nat) (h : HomeStore) : (s.propagate core h).tdisp = s.tdisp := rfl
@[simp] theorem State.propagate_hostData (s : State) (core : Nat) (h : HomeStore) : (s.propagate core h).hostData = s.hostData := rfl
@[simp] theorem State.propagate_podSent (s : State) (core : Nat) (h : HomeStore) : (s.propagate core h).podSent = s.podSent := rfl
@[simp] theorem State.propagate_podReply (s : State) (core : Nat) (h : HomeStore) : (s.propagate core h).podReply = s.podReply := rfl
@[simp] theorem State.propagate_peers (s : State) (core : Nat) (h : HomeStore) : (s.propagate core h).peers = s.peers := rfl
@[simp] theorem State.propagate_fcount (s : State) (core : Nat) (h : HomeStore) : (s.propagate core h).fcount = s.fcount := rfl
@[simp] theorem State.propagate_lastBubble (s : State) (core : Nat) (h : HomeStore) : (s.propagate core h).lastBubble = s.lastBubble := rfl
@[simp] theorem State.propagate_clusters (s : State) (core : Nat) (h : HomeStore) : (s.propagate core h).clusters = s.clusters := rfl
@[simp] theorem State.propagate_mem (s : State) (core : Nat) (h : HomeStore) : (s.propagate core h).mem = s.mem := rfl
@[simp] theorem State.propagate_memInit (s : State) (core : Nat) (h : HomeStore) : (s.propagate core h).memInit = s.memInit := rfl
@[simp] theorem State.propagate_homes (s : State) (core : Nat) (h : HomeStore) : (s.propagate core h).homes = s.homes := rfl
@[simp] theorem State.propagate_nextSeq (s : State) (core : Nat) (h : HomeStore) : (s.propagate core h).nextSeq = s.nextSeq := rfl
@[simp] theorem State.propagate_hostCopy (s : State) (core : Nat) (h : HomeStore) : (s.propagate core h).hostCopy = s.hostCopy := rfl
@[simp] theorem State.propagate_pending (s : State) (core : Nat) (h : HomeStore) : (s.propagate core h).pending = s.pending := rfl
@[simp] theorem State.propagate_poisoned (s : State) (core : Nat) (h : HomeStore) : (s.propagate core h).poisoned = s.poisoned := rfl
@[simp] theorem State.propagate_tags (s : State) (core : Nat) (h : HomeStore) : (s.propagate core h).tags = s.tags := rfl
@[simp] theorem State.propagate_contexts (s : State) (core : Nat) (h : HomeStore) : (s.propagate core h).contexts = s.contexts := rfl
@[simp] theorem State.propagate_jobs (s : State) (core : Nat) (h : HomeStore) : (s.propagate core h).jobs = s.jobs := rfl
@[simp] theorem State.propagate_gangs (s : State) (core : Nat) (h : HomeStore) : (s.propagate core h).gangs = s.gangs := rfl
@[simp] theorem State.propagate_migrations (s : State) (core : Nat) (h : HomeStore) : (s.propagate core h).migrations = s.migrations := rfl
@[simp] theorem State.propagate_nextUid (s : State) (core : Nat) (h : HomeStore) : (s.propagate core h).nextUid = s.nextUid := rfl
@[simp] theorem State.propagate_runs (s : State) (core : Nat) (h : HomeStore) : (s.propagate core h).runs = s.runs := rfl
@[simp] theorem State.propagate_agenda (s : State) (core : Nat) (h : HomeStore) : (s.propagate core h).agenda = s.agenda := rfl
@[simp] theorem State.propagate_choices (s : State) (core : Nat) (h : HomeStore) : (s.propagate core h).choices = s.choices := rfl

/-! ## A view set to the homes -/

@[simp] theorem State.viewAt_booted (s : State) (core : Nat) (ks : List Nat) : (s.viewAt core ks).booted = s.booted := rfl
@[simp] theorem State.viewAt_flash (s : State) (core : Nat) (ks : List Nat) : (s.viewAt core ks).flash = s.flash := rfl
@[simp] theorem State.viewAt_measured (s : State) (core : Nat) (ks : List Nat) : (s.viewAt core ks).measured = s.measured := rfl
@[simp] theorem State.viewAt_fwVersion (s : State) (core : Nat) (ks : List Nat) : (s.viewAt core ks).fwVersion = s.fwVersion := rfl
@[simp] theorem State.viewAt_fuseKey (s : State) (core : Nat) (ks : List Nat) : (s.viewAt core ks).fuseKey = s.fuseKey := rfl
@[simp] theorem State.viewAt_fuseMin (s : State) (core : Nat) (ks : List Nat) : (s.viewAt core ks).fuseMin = s.fuseMin := rfl
@[simp] theorem State.viewAt_fuseCfg (s : State) (core : Nat) (ks : List Nat) : (s.viewAt core ks).fuseCfg = s.fuseCfg := rfl
@[simp] theorem State.viewAt_idKey (s : State) (core : Nat) (ks : List Nat) : (s.viewAt core ks).idKey = s.idKey := rfl
@[simp] theorem State.viewAt_linkUp (s : State) (core : Nat) (ks : List Nat) : (s.viewAt core ks).linkUp = s.linkUp := rfl
@[simp] theorem State.viewAt_linkAtomics (s : State) (core : Nat) (ks : List Nat) : (s.viewAt core ks).linkAtomics = s.linkAtomics := rfl
@[simp] theorem State.viewAt_devid (s : State) (core : Nat) (ks : List Nat) : (s.viewAt core ks).devid = s.devid := rfl
@[simp] theorem State.viewAt_hifVer (s : State) (core : Nat) (ks : List Nat) : (s.viewAt core ks).hifVer = s.hifVer := rfl
@[simp] theorem State.viewAt_wsDrop (s : State) (core : Nat) (ks : List Nat) : (s.viewAt core ks).wsDrop = s.wsDrop := rfl
@[simp] theorem State.viewAt_routes (s : State) (core : Nat) (ks : List Nat) : (s.viewAt core ks).routes = s.routes := rfl
@[simp] theorem State.viewAt_gulVer (s : State) (core : Nat) (ks : List Nat) : (s.viewAt core ks).gulVer = s.gulVer := rfl
@[simp] theorem State.viewAt_ctxcmd (s : State) (core : Nat) (ks : List Nat) : (s.viewAt core ks).ctxcmd = s.ctxcmd := rfl
@[simp] theorem State.viewAt_ctxPend (s : State) (core : Nat) (ks : List Nat) : (s.viewAt core ks).ctxPend = s.ctxPend := rfl
@[simp] theorem State.viewAt_mailbox (s : State) (core : Nat) (ks : List Nat) : (s.viewAt core ks).mailbox = s.mailbox := rfl
@[simp] theorem State.viewAt_evCounters (s : State) (core : Nat) (ks : List Nat) : (s.viewAt core ks).evCounters = s.evCounters := rfl
@[simp] theorem State.viewAt_spdm (s : State) (core : Nat) (ks : List Nat) : (s.viewAt core ks).spdm = s.spdm := rfl
@[simp] theorem State.viewAt_tdisp (s : State) (core : Nat) (ks : List Nat) : (s.viewAt core ks).tdisp = s.tdisp := rfl
@[simp] theorem State.viewAt_hostData (s : State) (core : Nat) (ks : List Nat) : (s.viewAt core ks).hostData = s.hostData := rfl
@[simp] theorem State.viewAt_podSent (s : State) (core : Nat) (ks : List Nat) : (s.viewAt core ks).podSent = s.podSent := rfl
@[simp] theorem State.viewAt_podReply (s : State) (core : Nat) (ks : List Nat) : (s.viewAt core ks).podReply = s.podReply := rfl
@[simp] theorem State.viewAt_peers (s : State) (core : Nat) (ks : List Nat) : (s.viewAt core ks).peers = s.peers := rfl
@[simp] theorem State.viewAt_fcount (s : State) (core : Nat) (ks : List Nat) : (s.viewAt core ks).fcount = s.fcount := rfl
@[simp] theorem State.viewAt_lastBubble (s : State) (core : Nat) (ks : List Nat) : (s.viewAt core ks).lastBubble = s.lastBubble := rfl
@[simp] theorem State.viewAt_clusters (s : State) (core : Nat) (ks : List Nat) : (s.viewAt core ks).clusters = s.clusters := rfl
@[simp] theorem State.viewAt_mem (s : State) (core : Nat) (ks : List Nat) : (s.viewAt core ks).mem = s.mem := rfl
@[simp] theorem State.viewAt_memInit (s : State) (core : Nat) (ks : List Nat) : (s.viewAt core ks).memInit = s.memInit := rfl
@[simp] theorem State.viewAt_homes (s : State) (core : Nat) (ks : List Nat) : (s.viewAt core ks).homes = s.homes := rfl
@[simp] theorem State.viewAt_nextSeq (s : State) (core : Nat) (ks : List Nat) : (s.viewAt core ks).nextSeq = s.nextSeq := rfl
@[simp] theorem State.viewAt_hostCopy (s : State) (core : Nat) (ks : List Nat) : (s.viewAt core ks).hostCopy = s.hostCopy := rfl
@[simp] theorem State.viewAt_pending (s : State) (core : Nat) (ks : List Nat) : (s.viewAt core ks).pending = s.pending := rfl
@[simp] theorem State.viewAt_poisoned (s : State) (core : Nat) (ks : List Nat) : (s.viewAt core ks).poisoned = s.poisoned := rfl
@[simp] theorem State.viewAt_tags (s : State) (core : Nat) (ks : List Nat) : (s.viewAt core ks).tags = s.tags := rfl
@[simp] theorem State.viewAt_contexts (s : State) (core : Nat) (ks : List Nat) : (s.viewAt core ks).contexts = s.contexts := rfl
@[simp] theorem State.viewAt_jobs (s : State) (core : Nat) (ks : List Nat) : (s.viewAt core ks).jobs = s.jobs := rfl
@[simp] theorem State.viewAt_gangs (s : State) (core : Nat) (ks : List Nat) : (s.viewAt core ks).gangs = s.gangs := rfl
@[simp] theorem State.viewAt_migrations (s : State) (core : Nat) (ks : List Nat) : (s.viewAt core ks).migrations = s.migrations := rfl
@[simp] theorem State.viewAt_nextUid (s : State) (core : Nat) (ks : List Nat) : (s.viewAt core ks).nextUid = s.nextUid := rfl
@[simp] theorem State.viewAt_runs (s : State) (core : Nat) (ks : List Nat) : (s.viewAt core ks).runs = s.runs := rfl
@[simp] theorem State.viewAt_agenda (s : State) (core : Nat) (ks : List Nat) : (s.viewAt core ks).agenda = s.agenda := rfl
@[simp] theorem State.viewAt_choices (s : State) (core : Nat) (ks : List Nat) : (s.viewAt core ks).choices = s.choices := rfl
@[simp] theorem State.viewHome_booted (s : State) (core key n : Nat) : (s.viewHome core key n).booted = s.booted := rfl
@[simp] theorem State.viewHome_flash (s : State) (core key n : Nat) : (s.viewHome core key n).flash = s.flash := rfl
@[simp] theorem State.viewHome_measured (s : State) (core key n : Nat) : (s.viewHome core key n).measured = s.measured := rfl
@[simp] theorem State.viewHome_fwVersion (s : State) (core key n : Nat) : (s.viewHome core key n).fwVersion = s.fwVersion := rfl
@[simp] theorem State.viewHome_fuseKey (s : State) (core key n : Nat) : (s.viewHome core key n).fuseKey = s.fuseKey := rfl
@[simp] theorem State.viewHome_fuseMin (s : State) (core key n : Nat) : (s.viewHome core key n).fuseMin = s.fuseMin := rfl
@[simp] theorem State.viewHome_fuseCfg (s : State) (core key n : Nat) : (s.viewHome core key n).fuseCfg = s.fuseCfg := rfl
@[simp] theorem State.viewHome_idKey (s : State) (core key n : Nat) : (s.viewHome core key n).idKey = s.idKey := rfl
@[simp] theorem State.viewHome_linkUp (s : State) (core key n : Nat) : (s.viewHome core key n).linkUp = s.linkUp := rfl
@[simp] theorem State.viewHome_linkAtomics (s : State) (core key n : Nat) : (s.viewHome core key n).linkAtomics = s.linkAtomics := rfl
@[simp] theorem State.viewHome_devid (s : State) (core key n : Nat) : (s.viewHome core key n).devid = s.devid := rfl
@[simp] theorem State.viewHome_hifVer (s : State) (core key n : Nat) : (s.viewHome core key n).hifVer = s.hifVer := rfl
@[simp] theorem State.viewHome_wsDrop (s : State) (core key n : Nat) : (s.viewHome core key n).wsDrop = s.wsDrop := rfl
@[simp] theorem State.viewHome_routes (s : State) (core key n : Nat) : (s.viewHome core key n).routes = s.routes := rfl
@[simp] theorem State.viewHome_gulVer (s : State) (core key n : Nat) : (s.viewHome core key n).gulVer = s.gulVer := rfl
@[simp] theorem State.viewHome_ctxcmd (s : State) (core key n : Nat) : (s.viewHome core key n).ctxcmd = s.ctxcmd := rfl
@[simp] theorem State.viewHome_ctxPend (s : State) (core key n : Nat) : (s.viewHome core key n).ctxPend = s.ctxPend := rfl
@[simp] theorem State.viewHome_mailbox (s : State) (core key n : Nat) : (s.viewHome core key n).mailbox = s.mailbox := rfl
@[simp] theorem State.viewHome_evCounters (s : State) (core key n : Nat) : (s.viewHome core key n).evCounters = s.evCounters := rfl
@[simp] theorem State.viewHome_spdm (s : State) (core key n : Nat) : (s.viewHome core key n).spdm = s.spdm := rfl
@[simp] theorem State.viewHome_tdisp (s : State) (core key n : Nat) : (s.viewHome core key n).tdisp = s.tdisp := rfl
@[simp] theorem State.viewHome_hostData (s : State) (core key n : Nat) : (s.viewHome core key n).hostData = s.hostData := rfl
@[simp] theorem State.viewHome_podSent (s : State) (core key n : Nat) : (s.viewHome core key n).podSent = s.podSent := rfl
@[simp] theorem State.viewHome_podReply (s : State) (core key n : Nat) : (s.viewHome core key n).podReply = s.podReply := rfl
@[simp] theorem State.viewHome_peers (s : State) (core key n : Nat) : (s.viewHome core key n).peers = s.peers := rfl
@[simp] theorem State.viewHome_fcount (s : State) (core key n : Nat) : (s.viewHome core key n).fcount = s.fcount := rfl
@[simp] theorem State.viewHome_lastBubble (s : State) (core key n : Nat) : (s.viewHome core key n).lastBubble = s.lastBubble := rfl
@[simp] theorem State.viewHome_clusters (s : State) (core key n : Nat) : (s.viewHome core key n).clusters = s.clusters := rfl
@[simp] theorem State.viewHome_mem (s : State) (core key n : Nat) : (s.viewHome core key n).mem = s.mem := rfl
@[simp] theorem State.viewHome_memInit (s : State) (core key n : Nat) : (s.viewHome core key n).memInit = s.memInit := rfl
@[simp] theorem State.viewHome_homes (s : State) (core key n : Nat) : (s.viewHome core key n).homes = s.homes := rfl
@[simp] theorem State.viewHome_nextSeq (s : State) (core key n : Nat) : (s.viewHome core key n).nextSeq = s.nextSeq := rfl
@[simp] theorem State.viewHome_hostCopy (s : State) (core key n : Nat) : (s.viewHome core key n).hostCopy = s.hostCopy := rfl
@[simp] theorem State.viewHome_pending (s : State) (core key n : Nat) : (s.viewHome core key n).pending = s.pending := rfl
@[simp] theorem State.viewHome_poisoned (s : State) (core key n : Nat) : (s.viewHome core key n).poisoned = s.poisoned := rfl
@[simp] theorem State.viewHome_tags (s : State) (core key n : Nat) : (s.viewHome core key n).tags = s.tags := rfl
@[simp] theorem State.viewHome_contexts (s : State) (core key n : Nat) : (s.viewHome core key n).contexts = s.contexts := rfl
@[simp] theorem State.viewHome_jobs (s : State) (core key n : Nat) : (s.viewHome core key n).jobs = s.jobs := rfl
@[simp] theorem State.viewHome_gangs (s : State) (core key n : Nat) : (s.viewHome core key n).gangs = s.gangs := rfl
@[simp] theorem State.viewHome_migrations (s : State) (core key n : Nat) : (s.viewHome core key n).migrations = s.migrations := rfl
@[simp] theorem State.viewHome_nextUid (s : State) (core key n : Nat) : (s.viewHome core key n).nextUid = s.nextUid := rfl
@[simp] theorem State.viewHome_runs (s : State) (core key n : Nat) : (s.viewHome core key n).runs = s.runs := rfl
@[simp] theorem State.viewHome_agenda (s : State) (core key n : Nat) : (s.viewHome core key n).agenda = s.agenda := rfl
@[simp] theorem State.viewHome_choices (s : State) (core key n : Nat) : (s.viewHome core key n).choices = s.choices := rfl

/-! ## A view caught up -/

@[simp] theorem State.catchUp_booted (s : State) (core : Nat) : (s.catchUp core).booted = s.booted := rfl
@[simp] theorem State.catchUp_flash (s : State) (core : Nat) : (s.catchUp core).flash = s.flash := rfl
@[simp] theorem State.catchUp_measured (s : State) (core : Nat) : (s.catchUp core).measured = s.measured := rfl
@[simp] theorem State.catchUp_fwVersion (s : State) (core : Nat) : (s.catchUp core).fwVersion = s.fwVersion := rfl
@[simp] theorem State.catchUp_fuseKey (s : State) (core : Nat) : (s.catchUp core).fuseKey = s.fuseKey := rfl
@[simp] theorem State.catchUp_fuseMin (s : State) (core : Nat) : (s.catchUp core).fuseMin = s.fuseMin := rfl
@[simp] theorem State.catchUp_fuseCfg (s : State) (core : Nat) : (s.catchUp core).fuseCfg = s.fuseCfg := rfl
@[simp] theorem State.catchUp_idKey (s : State) (core : Nat) : (s.catchUp core).idKey = s.idKey := rfl
@[simp] theorem State.catchUp_linkUp (s : State) (core : Nat) : (s.catchUp core).linkUp = s.linkUp := rfl
@[simp] theorem State.catchUp_linkAtomics (s : State) (core : Nat) : (s.catchUp core).linkAtomics = s.linkAtomics := rfl
@[simp] theorem State.catchUp_devid (s : State) (core : Nat) : (s.catchUp core).devid = s.devid := rfl
@[simp] theorem State.catchUp_hifVer (s : State) (core : Nat) : (s.catchUp core).hifVer = s.hifVer := rfl
@[simp] theorem State.catchUp_wsDrop (s : State) (core : Nat) : (s.catchUp core).wsDrop = s.wsDrop := rfl
@[simp] theorem State.catchUp_routes (s : State) (core : Nat) : (s.catchUp core).routes = s.routes := rfl
@[simp] theorem State.catchUp_gulVer (s : State) (core : Nat) : (s.catchUp core).gulVer = s.gulVer := rfl
@[simp] theorem State.catchUp_ctxcmd (s : State) (core : Nat) : (s.catchUp core).ctxcmd = s.ctxcmd := rfl
@[simp] theorem State.catchUp_ctxPend (s : State) (core : Nat) : (s.catchUp core).ctxPend = s.ctxPend := rfl
@[simp] theorem State.catchUp_mailbox (s : State) (core : Nat) : (s.catchUp core).mailbox = s.mailbox := rfl
@[simp] theorem State.catchUp_evCounters (s : State) (core : Nat) : (s.catchUp core).evCounters = s.evCounters := rfl
@[simp] theorem State.catchUp_spdm (s : State) (core : Nat) : (s.catchUp core).spdm = s.spdm := rfl
@[simp] theorem State.catchUp_tdisp (s : State) (core : Nat) : (s.catchUp core).tdisp = s.tdisp := rfl
@[simp] theorem State.catchUp_hostData (s : State) (core : Nat) : (s.catchUp core).hostData = s.hostData := rfl
@[simp] theorem State.catchUp_podSent (s : State) (core : Nat) : (s.catchUp core).podSent = s.podSent := rfl
@[simp] theorem State.catchUp_podReply (s : State) (core : Nat) : (s.catchUp core).podReply = s.podReply := rfl
@[simp] theorem State.catchUp_peers (s : State) (core : Nat) : (s.catchUp core).peers = s.peers := rfl
@[simp] theorem State.catchUp_fcount (s : State) (core : Nat) : (s.catchUp core).fcount = s.fcount := rfl
@[simp] theorem State.catchUp_lastBubble (s : State) (core : Nat) : (s.catchUp core).lastBubble = s.lastBubble := rfl
@[simp] theorem State.catchUp_clusters (s : State) (core : Nat) : (s.catchUp core).clusters = s.clusters := rfl
@[simp] theorem State.catchUp_mem (s : State) (core : Nat) : (s.catchUp core).mem = s.mem := rfl
@[simp] theorem State.catchUp_memInit (s : State) (core : Nat) : (s.catchUp core).memInit = s.memInit := rfl
@[simp] theorem State.catchUp_homes (s : State) (core : Nat) : (s.catchUp core).homes = s.homes := rfl
@[simp] theorem State.catchUp_nextSeq (s : State) (core : Nat) : (s.catchUp core).nextSeq = s.nextSeq := rfl
@[simp] theorem State.catchUp_hostCopy (s : State) (core : Nat) : (s.catchUp core).hostCopy = s.hostCopy := rfl
@[simp] theorem State.catchUp_pending (s : State) (core : Nat) : (s.catchUp core).pending = s.pending := rfl
@[simp] theorem State.catchUp_poisoned (s : State) (core : Nat) : (s.catchUp core).poisoned = s.poisoned := rfl
@[simp] theorem State.catchUp_tags (s : State) (core : Nat) : (s.catchUp core).tags = s.tags := rfl
@[simp] theorem State.catchUp_contexts (s : State) (core : Nat) : (s.catchUp core).contexts = s.contexts := rfl
@[simp] theorem State.catchUp_jobs (s : State) (core : Nat) : (s.catchUp core).jobs = s.jobs := rfl
@[simp] theorem State.catchUp_gangs (s : State) (core : Nat) : (s.catchUp core).gangs = s.gangs := rfl
@[simp] theorem State.catchUp_migrations (s : State) (core : Nat) : (s.catchUp core).migrations = s.migrations := rfl
@[simp] theorem State.catchUp_nextUid (s : State) (core : Nat) : (s.catchUp core).nextUid = s.nextUid := rfl
@[simp] theorem State.catchUp_runs (s : State) (core : Nat) : (s.catchUp core).runs = s.runs := rfl
@[simp] theorem State.catchUp_agenda (s : State) (core : Nat) : (s.catchUp core).agenda = s.agenda := rfl
@[simp] theorem State.catchUp_choices (s : State) (core : Nat) : (s.catchUp core).choices = s.choices := rfl

/-! ## Dependences examined -/

@[simp] theorem State.recheck_booted (s : State)  : (s.recheck).booted = s.booted := rfl
@[simp] theorem State.recheck_flash (s : State)  : (s.recheck).flash = s.flash := rfl
@[simp] theorem State.recheck_measured (s : State)  : (s.recheck).measured = s.measured := rfl
@[simp] theorem State.recheck_fwVersion (s : State)  : (s.recheck).fwVersion = s.fwVersion := rfl
@[simp] theorem State.recheck_fuseKey (s : State)  : (s.recheck).fuseKey = s.fuseKey := rfl
@[simp] theorem State.recheck_fuseMin (s : State)  : (s.recheck).fuseMin = s.fuseMin := rfl
@[simp] theorem State.recheck_fuseCfg (s : State)  : (s.recheck).fuseCfg = s.fuseCfg := rfl
@[simp] theorem State.recheck_idKey (s : State)  : (s.recheck).idKey = s.idKey := rfl
@[simp] theorem State.recheck_linkUp (s : State)  : (s.recheck).linkUp = s.linkUp := rfl
@[simp] theorem State.recheck_linkAtomics (s : State)  : (s.recheck).linkAtomics = s.linkAtomics := rfl
@[simp] theorem State.recheck_devid (s : State)  : (s.recheck).devid = s.devid := rfl
@[simp] theorem State.recheck_hifVer (s : State)  : (s.recheck).hifVer = s.hifVer := rfl
@[simp] theorem State.recheck_wsDrop (s : State)  : (s.recheck).wsDrop = s.wsDrop := rfl
@[simp] theorem State.recheck_routes (s : State)  : (s.recheck).routes = s.routes := rfl
@[simp] theorem State.recheck_gulVer (s : State)  : (s.recheck).gulVer = s.gulVer := rfl
@[simp] theorem State.recheck_ctxcmd (s : State)  : (s.recheck).ctxcmd = s.ctxcmd := rfl
@[simp] theorem State.recheck_ctxPend (s : State)  : (s.recheck).ctxPend = s.ctxPend := rfl
@[simp] theorem State.recheck_mailbox (s : State)  : (s.recheck).mailbox = s.mailbox := rfl
@[simp] theorem State.recheck_evCounters (s : State)  : (s.recheck).evCounters = s.evCounters := rfl
@[simp] theorem State.recheck_spdm (s : State)  : (s.recheck).spdm = s.spdm := rfl
@[simp] theorem State.recheck_tdisp (s : State)  : (s.recheck).tdisp = s.tdisp := rfl
@[simp] theorem State.recheck_hostData (s : State)  : (s.recheck).hostData = s.hostData := rfl
@[simp] theorem State.recheck_podSent (s : State)  : (s.recheck).podSent = s.podSent := rfl
@[simp] theorem State.recheck_podReply (s : State)  : (s.recheck).podReply = s.podReply := rfl
@[simp] theorem State.recheck_peers (s : State)  : (s.recheck).peers = s.peers := rfl
@[simp] theorem State.recheck_fcount (s : State)  : (s.recheck).fcount = s.fcount := rfl
@[simp] theorem State.recheck_lastBubble (s : State)  : (s.recheck).lastBubble = s.lastBubble := rfl
@[simp] theorem State.recheck_clusters (s : State)  : (s.recheck).clusters = s.clusters := rfl
@[simp] theorem State.recheck_mem (s : State)  : (s.recheck).mem = s.mem := rfl
@[simp] theorem State.recheck_memInit (s : State)  : (s.recheck).memInit = s.memInit := rfl
@[simp] theorem State.recheck_homes (s : State)  : (s.recheck).homes = s.homes := rfl
@[simp] theorem State.recheck_nextSeq (s : State)  : (s.recheck).nextSeq = s.nextSeq := rfl
@[simp] theorem State.recheck_hostCopy (s : State)  : (s.recheck).hostCopy = s.hostCopy := rfl
@[simp] theorem State.recheck_pending (s : State)  : (s.recheck).pending = s.pending := rfl
@[simp] theorem State.recheck_poisoned (s : State)  : (s.recheck).poisoned = s.poisoned := rfl
@[simp] theorem State.recheck_tags (s : State)  : (s.recheck).tags = s.tags := rfl
@[simp] theorem State.recheck_contexts (s : State)  : (s.recheck).contexts = s.contexts := rfl
@[simp] theorem State.recheck_gangs (s : State)  : (s.recheck).gangs = s.gangs := rfl
@[simp] theorem State.recheck_cores (s : State)  : (s.recheck).cores = s.cores := rfl
@[simp] theorem State.recheck_migrations (s : State)  : (s.recheck).migrations = s.migrations := rfl
@[simp] theorem State.recheck_nextUid (s : State)  : (s.recheck).nextUid = s.nextUid := rfl
@[simp] theorem State.recheck_runs (s : State)  : (s.recheck).runs = s.runs := rfl
@[simp] theorem State.recheck_agenda (s : State)  : (s.recheck).agenda = s.agenda := rfl
@[simp] theorem State.recheck_choices (s : State)  : (s.recheck).choices = s.choices := rfl

/-! ## A group replaced, the run ended or counted -/

theorem State.setGroup_eq (s : State) (q : QId) (x : Group) :
    s.setGroup q x = { s with gangs := (s.setGroup q x).gangs, cores := (s.setGroup q x).cores } := by
  cases q <;> simp only [State.setGroup] <;> split <;> rfl

@[simp] theorem State.setGroup_booted (s : State) (q : QId) (x : Group) : (s.setGroup q x).booted = s.booted :=
  by rw [State.setGroup_eq]
@[simp] theorem State.setGroup_flash (s : State) (q : QId) (x : Group) : (s.setGroup q x).flash = s.flash :=
  by rw [State.setGroup_eq]
@[simp] theorem State.setGroup_measured (s : State) (q : QId) (x : Group) : (s.setGroup q x).measured = s.measured :=
  by rw [State.setGroup_eq]
@[simp] theorem State.setGroup_fwVersion (s : State) (q : QId) (x : Group) : (s.setGroup q x).fwVersion = s.fwVersion :=
  by rw [State.setGroup_eq]
@[simp] theorem State.setGroup_fuseKey (s : State) (q : QId) (x : Group) : (s.setGroup q x).fuseKey = s.fuseKey :=
  by rw [State.setGroup_eq]
@[simp] theorem State.setGroup_fuseMin (s : State) (q : QId) (x : Group) : (s.setGroup q x).fuseMin = s.fuseMin :=
  by rw [State.setGroup_eq]
@[simp] theorem State.setGroup_fuseCfg (s : State) (q : QId) (x : Group) : (s.setGroup q x).fuseCfg = s.fuseCfg :=
  by rw [State.setGroup_eq]
@[simp] theorem State.setGroup_idKey (s : State) (q : QId) (x : Group) : (s.setGroup q x).idKey = s.idKey :=
  by rw [State.setGroup_eq]
@[simp] theorem State.setGroup_linkUp (s : State) (q : QId) (x : Group) : (s.setGroup q x).linkUp = s.linkUp :=
  by rw [State.setGroup_eq]
@[simp] theorem State.setGroup_linkAtomics (s : State) (q : QId) (x : Group) : (s.setGroup q x).linkAtomics = s.linkAtomics :=
  by rw [State.setGroup_eq]
@[simp] theorem State.setGroup_devid (s : State) (q : QId) (x : Group) : (s.setGroup q x).devid = s.devid :=
  by rw [State.setGroup_eq]
@[simp] theorem State.setGroup_hifVer (s : State) (q : QId) (x : Group) : (s.setGroup q x).hifVer = s.hifVer :=
  by rw [State.setGroup_eq]
@[simp] theorem State.setGroup_wsDrop (s : State) (q : QId) (x : Group) : (s.setGroup q x).wsDrop = s.wsDrop :=
  by rw [State.setGroup_eq]
@[simp] theorem State.setGroup_routes (s : State) (q : QId) (x : Group) : (s.setGroup q x).routes = s.routes :=
  by rw [State.setGroup_eq]
@[simp] theorem State.setGroup_gulVer (s : State) (q : QId) (x : Group) : (s.setGroup q x).gulVer = s.gulVer :=
  by rw [State.setGroup_eq]
@[simp] theorem State.setGroup_ctxcmd (s : State) (q : QId) (x : Group) : (s.setGroup q x).ctxcmd = s.ctxcmd :=
  by rw [State.setGroup_eq]
@[simp] theorem State.setGroup_ctxPend (s : State) (q : QId) (x : Group) : (s.setGroup q x).ctxPend = s.ctxPend :=
  by rw [State.setGroup_eq]
@[simp] theorem State.setGroup_mailbox (s : State) (q : QId) (x : Group) : (s.setGroup q x).mailbox = s.mailbox :=
  by rw [State.setGroup_eq]
@[simp] theorem State.setGroup_evCounters (s : State) (q : QId) (x : Group) : (s.setGroup q x).evCounters = s.evCounters :=
  by rw [State.setGroup_eq]
@[simp] theorem State.setGroup_spdm (s : State) (q : QId) (x : Group) : (s.setGroup q x).spdm = s.spdm :=
  by rw [State.setGroup_eq]
@[simp] theorem State.setGroup_tdisp (s : State) (q : QId) (x : Group) : (s.setGroup q x).tdisp = s.tdisp :=
  by rw [State.setGroup_eq]
@[simp] theorem State.setGroup_hostData (s : State) (q : QId) (x : Group) : (s.setGroup q x).hostData = s.hostData :=
  by rw [State.setGroup_eq]
@[simp] theorem State.setGroup_podSent (s : State) (q : QId) (x : Group) : (s.setGroup q x).podSent = s.podSent :=
  by rw [State.setGroup_eq]
@[simp] theorem State.setGroup_podReply (s : State) (q : QId) (x : Group) : (s.setGroup q x).podReply = s.podReply :=
  by rw [State.setGroup_eq]
@[simp] theorem State.setGroup_peers (s : State) (q : QId) (x : Group) : (s.setGroup q x).peers = s.peers :=
  by rw [State.setGroup_eq]
@[simp] theorem State.setGroup_fcount (s : State) (q : QId) (x : Group) : (s.setGroup q x).fcount = s.fcount :=
  by rw [State.setGroup_eq]
@[simp] theorem State.setGroup_lastBubble (s : State) (q : QId) (x : Group) : (s.setGroup q x).lastBubble = s.lastBubble :=
  by rw [State.setGroup_eq]
@[simp] theorem State.setGroup_clusters (s : State) (q : QId) (x : Group) : (s.setGroup q x).clusters = s.clusters :=
  by rw [State.setGroup_eq]
@[simp] theorem State.setGroup_mem (s : State) (q : QId) (x : Group) : (s.setGroup q x).mem = s.mem :=
  by rw [State.setGroup_eq]
@[simp] theorem State.setGroup_memInit (s : State) (q : QId) (x : Group) : (s.setGroup q x).memInit = s.memInit :=
  by rw [State.setGroup_eq]
@[simp] theorem State.setGroup_homes (s : State) (q : QId) (x : Group) : (s.setGroup q x).homes = s.homes :=
  by rw [State.setGroup_eq]
@[simp] theorem State.setGroup_nextSeq (s : State) (q : QId) (x : Group) : (s.setGroup q x).nextSeq = s.nextSeq :=
  by rw [State.setGroup_eq]
@[simp] theorem State.setGroup_hostCopy (s : State) (q : QId) (x : Group) : (s.setGroup q x).hostCopy = s.hostCopy :=
  by rw [State.setGroup_eq]
@[simp] theorem State.setGroup_pending (s : State) (q : QId) (x : Group) : (s.setGroup q x).pending = s.pending :=
  by rw [State.setGroup_eq]
@[simp] theorem State.setGroup_poisoned (s : State) (q : QId) (x : Group) : (s.setGroup q x).poisoned = s.poisoned :=
  by rw [State.setGroup_eq]
@[simp] theorem State.setGroup_tags (s : State) (q : QId) (x : Group) : (s.setGroup q x).tags = s.tags :=
  by rw [State.setGroup_eq]
@[simp] theorem State.setGroup_contexts (s : State) (q : QId) (x : Group) : (s.setGroup q x).contexts = s.contexts :=
  by rw [State.setGroup_eq]
@[simp] theorem State.setGroup_jobs (s : State) (q : QId) (x : Group) : (s.setGroup q x).jobs = s.jobs :=
  by rw [State.setGroup_eq]
@[simp] theorem State.setGroup_migrations (s : State) (q : QId) (x : Group) : (s.setGroup q x).migrations = s.migrations :=
  by rw [State.setGroup_eq]
@[simp] theorem State.setGroup_nextUid (s : State) (q : QId) (x : Group) : (s.setGroup q x).nextUid = s.nextUid :=
  by rw [State.setGroup_eq]
@[simp] theorem State.setGroup_runs (s : State) (q : QId) (x : Group) : (s.setGroup q x).runs = s.runs :=
  by rw [State.setGroup_eq]
@[simp] theorem State.setGroup_agenda (s : State) (q : QId) (x : Group) : (s.setGroup q x).agenda = s.agenda :=
  by rw [State.setGroup_eq]
@[simp] theorem State.setGroup_choices (s : State) (q : QId) (x : Group) : (s.setGroup q x).choices = s.choices :=
  by rw [State.setGroup_eq]

@[simp] theorem State.dropRun_booted (s : State) : s.dropRun.booted = s.booted := by
  unfold State.dropRun; rfl
@[simp] theorem State.dropRun_flash (s : State) : s.dropRun.flash = s.flash := by
  unfold State.dropRun; rfl
@[simp] theorem State.dropRun_measured (s : State) : s.dropRun.measured = s.measured := by
  unfold State.dropRun; rfl
@[simp] theorem State.dropRun_fwVersion (s : State) : s.dropRun.fwVersion = s.fwVersion := by
  unfold State.dropRun; rfl
@[simp] theorem State.dropRun_fuseKey (s : State) : s.dropRun.fuseKey = s.fuseKey := by
  unfold State.dropRun; rfl
@[simp] theorem State.dropRun_fuseMin (s : State) : s.dropRun.fuseMin = s.fuseMin := by
  unfold State.dropRun; rfl
@[simp] theorem State.dropRun_fuseCfg (s : State) : s.dropRun.fuseCfg = s.fuseCfg := by
  unfold State.dropRun; rfl
@[simp] theorem State.dropRun_idKey (s : State) : s.dropRun.idKey = s.idKey := by
  unfold State.dropRun; rfl
@[simp] theorem State.dropRun_linkUp (s : State) : s.dropRun.linkUp = s.linkUp := by
  unfold State.dropRun; rfl
@[simp] theorem State.dropRun_linkAtomics (s : State) : s.dropRun.linkAtomics = s.linkAtomics := by
  unfold State.dropRun; rfl
@[simp] theorem State.dropRun_devid (s : State) : s.dropRun.devid = s.devid := by
  unfold State.dropRun; rfl
@[simp] theorem State.dropRun_hifVer (s : State) : s.dropRun.hifVer = s.hifVer := by
  unfold State.dropRun; rfl
@[simp] theorem State.dropRun_wsDrop (s : State) : s.dropRun.wsDrop = s.wsDrop := by
  unfold State.dropRun; rfl
@[simp] theorem State.dropRun_routes (s : State) : s.dropRun.routes = s.routes := by
  unfold State.dropRun; rfl
@[simp] theorem State.dropRun_gulVer (s : State) : s.dropRun.gulVer = s.gulVer := by
  unfold State.dropRun; rfl
@[simp] theorem State.dropRun_ctxcmd (s : State) : s.dropRun.ctxcmd = s.ctxcmd := by
  unfold State.dropRun; rfl
@[simp] theorem State.dropRun_ctxPend (s : State) : s.dropRun.ctxPend = s.ctxPend := by
  unfold State.dropRun; rfl
@[simp] theorem State.dropRun_mailbox (s : State) : s.dropRun.mailbox = s.mailbox := by
  unfold State.dropRun; rfl
@[simp] theorem State.dropRun_evCounters (s : State) : s.dropRun.evCounters = s.evCounters := by
  unfold State.dropRun; rfl
@[simp] theorem State.dropRun_spdm (s : State) : s.dropRun.spdm = s.spdm := by
  unfold State.dropRun; rfl
@[simp] theorem State.dropRun_tdisp (s : State) : s.dropRun.tdisp = s.tdisp := by
  unfold State.dropRun; rfl
@[simp] theorem State.dropRun_hostData (s : State) : s.dropRun.hostData = s.hostData := by
  unfold State.dropRun; rfl
@[simp] theorem State.dropRun_podSent (s : State) : s.dropRun.podSent = s.podSent := by
  unfold State.dropRun; rfl
@[simp] theorem State.dropRun_podReply (s : State) : s.dropRun.podReply = s.podReply := by
  unfold State.dropRun; rfl
@[simp] theorem State.dropRun_peers (s : State) : s.dropRun.peers = s.peers := by
  unfold State.dropRun; rfl
@[simp] theorem State.dropRun_fcount (s : State) : s.dropRun.fcount = s.fcount := by
  unfold State.dropRun; rfl
@[simp] theorem State.dropRun_lastBubble (s : State) : s.dropRun.lastBubble = s.lastBubble := by
  unfold State.dropRun; rfl
@[simp] theorem State.dropRun_clusters (s : State) : s.dropRun.clusters = s.clusters := by
  unfold State.dropRun; rfl
@[simp] theorem State.dropRun_mem (s : State) : s.dropRun.mem = s.mem := by
  unfold State.dropRun; rfl
@[simp] theorem State.dropRun_memInit (s : State) : s.dropRun.memInit = s.memInit := by
  unfold State.dropRun; rfl
@[simp] theorem State.dropRun_homes (s : State) : s.dropRun.homes = s.homes := by
  unfold State.dropRun; rfl
@[simp] theorem State.dropRun_nextSeq (s : State) : s.dropRun.nextSeq = s.nextSeq := by
  unfold State.dropRun; rfl
@[simp] theorem State.dropRun_hostCopy (s : State) : s.dropRun.hostCopy = s.hostCopy := by
  unfold State.dropRun; rfl
@[simp] theorem State.dropRun_pending (s : State) : s.dropRun.pending = s.pending := by
  unfold State.dropRun; rfl
@[simp] theorem State.dropRun_poisoned (s : State) : s.dropRun.poisoned = s.poisoned := by
  unfold State.dropRun; rfl
@[simp] theorem State.dropRun_tags (s : State) : s.dropRun.tags = s.tags := by
  unfold State.dropRun; rfl
@[simp] theorem State.dropRun_contexts (s : State) : s.dropRun.contexts = s.contexts := by
  unfold State.dropRun; rfl
@[simp] theorem State.dropRun_jobs (s : State) : s.dropRun.jobs = s.jobs := by
  unfold State.dropRun; rfl
@[simp] theorem State.dropRun_gangs (s : State) : s.dropRun.gangs = s.gangs := by
  unfold State.dropRun; rfl
@[simp] theorem State.dropRun_cores (s : State) : s.dropRun.cores = s.cores := by
  unfold State.dropRun; rfl
@[simp] theorem State.dropRun_migrations (s : State) : s.dropRun.migrations = s.migrations := by
  unfold State.dropRun; rfl
@[simp] theorem State.dropRun_nextUid (s : State) : s.dropRun.nextUid = s.nextUid := by
  unfold State.dropRun; rfl
@[simp] theorem State.dropRun_agenda (s : State) : s.dropRun.agenda = s.agenda := by
  unfold State.dropRun; rfl
@[simp] theorem State.dropRun_choices (s : State) : s.dropRun.choices = s.choices := by
  unfold State.dropRun; rfl

@[simp] theorem State.countRun_booted (s : State) : s.countRun.booted = s.booted := by
  unfold State.countRun; (try split) <;> rfl
@[simp] theorem State.countRun_flash (s : State) : s.countRun.flash = s.flash := by
  unfold State.countRun; (try split) <;> rfl
@[simp] theorem State.countRun_measured (s : State) : s.countRun.measured = s.measured := by
  unfold State.countRun; (try split) <;> rfl
@[simp] theorem State.countRun_fwVersion (s : State) : s.countRun.fwVersion = s.fwVersion := by
  unfold State.countRun; (try split) <;> rfl
@[simp] theorem State.countRun_fuseKey (s : State) : s.countRun.fuseKey = s.fuseKey := by
  unfold State.countRun; (try split) <;> rfl
@[simp] theorem State.countRun_fuseMin (s : State) : s.countRun.fuseMin = s.fuseMin := by
  unfold State.countRun; (try split) <;> rfl
@[simp] theorem State.countRun_fuseCfg (s : State) : s.countRun.fuseCfg = s.fuseCfg := by
  unfold State.countRun; (try split) <;> rfl
@[simp] theorem State.countRun_idKey (s : State) : s.countRun.idKey = s.idKey := by
  unfold State.countRun; (try split) <;> rfl
@[simp] theorem State.countRun_linkUp (s : State) : s.countRun.linkUp = s.linkUp := by
  unfold State.countRun; (try split) <;> rfl
@[simp] theorem State.countRun_linkAtomics (s : State) : s.countRun.linkAtomics = s.linkAtomics := by
  unfold State.countRun; (try split) <;> rfl
@[simp] theorem State.countRun_devid (s : State) : s.countRun.devid = s.devid := by
  unfold State.countRun; (try split) <;> rfl
@[simp] theorem State.countRun_hifVer (s : State) : s.countRun.hifVer = s.hifVer := by
  unfold State.countRun; (try split) <;> rfl
@[simp] theorem State.countRun_wsDrop (s : State) : s.countRun.wsDrop = s.wsDrop := by
  unfold State.countRun; (try split) <;> rfl
@[simp] theorem State.countRun_routes (s : State) : s.countRun.routes = s.routes := by
  unfold State.countRun; (try split) <;> rfl
@[simp] theorem State.countRun_gulVer (s : State) : s.countRun.gulVer = s.gulVer := by
  unfold State.countRun; (try split) <;> rfl
@[simp] theorem State.countRun_ctxcmd (s : State) : s.countRun.ctxcmd = s.ctxcmd := by
  unfold State.countRun; (try split) <;> rfl
@[simp] theorem State.countRun_ctxPend (s : State) : s.countRun.ctxPend = s.ctxPend := by
  unfold State.countRun; (try split) <;> rfl
@[simp] theorem State.countRun_mailbox (s : State) : s.countRun.mailbox = s.mailbox := by
  unfold State.countRun; (try split) <;> rfl
@[simp] theorem State.countRun_evCounters (s : State) : s.countRun.evCounters = s.evCounters := by
  unfold State.countRun; (try split) <;> rfl
@[simp] theorem State.countRun_spdm (s : State) : s.countRun.spdm = s.spdm := by
  unfold State.countRun; (try split) <;> rfl
@[simp] theorem State.countRun_tdisp (s : State) : s.countRun.tdisp = s.tdisp := by
  unfold State.countRun; (try split) <;> rfl
@[simp] theorem State.countRun_hostData (s : State) : s.countRun.hostData = s.hostData := by
  unfold State.countRun; (try split) <;> rfl
@[simp] theorem State.countRun_podSent (s : State) : s.countRun.podSent = s.podSent := by
  unfold State.countRun; (try split) <;> rfl
@[simp] theorem State.countRun_podReply (s : State) : s.countRun.podReply = s.podReply := by
  unfold State.countRun; (try split) <;> rfl
@[simp] theorem State.countRun_peers (s : State) : s.countRun.peers = s.peers := by
  unfold State.countRun; (try split) <;> rfl
@[simp] theorem State.countRun_fcount (s : State) : s.countRun.fcount = s.fcount := by
  unfold State.countRun; (try split) <;> rfl
@[simp] theorem State.countRun_lastBubble (s : State) : s.countRun.lastBubble = s.lastBubble := by
  unfold State.countRun; (try split) <;> rfl
@[simp] theorem State.countRun_clusters (s : State) : s.countRun.clusters = s.clusters := by
  unfold State.countRun; (try split) <;> rfl
@[simp] theorem State.countRun_mem (s : State) : s.countRun.mem = s.mem := by
  unfold State.countRun; (try split) <;> rfl
@[simp] theorem State.countRun_memInit (s : State) : s.countRun.memInit = s.memInit := by
  unfold State.countRun; (try split) <;> rfl
@[simp] theorem State.countRun_homes (s : State) : s.countRun.homes = s.homes := by
  unfold State.countRun; (try split) <;> rfl
@[simp] theorem State.countRun_nextSeq (s : State) : s.countRun.nextSeq = s.nextSeq := by
  unfold State.countRun; (try split) <;> rfl
@[simp] theorem State.countRun_hostCopy (s : State) : s.countRun.hostCopy = s.hostCopy := by
  unfold State.countRun; (try split) <;> rfl
@[simp] theorem State.countRun_pending (s : State) : s.countRun.pending = s.pending := by
  unfold State.countRun; (try split) <;> rfl
@[simp] theorem State.countRun_poisoned (s : State) : s.countRun.poisoned = s.poisoned := by
  unfold State.countRun; (try split) <;> rfl
@[simp] theorem State.countRun_tags (s : State) : s.countRun.tags = s.tags := by
  unfold State.countRun; (try split) <;> rfl
@[simp] theorem State.countRun_contexts (s : State) : s.countRun.contexts = s.contexts := by
  unfold State.countRun; (try split) <;> rfl
@[simp] theorem State.countRun_jobs (s : State) : s.countRun.jobs = s.jobs := by
  unfold State.countRun; (try split) <;> rfl
@[simp] theorem State.countRun_gangs (s : State) : s.countRun.gangs = s.gangs := by
  unfold State.countRun; (try split) <;> rfl
@[simp] theorem State.countRun_cores (s : State) : s.countRun.cores = s.cores := by
  unfold State.countRun; (try split) <;> rfl
@[simp] theorem State.countRun_migrations (s : State) : s.countRun.migrations = s.migrations := by
  unfold State.countRun; (try split) <;> rfl
@[simp] theorem State.countRun_nextUid (s : State) : s.countRun.nextUid = s.nextUid := by
  unfold State.countRun; (try split) <;> rfl
@[simp] theorem State.countRun_agenda (s : State) : s.countRun.agenda = s.agenda := by
  unfold State.countRun; (try split) <;> rfl
@[simp] theorem State.countRun_choices (s : State) : s.countRun.choices = s.choices := by
  unfold State.countRun; (try split) <;> rfl

@[simp] theorem Issue.commit_booted (m : Issue) : m.commit.booted = m.s.booted := State.setGroup_booted ..
@[simp] theorem Issue.commit_flash (m : Issue) : m.commit.flash = m.s.flash := State.setGroup_flash ..
@[simp] theorem Issue.commit_measured (m : Issue) : m.commit.measured = m.s.measured := State.setGroup_measured ..
@[simp] theorem Issue.commit_fwVersion (m : Issue) : m.commit.fwVersion = m.s.fwVersion := State.setGroup_fwVersion ..
@[simp] theorem Issue.commit_fuseKey (m : Issue) : m.commit.fuseKey = m.s.fuseKey := State.setGroup_fuseKey ..
@[simp] theorem Issue.commit_fuseMin (m : Issue) : m.commit.fuseMin = m.s.fuseMin := State.setGroup_fuseMin ..
@[simp] theorem Issue.commit_fuseCfg (m : Issue) : m.commit.fuseCfg = m.s.fuseCfg := State.setGroup_fuseCfg ..
@[simp] theorem Issue.commit_idKey (m : Issue) : m.commit.idKey = m.s.idKey := State.setGroup_idKey ..
@[simp] theorem Issue.commit_linkUp (m : Issue) : m.commit.linkUp = m.s.linkUp := State.setGroup_linkUp ..
@[simp] theorem Issue.commit_linkAtomics (m : Issue) : m.commit.linkAtomics = m.s.linkAtomics := State.setGroup_linkAtomics ..
@[simp] theorem Issue.commit_devid (m : Issue) : m.commit.devid = m.s.devid := State.setGroup_devid ..
@[simp] theorem Issue.commit_hifVer (m : Issue) : m.commit.hifVer = m.s.hifVer := State.setGroup_hifVer ..
@[simp] theorem Issue.commit_wsDrop (m : Issue) : m.commit.wsDrop = m.s.wsDrop := State.setGroup_wsDrop ..
@[simp] theorem Issue.commit_routes (m : Issue) : m.commit.routes = m.s.routes := State.setGroup_routes ..
@[simp] theorem Issue.commit_gulVer (m : Issue) : m.commit.gulVer = m.s.gulVer := State.setGroup_gulVer ..
@[simp] theorem Issue.commit_ctxcmd (m : Issue) : m.commit.ctxcmd = m.s.ctxcmd := State.setGroup_ctxcmd ..
@[simp] theorem Issue.commit_ctxPend (m : Issue) : m.commit.ctxPend = m.s.ctxPend := State.setGroup_ctxPend ..
@[simp] theorem Issue.commit_mailbox (m : Issue) : m.commit.mailbox = m.s.mailbox := State.setGroup_mailbox ..
@[simp] theorem Issue.commit_evCounters (m : Issue) : m.commit.evCounters = m.s.evCounters := State.setGroup_evCounters ..
@[simp] theorem Issue.commit_spdm (m : Issue) : m.commit.spdm = m.s.spdm := State.setGroup_spdm ..
@[simp] theorem Issue.commit_tdisp (m : Issue) : m.commit.tdisp = m.s.tdisp := State.setGroup_tdisp ..
@[simp] theorem Issue.commit_hostData (m : Issue) : m.commit.hostData = m.s.hostData := State.setGroup_hostData ..
@[simp] theorem Issue.commit_podSent (m : Issue) : m.commit.podSent = m.s.podSent := State.setGroup_podSent ..
@[simp] theorem Issue.commit_podReply (m : Issue) : m.commit.podReply = m.s.podReply := State.setGroup_podReply ..
@[simp] theorem Issue.commit_peers (m : Issue) : m.commit.peers = m.s.peers := State.setGroup_peers ..
@[simp] theorem Issue.commit_fcount (m : Issue) : m.commit.fcount = m.s.fcount := State.setGroup_fcount ..
@[simp] theorem Issue.commit_lastBubble (m : Issue) : m.commit.lastBubble = m.s.lastBubble := State.setGroup_lastBubble ..
@[simp] theorem Issue.commit_clusters (m : Issue) : m.commit.clusters = m.s.clusters := State.setGroup_clusters ..
@[simp] theorem Issue.commit_mem (m : Issue) : m.commit.mem = m.s.mem := State.setGroup_mem ..
@[simp] theorem Issue.commit_memInit (m : Issue) : m.commit.memInit = m.s.memInit := State.setGroup_memInit ..
@[simp] theorem Issue.commit_homes (m : Issue) : m.commit.homes = m.s.homes := State.setGroup_homes ..
@[simp] theorem Issue.commit_nextSeq (m : Issue) : m.commit.nextSeq = m.s.nextSeq := State.setGroup_nextSeq ..
@[simp] theorem Issue.commit_hostCopy (m : Issue) : m.commit.hostCopy = m.s.hostCopy := State.setGroup_hostCopy ..
@[simp] theorem Issue.commit_pending (m : Issue) : m.commit.pending = m.s.pending := State.setGroup_pending ..
@[simp] theorem Issue.commit_poisoned (m : Issue) : m.commit.poisoned = m.s.poisoned := State.setGroup_poisoned ..
@[simp] theorem Issue.commit_tags (m : Issue) : m.commit.tags = m.s.tags := State.setGroup_tags ..
@[simp] theorem Issue.commit_contexts (m : Issue) : m.commit.contexts = m.s.contexts := State.setGroup_contexts ..
@[simp] theorem Issue.commit_jobs (m : Issue) : m.commit.jobs = m.s.jobs := State.setGroup_jobs ..
@[simp] theorem Issue.commit_migrations (m : Issue) : m.commit.migrations = m.s.migrations := State.setGroup_migrations ..
@[simp] theorem Issue.commit_nextUid (m : Issue) : m.commit.nextUid = m.s.nextUid := State.setGroup_nextUid ..
@[simp] theorem Issue.commit_runs (m : Issue) : m.commit.runs = m.s.runs := State.setGroup_runs ..
@[simp] theorem Issue.commit_agenda (m : Issue) : m.commit.agenda = m.s.agenda := State.setGroup_agenda ..
@[simp] theorem Issue.commit_choices (m : Issue) : m.commit.choices = m.s.choices := State.setGroup_choices ..

/-! ## Lists by key -/

theorem find?_replaceFirst {α : Type} (p : α → Bool) (x : α) (l : List α) (hx : p x = true) (h : (l.find? p).isSome = true) :
    (replaceFirst p x l).find? p = some x := by
  induction l with
  | nil => simp at h
  | cons y r ih =>
    by_cases hy : p y = true
    · simp [replaceFirst, hy, hx]
    · simp only [Bool.not_eq_true] at hy
      simp only [replaceFirst, hy, Bool.false_eq_true, if_false, List.find?_cons] at h ⊢
      exact ih h

theorem find?_replaceFirst_of_ne {α : Type} (p q : α → Bool) (x : α) (l : List α) (hx : q x = false)
    (hpq : ∀ y, p y = true → q y = false) : (replaceFirst p x l).find? q = l.find? q := by
  induction l with
  | nil => rfl
  | cons y r ih =>
    by_cases hy : p y = true
    · simp [replaceFirst, hy, hx, hpq y hy]
    · simp [replaceFirst, hy, List.find?_cons, ih]

theorem find?_upsert {α : Type} (p : α → Bool) (x : α) (l : List α) (hx : p x = true) : (upsert p x l).find? p = some x := by
  induction l with
  | nil => simp [upsert, hx]
  | cons y r ih => by_cases hy : p y = true <;> simp_all [upsert]

theorem find?_upsert_of_ne {α : Type} (p q : α → Bool) (x : α) (l : List α) (hx : q x = false)
    (hpq : ∀ y, p y = true → q y = false) : (upsert p x l).find? q = l.find? q := by
  induction l with
  | nil => simp [upsert, hx]
  | cons y r ih =>
    by_cases hy : p y = true
    · simp [upsert, hy, hx, hpq y hy]
    · simp [upsert, hy, List.find?_cons, ih]

/-- A core read back after it was replaced. -/
@[simp] theorem State.core_setCore (s : State) (c : Core) : (s.setCore c).core c.idx = c := by
  simp [State.core, State.setCore, find?_upsert]

theorem State.core_setCore_of (s : State) (c : Core) (i : Nat) (h : c.idx = i) : (s.setCore c).core i = c := by
  subst h; exact State.core_setCore s c

theorem State.core_setCore_ne (s : State) (c : Core) (i : Nat) (h : i ≠ c.idx) : (s.setCore c).core i = s.core i := by
  unfold State.core State.setCore
  rw [find?_upsert_of_ne]
  · simpa using fun h' => h h'.symm
  · intro y hy; simp at hy ⊢; omega

@[simp] theorem State.core_idx (s : State) (i : Nat) : (s.core i).idx = i := by
  unfold State.core
  cases h : s.cores.find? fun x => x.idx == i with
  | none => rfl
  | some c => simpa using List.find?_some h

/-- A gang read back after it was replaced, where there is one of its number. -/
theorem State.gang?_setGang (s : State) (g y : Gang) (h : s.gang? g.uid = some y) : (s.setGang g).gang? g.uid = some g := by
  unfold State.gang? State.setGang
  exact find?_replaceFirst _ _ _ (by simp) (by unfold State.gang? at h; simp [h])

theorem State.gang?_setGang_ne (s : State) (g : Gang) (n : Nat) (h : n ≠ g.uid) : (s.setGang g).gang? n = s.gang? n := by
  unfold State.gang? State.setGang
  refine find?_replaceFirst_of_ne _ _ _ _ ?_ ?_
  · simpa using fun h' => h h'.symm
  · intro y hy; simp at hy ⊢; omega

@[simp] theorem State.gang?_setCore (s : State) (c : Core) (n : Nat) : (s.setCore c).gang? n = s.gang? n := rfl
@[simp] theorem State.core_setGang (s : State) (g : Gang) (i : Nat) : (s.setGang g).core i = s.core i := rfl

/-- A context read back after it was replaced, where one of its number is resident. -/
theorem State.ctx?_setCtx (s : State) (c y : Context) (h : s.ctx? c.id = some y) : (s.setCtx c).ctx? c.id = some c := by
  unfold State.ctx? State.setCtx
  exact find?_replaceFirst _ _ _ (by simp) (by unfold State.ctx? at h; simp [h])

/-- A job read back after it was replaced, where there is one of its number. -/
theorem State.job?_setJob (s : State) (j y : Job) (h : s.job? j.uid = some y) : (s.setJob j).job? j.uid = some j := by
  unfold State.job? State.setJob
  exact find?_replaceFirst _ _ _ (by simp) (by unfold State.job? at h; simp [h])

/-- A group or front read back after it was replaced, where there is one and the group keeps its index. -/
theorem State.group?_setGroup (s : State) (q : QId) (g x : Group) (h : s.group? q = some g)
    (hx : ∀ gang i, q = .group gang i → x.idx = i) : (s.setGroup q x).group? q = some x := by
  cases q with
  | group n i =>
    have hxi := hx n i rfl
    subst hxi
    simp only [State.group?] at h ⊢
    cases hg : s.gang? n with
    | none => simp [hg] at h
    | some y =>
      have hn : y.uid = n := by unfold State.gang? at hg; simpa using List.find?_some hg
      subst hn
      simp only [hg, Option.bind_some] at h
      simp only [State.setGroup, hg]
      rw [State.gang?_setGang s { y with groups := replaceFirst (fun z => z.idx == x.idx) x y.groups } y hg]
      simp only [Option.bind_some]
      exact find?_replaceFirst _ _ _ (by simp) (by simp [h])
  | front c =>
    simp only [State.group?] at h ⊢
    cases hf : (s.core c).front with
    | none => simp [hf] at h
    | some f =>
      simp only [State.setGroup, hf]
      rw [State.core_setCore_of _ _ c (by exact State.core_idx s c)]
      rfl

/-- A group in a state is the one that its number names. -/
theorem State.group?_idx (s : State) (n i : Nat) (g : Group) (h : s.group? (.group n i) = some g) : g.idx = i := by
  simp only [State.group?] at h
  cases hg : s.gang? n with
  | none => simp [hg] at h
  | some y => simp only [hg, Option.bind_some] at h; simpa using List.find?_some h

/-- No other group or front changes where one is replaced. -/
theorem State.group?_setGroup_ne (s : State) (q p : QId) (g x : Group) (h : s.group? q = some g)
    (hx : ∀ gang i, q = .group gang i → x.idx = i) (hp : p ≠ q) : (s.setGroup q x).group? p = s.group? p := by
  cases q with
  | group n i =>
    have hxi := hx n i rfl
    subst hxi
    simp only [State.setGroup]
    split
    · rename_i y hg
      have hn : y.uid = n := by unfold State.gang? at hg; simpa using List.find?_some hg
      subst hn
      cases p with
      | front c => simp [State.group?]
      | group n' i' =>
        by_cases hn' : n' = y.uid
        · subst hn'
          simp only [State.group?]
          rw [State.gang?_setGang s { y with groups := replaceFirst (fun z => z.idx == x.idx) x y.groups } y hg, hg]
          simp only [Option.bind_some]
          have hi : i' ≠ x.idx := fun h' => hp (by rw [h'])
          refine find?_replaceFirst_of_ne _ _ _ _ ?_ ?_
          · simpa using fun h' => hi h'.symm
          · intro z hz; simp at hz ⊢; omega
        · simp only [State.group?]
          rw [State.gang?_setGang_ne _ _ _ (by exact hn')]
    · rfl
  | front c =>
    simp only [State.setGroup]
    split
    · rename_i f hf
      cases p with
      | group n i => simp [State.group?]
      | front c' =>
        have hc : c' ≠ c := fun h' => hp (by rw [h'])
        simp only [State.group?]
        rw [State.core_setCore_ne _ _ _ (by simpa using hc)]
    · rfl

/-- A split read back after it was replaced, where there is one of its number. -/
theorem Group.split?_setSplit (g : Group) (k y : Split) (h : g.split? k.no = some y) : (g.setSplit k).split? k.no = some k := by
  unfold Group.split? Group.setSplit
  exact find?_replaceFirst _ _ _ (by simp) (by unfold Group.split? at h; simp [h])

theorem Group.split?_setSplit_ne (g : Group) (k : Split) (n : Nat) (h : n ≠ k.no) : (g.setSplit k).split? n = g.split? n := by
  unfold Group.split? Group.setSplit
  refine find?_replaceFirst_of_ne _ _ _ _ ?_ ?_
  · simpa using fun h' => h h'.symm
  · intro y hy; simp at hy ⊢; omega

/-! ## The parts of a group that an update of its split leaves -/

@[simp] theorem Group.setSplit_isFront (g : Group) (k : Split) : (g.setSplit k).isFront = g.isFront := rfl
@[simp] theorem Group.setSplit_ctx (g : Group) (k : Split) : (g.setSplit k).ctx = g.ctx := rfl
@[simp] theorem Group.setSplit_job (g : Group) (k : Split) : (g.setSplit k).job = g.job := rfl
@[simp] theorem Group.setSplit_gang (g : Group) (k : Split) : (g.setSplit k).gang = g.gang := rfl
@[simp] theorem Group.setSplit_worker (g : Group) (k : Split) : (g.setSplit k).worker = g.worker := rfl
@[simp] theorem Group.setSplit_idx (g : Group) (k : Split) : (g.setSplit k).idx = g.idx := rfl
@[simp] theorem Group.setSplit_lcore (g : Group) (k : Split) : (g.setSplit k).lcore = g.lcore := rfl
@[simp] theorem Group.setSplit_host (g : Group) (k : Split) : (g.setSplit k).host = g.host := rfl
@[simp] theorem Group.setSplit_sched (g : Group) (k : Split) : (g.setSplit k).sched = g.sched := rfl
@[simp] theorem Group.setSplit_slot0 (g : Group) (k : Split) : (g.setSplit k).slot0 = g.slot0 := rfl
@[simp] theorem Group.setSplit_span (g : Group) (k : Split) : (g.setSplit k).span = g.span := rfl
@[simp] theorem Group.setSplit_allot (g : Group) (k : Split) : (g.setSplit k).allot = g.allot := rfl
@[simp] theorem Group.setSplit_acct (g : Group) (k : Split) : (g.setSplit k).acct = g.acct := rfl
@[simp] theorem Group.setSplit_spBase (g : Group) (k : Split) : (g.setSplit k).spBase = g.spBase := rfl
@[simp] theorem Group.setSplit_spSize (g : Group) (k : Split) : (g.setSplit k).spSize = g.spSize := rfl
@[simp] theorem Group.setSplit_laneBase (g : Group) (k : Split) : (g.setSplit k).laneBase = g.laneBase := rfl
@[simp] theorem Group.setSplit_args (g : Group) (k : Split) : (g.setSplit k).args = g.args := rfl
@[simp] theorem Group.setSplit_globals (g : Group) (k : Split) : (g.setSplit k).globals = g.globals := rfl
@[simp] theorem Group.setSplit_ring (g : Group) (k : Split) : (g.setSplit k).ring = g.ring := rfl
@[simp] theorem Group.setSplit_x (g : Group) (k : Split) : (g.setSplit k).x = g.x := rfl
@[simp] theorem Group.setSplit_loads (g : Group) (k : Split) : (g.setSplit k).loads = g.loads := rfl
@[simp] theorem Group.setSplit_stores (g : Group) (k : Split) : (g.setSplit k).stores = g.stores := rfl
@[simp] theorem Group.setSplit_copies (g : Group) (k : Split) : (g.setSplit k).copies = g.copies := rfl
@[simp] theorem Group.setSplit_tiles (g : Group) (k : Split) : (g.setSplit k).tiles = g.tiles := rfl
@[simp] theorem Group.setSplit_acc (g : Group) (k : Split) : (g.setSplit k).acc = g.acc := rfl
@[simp] theorem Group.setSplit_tbase (g : Group) (k : Split) : (g.setSplit k).tbase = g.tbase := rfl
@[simp] theorem Group.setSplit_fpmode (g : Group) (k : Split) : (g.setSplit k).fpmode = g.fpmode := rfl
@[simp] theorem Group.setSplit_fpflags (g : Group) (k : Split) : (g.setSplit k).fpflags = g.fpflags := rfl
@[simp] theorem Group.setSplit_stack (g : Group) (k : Split) : (g.setSplit k).stack = g.stack := rfl
@[simp] theorem Group.setSplit_spilled (g : Group) (k : Split) : (g.setSplit k).spilled = g.spilled := rfl
@[simp] theorem Group.setSplit_out (g : Group) (k : Split) : (g.setSplit k).out = g.out := rfl
@[simp] theorem Group.setSplit_queue (g : Group) (k : Split) : (g.setSplit k).queue = g.queue := rfl
@[simp] theorem Group.setSplit_nextPos (g : Group) (k : Split) : (g.setSplit k).nextPos = g.nextPos := rfl
@[simp] theorem Group.setSplit_fence (g : Group) (k : Split) : (g.setSplit k).fence = g.fence := rfl
@[simp] theorem Group.setSplit_ops (g : Group) (k : Split) : (g.setSplit k).ops = g.ops := rfl
@[simp] theorem Group.setSplit_nextOp (g : Group) (k : Split) : (g.setSplit k).nextOp = g.nextOp := rfl
@[simp] theorem Group.setSplit_queries (g : Group) (k : Split) : (g.setSplit k).queries = g.queries := rfl
@[simp] theorem Group.setSplit_arrived (g : Group) (k : Split) : (g.setSplit k).arrived = g.arrived := rfl
@[simp] theorem Group.setSplit_lastRun (g : Group) (k : Split) : (g.setSplit k).lastRun = g.lastRun := rfl
@[simp] theorem Group.setSplit_retired (g : Group) (k : Split) : (g.setSplit k).retired = g.retired := rfl

/-! ## Registers written: what else of an instruction in progress stands -/

@[simp] theorem Issue.sput_s (m : Issue) (n : Nat) (w : Word) : (m.sput n w).s = m.s := by
  unfold Issue.sput; split <;> rfl
@[simp] theorem Issue.sput_ag (m : Issue) (n : Nat) (w : Word) : (m.sput n w).ag = m.ag := by
  unfold Issue.sput; split <;> rfl
@[simp] theorem Issue.sput_h (m : Issue) (n : Nat) (w : Word) : (m.sput n w).h = m.h := by
  unfold Issue.sput; split <;> rfl
@[simp] theorem Issue.sput_mf (m : Issue) (n : Nat) (w : Word) : (m.sput n w).mf = m.mf := by
  unfold Issue.sput; split <;> rfl
@[simp] theorem Issue.vput_s (m : Issue) (n : Nat) (ls : List Nat) (f : Nat → Word) : (m.vput n ls f).s = m.s := rfl
@[simp] theorem Issue.vput_ag (m : Issue) (n : Nat) (ls : List Nat) (f : Nat → Word) : (m.vput n ls f).ag = m.ag := rfl
@[simp] theorem Issue.vput_h (m : Issue) (n : Nat) (ls : List Nat) (f : Nat → Word) : (m.vput n ls f).h = m.h := rfl
@[simp] theorem Issue.vput_mf (m : Issue) (n : Nat) (ls : List Nat) (f : Nat → Word) : (m.vput n ls f).mf = m.mf := rfl
@[simp] theorem Issue.sput2_s (m : Issue) (n : Nat) (v : DWord) : (m.sput2 n v).s = m.s := by
  simp [Issue.sput2]
@[simp] theorem Issue.sput2_ag (m : Issue) (n : Nat) (v : DWord) : (m.sput2 n v).ag = m.ag := by
  simp [Issue.sput2]
@[simp] theorem Issue.sput2_h (m : Issue) (n : Nat) (v : DWord) : (m.sput2 n v).h = m.h := by
  simp [Issue.sput2]
@[simp] theorem Issue.sput2_mf (m : Issue) (n : Nat) (v : DWord) : (m.sput2 n v).mf = m.mf := by
  simp [Issue.sput2]
@[simp] theorem Issue.sputT_s (m : Issue) (t : Ty) (n : Nat) (v : DWord) : (m.sputT t n v).s = m.s := by
  unfold Issue.sputT; split <;> simp
@[simp] theorem Issue.sputT_ag (m : Issue) (t : Ty) (n : Nat) (v : DWord) : (m.sputT t n v).ag = m.ag := by
  unfold Issue.sputT; split <;> simp
@[simp] theorem Issue.sputT_h (m : Issue) (t : Ty) (n : Nat) (v : DWord) : (m.sputT t n v).h = m.h := by
  unfold Issue.sputT; split <;> simp
@[simp] theorem Issue.sputT_mf (m : Issue) (t : Ty) (n : Nat) (v : DWord) : (m.sputT t n v).mf = m.mf := by
  unfold Issue.sputT; split <;> simp
@[simp] theorem Issue.vputT_s (m : Issue) (t : Ty) (n : Nat) (ls : List Nat) (f : Nat → DWord) : (m.vputT t n ls f).s = m.s := by
  unfold Issue.vputT; split <;> simp
@[simp] theorem Issue.vputT_ag (m : Issue) (t : Ty) (n : Nat) (ls : List Nat) (f : Nat → DWord) : (m.vputT t n ls f).ag = m.ag := by
  unfold Issue.vputT; split <;> simp
@[simp] theorem Issue.vputT_h (m : Issue) (t : Ty) (n : Nat) (ls : List Nat) (f : Nat → DWord) : (m.vputT t n ls f).h = m.h := by
  unfold Issue.vputT; split <;> simp
@[simp] theorem Issue.vputT_mf (m : Issue) (t : Ty) (n : Nat) (ls : List Nat) (f : Nat → DWord) : (m.vputT t n ls f).mf = m.mf := by
  unfold Issue.vputT; split <;> simp

/-- What a trace hides is read back (R59). -/
theorem openTrace_sealTrace (l past : List DWord) : openTrace past (sealTrace past l) = l := by
  induction l generalizing past with
  | nil => rfl
  | cons x r ih => simp [sealTrace, openTrace, BitVec.xor_assoc, ih]

/-- What follows the numbers of a trace does not change how they are read. -/
theorem openTrace_append (l rest past : List DWord) : (openTrace past (l ++ rest)).take l.length = openTrace past l := by
  induction l generalizing past with
  | nil => rfl
  | cons y r ih => simp [openTrace, ih]

end Sys2Proof.Machine
end

