-- ==== Sys2Proof/Laws/Issue.lean ====
section
/-!
SUPPORT. One law for each shared operation of an instruction in progress: what `issue` can answer, whose group and split an
instruction works on, and what committing it, going on in sequence, stalling and blocking leave; when a trap is settled.
-/
namespace Sys2Proof.Machine

open Sys2Proof

/-! ## issue -/

/-- Everything that issuing can answer: no agent issues; or the cause of a failed check; or a stall; or the instruction's own
effect. -/
theorem issue_cases (i : Instr) (h : Hd) (s : State) (body : Issue → State) :
    (s.issuer h = none ∧ issue i h s body = .fault .noIssuer) ∨
    ∃ m, s.issuer h = some m ∧
      ((∃ c, m.verdict i = .trap c ∧ issue i h s body = .next (m.raise c 0 0)) ∨
        (m.verdict i = .stall ∧ issue i h s body = .next m.stall) ∨
        (Issues i h s m ∧ issue i h s body = .next (body (m.of i)))) := by
  unfold issue Issues
  cases hm : s.issuer h with
  | none => exact .inl ⟨rfl, rfl⟩
  | some m =>
    refine .inr ⟨m, rfl, ?_⟩
    cases hv : m.verdict i with
    | trap c => exact .inl ⟨c, rfl, by simp [hv]⟩
    | stall => exact .inr (.inl ⟨rfl, by simp [hv]⟩)
    | go => exact .inr (.inr ⟨⟨rfl, rfl⟩, by simp [hv, Issue.of]⟩)

/-- Past the checks an instruction answers its own effect. -/
theorem issue_go {i : Instr} {h : Hd} {s : State} {m : Issue} (hi : Issues i h s m) (body : Issue → State) :
    issue i h s body = .next (body (m.of i)) := by
  simp [issue, hi.1, hi.2, Issue.of]

@[simp] theorem Issue.of_s (m : Issue) (i : Instr) : (m.of i).s = m.s := rfl
@[simp] theorem Issue.of_g (m : Issue) (i : Instr) : (m.of i).g = m.g := rfl
@[simp] theorem Issue.of_k (m : Issue) (i : Instr) : (m.of i).k = m.k := rfl
@[simp] theorem Issue.of_h (m : Issue) (i : Instr) : (m.of i).h = m.h := rfl
@[simp] theorem Issue.of_ag (m : Issue) (i : Instr) : (m.of i).ag = m.ag := rfl
@[simp] theorem Issue.of_reg (m : Issue) (i : Instr) (o : Opnd) : (m.of i).reg o = m.reg o := rfl
@[simp] theorem Issue.of_sget (m : Issue) (i : Instr) (n : Nat) : (m.of i).sget n = m.sget n := rfl
@[simp] theorem Issue.of_sget2 (m : Issue) (i : Instr) (n : Nat) : (m.of i).sget2 n = m.sget2 n := rfl
@[simp] theorem Issue.of_vget (m : Issue) (i : Instr) (n : Nat) : (m.of i).vget n = m.vget n := rfl
@[simp] theorem Issue.of_sval (m : Issue) (i : Instr) (t : Ty) (n : Nat) : (m.of i).sval t n = m.sval t n := rfl
@[simp] theorem Issue.of_vval (m : Issue) (i : Instr) (t : Ty) (n l : Nat) : (m.of i).vval t n l = m.vval t n l := rfl
@[simp] theorem Issue.of_active (m : Issue) (i : Instr) : (m.of i).active = m.active := rfl
@[simp] theorem Issue.of_after (m : Issue) (i : Instr) : (m.of i).after = m.after := rfl
@[simp] theorem Issue.of_ctx (m : Issue) (i : Instr) : (m.of i).ctx = m.ctx := rfl
@[simp] theorem Issue.of_srcS (m : Issue) (i : Instr) (t : Ty) (b : SrcB) : (m.of i).srcS t b = m.srcS t b := by cases b <;> rfl
@[simp] theorem Issue.of_srcS1 (m : Issue) (i : Instr) (t : Ty) (b : SrcB) : (m.of i).srcS1 t b = m.srcS1 t b := by cases b <;> rfl
@[simp] theorem Issue.of_srcV (m : Issue) (i : Instr) (t : Ty) (b : SrcB) (l : Nat) : (m.of i).srcV t b l = m.srcV t b l := by
  cases b <;> rfl
@[simp] theorem Issue.of_srcV1 (m : Issue) (i : Instr) (t : Ty) (b : SrcB) (l : Nat) : (m.of i).srcV1 t b l = m.srcV1 t b l := by
  cases b <;> rfl

/-- What an instruction in progress works on: the state, the group and the split of the head run's agent. -/
theorem issueOf_spec {s : State} {ag : Agent} {h : Hd} {m : Issue} (hm : s.issueOf ag h = some m) :
    m.s = s ∧ m.ag = ag ∧ m.h = h ∧ m.mf = false ∧ s.group? (qidOf ag) = some m.g ∧ m.g.split? (splitNoOf ag) = some m.k := by
  unfold State.issueOf at hm
  cases hg : s.group? (qidOf ag) with
  | none => simp [hg] at hm
  | some g =>
    simp only [hg, Option.map_eq_some_iff] at hm
    obtain ⟨k, hk, rfl⟩ := hm
    exact ⟨rfl, rfl, rfl, rfl, rfl, hk⟩

theorem issuer_spec {s : State} {h : Hd} {m : Issue} (hm : s.issuer h = some m) :
    m.s = s ∧ m.h = h ∧ m.mf = false ∧ s.group? (qidOf m.ag) = some m.g ∧ m.g.split? (splitNoOf m.ag) = some m.k := by
  unfold State.issuer at hm
  cases hr : s.runs with
  | nil => simp [hr] at hm
  | cons r t =>
    simp only [hr] at hm
    obtain ⟨h1, h2, h3, h4, h5, h6⟩ := issueOf_spec hm
    rw [h2]
    exact ⟨h1, h3, h4, h5, h6⟩

/-- The split of an instruction in progress has the number that its agent names. -/
theorem split?_no {g : Group} {n : Nat} {k : Split} (h : g.split? n = some k) : k.no = n := by
  unfold Group.split? at h; simpa using List.find?_some h

/-! ## Writing back -/

/-- After a commit the agent's group is the working copy with the split in its place. -/
theorem commit_group? (m : Issue) (g : Group) (hg : m.s.group? (qidOf m.ag) = some g)
    (hx : ∀ gang i, qidOf m.ag = .group gang i → m.g.idx = i) :
    m.commit.group? (qidOf m.ag) = some (m.g.setSplit m.k) :=
  State.group?_setGroup _ _ g _ hg (by simpa using hx)

/-- After a commit every other group and front is as before. -/
theorem commit_others (m : Issue) (g : Group) (hg : m.s.group? (qidOf m.ag) = some g)
    (hx : ∀ gang i, qidOf m.ag = .group gang i → m.g.idx = i) : OthersSame (qidOf m.ag) m.s m.commit :=
  fun p hp => State.group?_setGroup_ne _ _ p g _ hg (by simpa using hx) hp

/-- A commit leaves everything but the groups and the fronts. -/
theorem commit_eq (m : Issue) : m.commit = { m.s with gangs := m.commit.gangs, cores := m.commit.cores } :=
  State.setGroup_eq ..

/-- A front's core keeps everything but its front where a group or front is replaced. -/
theorem core_setGroup (s : State) (q : QId) (x : Group) (i : Nat) :
    (s.setGroup q x).core i = { s.core i with front := ((s.setGroup q x).core i).front } := by
  cases q with
  | group n j => simp only [State.setGroup]; split <;> rfl
  | front c =>
    simp only [State.setGroup]
    split
    · by_cases hi : i = c
      · subst hi; rw [State.core_setCore_of _ _ i (by exact State.core_idx s i)]
      · rw [State.core_setCore_ne _ _ _ (by simpa using hi)]
    · rfl

theorem dropRun_eq (s : State) : s.dropRun = { s with runs := s.dropRun.runs } := rfl
theorem countRun_eq (s : State) : s.countRun = { s with runs := s.countRun.runs } := by unfold State.countRun; split <;> rfl

/-- Completing leaves everything but the groups, the fronts and the runs. -/
theorem finish_eq (m : Issue) (ends : Bool) :
    m.finish ends = { m.s with gangs := (m.finish ends).gangs, cores := (m.finish ends).cores, runs := (m.finish ends).runs } := by
  unfold Issue.finish
  split
  · rw [dropRun_eq, commit_eq]
  · rw [countRun_eq, commit_eq]

theorem done_eq (m : Issue) :
    m.done = { m.s with gangs := m.done.gangs, cores := m.done.cores, runs := m.done.runs } := finish_eq _ _

/-- No byte of memory changes where an instruction goes on in sequence, at its home or held. -/
@[simp] theorem done_mem (m : Issue) : m.done.mem = m.s.mem := by rw [done_eq]
@[simp] theorem done_poisoned (m : Issue) : m.done.poisoned = m.s.poisoned := by rw [done_eq]
@[simp] theorem done_tags (m : Issue) : m.done.tags = m.s.tags := by rw [done_eq]
@[simp] theorem done_homes (m : Issue) : m.done.homes = m.s.homes := by rw [done_eq]
@[simp] theorem done_memInit (m : Issue) : m.done.memInit = m.s.memInit := by rw [done_eq]

@[simp] theorem dropRun_core (s : State) (i : Nat) : s.dropRun.core i = s.core i := rfl
@[simp] theorem countRun_core (s : State) (i : Nat) : s.countRun.core i = s.core i := by unfold State.countRun; split <;> rfl

/-- Of a core only the front changes where an instruction goes on in sequence: its view stands. -/
theorem done_core (m : Issue) (i : Nat) : m.done.core i = { m.s.core i with front := (m.done.core i).front } := by
  unfold Issue.done Issue.finish
  dsimp only
  split <;> simp only [dropRun_core, countRun_core, Issue.commit] <;> rw [core_setGroup]

/-- A state that has the same bytes, poison, tags, homes and views has the same memory. -/
theorem sameMemory_of {s t : State} (h1 : t.mem = s.mem) (h2 : t.poisoned = s.poisoned) (h6 : t.tags = s.tags)
    (h3 : t.homes = s.homes) (h4 : t.memInit = s.memInit) (h5 : ∀ i, (t.core i).view = (s.core i).view) : SameMemory s t := by
  refine ⟨fun a => by rw [h1], fun key n => ?_, fun core key n => ?_⟩
  · simp [State.readHome, State.poisonAt, State.tagOf, h1, h2, h6]
  · simp [State.readView, State.poisonAt, State.tagOf, State.viewByte, h1, h2, h3, h4, h5, h6]

/-- Going on in sequence leaves memory as the instruction's state had it. -/
theorem done_sameMemory (m : Issue) : SameMemory m.s m.done :=
  sameMemory_of (by simp) (by simp) (by simp) (by simp) (by simp) fun i => by rw [done_core]

/-! ## Registers -/

/-- A result of a scalar type is what its low bits say. -/
theorem sputT_congr (m : Issue) (t : Ty) (n : Nat) (x y : DWord) (h : tyRegs t = 2 ∨ x.setWidth 32 = y.setWidth 32)
    (h2 : tyRegs t = 2 → x = y) : m.sputT t n x = m.sputT t n y := by
  unfold Issue.sputT
  split
  · rename_i ht; rw [h2 ht]
  · rename_i ht; rw [h.resolve_left ht]

/-- A trap is settled behind empty queues, and a handler is entered with all four counters at zero (R210). -/
theorem Group.entryDue_iff (g : Group) (k : Split) :
    g.entryDue k = true ↔ g.drained = true ∧ (g.forwards k = true ∨ (g.copies = 0 ∧ g.tiles = 0)) := by
  simp [Group.entryDue]

end Sys2Proof.Machine
end

