-- ==== Sys2Proof/Laws/PerInstr.lean ====
section
/-!
SUPPORT. The encoding of each instruction: the fields in which a well-formed instruction is laid out give it back, and hold
nothing that its words do not have. One lemma per constructor of Instr.
-/
set_option linter.unusedSimpArgs false
set_option Elab.async false

namespace Sys2Proof.Laws.Encoding

open Sys2Proof Sys2Proof.Machine

/-- Fields that the words of their length hold: those of words 1 and 2 are zero where there are none, the literal is zero
where there is none, and word 2 has one layout. -/
def Tidy (f : Fields) : Prop :=
  (hasW1 f.len = false → f.sc = false ∧ f.bimm = false ∧ f.opf = 0 ∧ f.space = 0 ∧ f.order = 0 ∧ f.scope = 0 ∧ f.ty = 0 ∧ f.ixs = 0 ∧
    f.indD = false ∧ f.indA = false ∧ f.indB = false ∧ f.indC = false ∧ f.c = 0 ∧ f.imm32 = 0 ∧ f.rsvd = 0 ∧ f.mode = 0 ∧ f.accf = 0 ∧
    f.ps = 0 ∧ f.tid = 0) ∧ (hasLit f.len = false → f.lit = 0) ∧
  (if isE f.op then f.imm32 = 0 else f.rsvd = 0 ∧ f.mode = 0 ∧ f.accf = 0 ∧ f.ps = 0 ∧ f.tid = 0)

/-- A well-formed instruction is laid out in tidy fields, and what is built from those is the instruction. -/
def Statement (i : Instr) : Prop := i.wf = true → ∀ f, toFields i = some f → build f = some i ∧ Tidy f

/-! ## Codes -/

@[simp] theorem tyOf_tyCode (t : Ty) : tyOf (tyCode t) = some t := by cases t <;> rfl
theorem mTy_tyM (t : Ty) (h : (Machine.tyM t).isSome = true) : mTy ((Machine.tyM t).getD 0#3) = t := by
  cases t <;> first | rfl | cases h
@[simp] theorem orderOf_code (o : Order) : orderOf (orderCode o) (orderSc o) = some o := by cases o <;> rfl
@[simp] theorem scopeOf_code (s : Scope) : scopeOf (scopeCode s) = some s := by cases s <;> rfl
@[simp] theorem spaceOf_code (s : Space) : spaceOf (spaceCode s) = some s := by cases s <;> rfl
@[simp] theorem cmpOf_code (c : CmpOp) : cmpOf (cmpCode c) = c := by cases c <;> rfl
@[simp] theorem aopOf_code (o : AtomOp) : aopOf (aopCode o) = o := by cases o <;> rfl
@[simp] theorem redOf_code (o : RedOp) : redOf (redCode o) = some o := by cases o <;> rfl
@[simp] theorem cmodeOf_code (c : CopyMode) : cmodeOf (cmodeCode c) = some c := by cases c <;> rfl
@[simp] theorem qmodeOf_code (q : QMode) : qmodeOf (qmodeCode q) = some q := by cases q <;> rfl
@[simp] theorem flOf_code (m : FlushMode) : flOf (flCode m) = some m := by cases m <;> rfl
@[simp] theorem clsOf_code (c : WaitClass) : clsOf (clsCode c) = some c := by cases c <;> rfl
theorem rnd_code (r : Rnd) : rndOf (((rndCode r).setWidth 4).extractLsb' 0 3) = some r := by cases r <;> rfl
theorem rnd_opf (r : Rnd) (sat : Bool) :
    rndOf (((rndCode r).setWidth 4 ||| (if sat then BitVec.twoPow 4 3 else 0#4)).extractLsb' 0 3) = some r ∧
    ((rndCode r).setWidth 4 ||| (if sat then BitVec.twoPow 4 3 else 0#4)).getLsbD 3 = sat := by cases r <;> cases sat <;> decide

@[simp] theorem rnd_ne : (rndCode .ne).setWidth 4 = 0#4 := rfl
@[simp] theorem rndOf_zero : rndOf 0#3 = some .ne := rfl
@[simp] theorem orderOf_zero : orderOf 0#2 false = some .rlx := rfl
@[simp] theorem scopeOf_zero : scopeOf 0#3 = some .dev := rfl
@[simp] theorem spaceOf_zero : spaceOf 0#3 = some .gv := rfl
@[simp] theorem order_rlx : orderCode .rlx = 0#2 := rfl
@[simp] theorem sc_rlx : orderSc .rlx = false := rfl
@[simp] theorem scope_dev : scopeCode .dev = 0#3 := rfl
@[simp] theorem space_gv : spaceCode .gv = 0#3 := rfl
@[simp] theorem opf_bit (x y : Bool) :
    ((if x then BitVec.twoPow 4 0 else 0#4) ||| (if y then BitVec.twoPow 4 1 else 0#4)).getLsbD 0 = x ∧
    ((if x then BitVec.twoPow 4 0 else 0#4) ||| (if y then BitVec.twoPow 4 1 else 0#4)).getLsbD 1 = y ∧
    (if x then BitVec.twoPow 4 0 else 0#4).getLsbD 0 = x := by cases x <;> cases y <;> decide
@[simp] theorem bitM_eq (x : Bool) : (bitM x == 1#3) = x := by cases x <;> rfl

theorem append9 (v : BitVec 9) : (v.extractLsb' 6 3 ++ v.extractLsb' 0 6 : BitVec 9) = v :=
  (BitVec.extractLsb'_append_extractLsb'_eq_extractLsb' (by omega)).trans (by simp)
theorem append21 (v : BitVec 21) :
    (v.extractLsb' 18 3 ++ v.extractLsb' 12 6 ++ v.extractLsb' 6 6 ++ v.extractLsb' 0 6 : BitVec 21) = v := by
  rw [BitVec.extractLsb'_append_extractLsb'_eq_extractLsb' (by omega), BitVec.extractLsb'_append_extractLsb'_eq_extractLsb' (by omega),
    BitVec.extractLsb'_append_extractLsb'_eq_extractLsb' (by omega)]
  simp
theorem append15 (v : BitVec 15) : (v.extractLsb' 12 3 ++ v.extractLsb' 6 6 ++ v.extractLsb' 0 6 : BitVec 15) = v := by
  rw [BitVec.extractLsb'_append_extractLsb'_eq_extractLsb' (by omega), BitVec.extractLsb'_append_extractLsb'_eq_extractLsb' (by omega)]
  simp
theorem byte9 (v : Byte) : (((0#1 ++ v : BitVec 9).extractLsb' 6 3 ++ (0#1 ++ v : BitVec 9).extractLsb' 0 6 : BitVec 9).extractLsb' 0 8) = v := by
  
  rw [append9]; apply BitVec.eq_of_getLsbD_eq; intro i hi
  rw [BitVec.getLsbD_extractLsb']; simp only [hi, decide_true, Bool.true_and, Nat.zero_add, BitVec.getLsbD_append, if_true]

/-! ## What each operation on fields is -/

@[simp] theorem setM_eq (f : Fields) (x : BitVec 3) : f.setM x = { f with m := x } := rfl
@[simp] theorem setD_eq (f : Fields) (x : RegNo) : f.setD x = { f with d := x } := rfl
@[simp] theorem setA_eq (f : Fields) (x : RegNo) : f.setA x = { f with a := x } := rfl
@[simp] theorem setB_eq (f : Fields) (x : RegNo) : f.setB x = { f with b := x } := rfl
@[simp] theorem setC_eq (f : Fields) (x : RegNo) : f.setC x = { f with c := x } := rfl
@[simp] theorem putD_eq (f : Fields) (o : Opnd) : f.putD o = { f with d := o.n, indD := o.ind } := rfl
@[simp] theorem putA_eq (f : Fields) (o : Opnd) : f.putA o = { f with a := o.n, indA := o.ind } := rfl
@[simp] theorem putB_eq (f : Fields) (o : Opnd) : f.putB o = { f with b := o.n, indB := o.ind } := rfl
@[simp] theorem putC_eq (f : Fields) (o : Opnd) : f.putC o = { f with c := o.n, indC := o.ind } := rfl
@[simp] theorem setImm9_eq (f : Fields) (x : BitVec 9) : f.setImm9 x = { f with m := x.extractLsb' 6 3, b := x.extractLsb' 0 6 } := rfl
@[simp] theorem setOff21_eq (f : Fields) (x : BitVec 21) : f.setOff21 x = { f with m := x.extractLsb' 18 3, b := x.extractLsb' 12 6, a := x.extractLsb' 6 6, d := x.extractLsb' 0 6 } := rfl
@[simp] theorem putOpf_eq (f : Fields) (i : Nat) (x : Bool) : f.putOpf i x = { f with opf := f.opf ||| (if x then BitVec.twoPow 4 i else 0) } := rfl
@[simp] theorem putRnd_eq (f : Fields) (r : Rnd) : f.putRnd r = { f with opf := (rndCode r).setWidth 4 } := rfl
@[simp] theorem putOrder_eq (f : Fields) (o : Order) : f.putOrder o = { f with order := orderCode o, sc := orderSc o } := rfl
@[simp] theorem putScope_eq (f : Fields) (s : Scope) : f.putScope s = { f with scope := scopeCode s } := rfl
@[simp] theorem putSpace_eq (f : Fields) (s : Space) : f.putSpace s = { f with space := spaceCode s } := rfl
@[simp] theorem putTid_eq (f : Fields) (t : Tid) : f.putTid t = { f with tid := t } := rfl
@[simp] theorem putAcc_eq (f : Fields) (a : AccNo) : f.putAcc a = { f with accf := a } := rfl
@[simp] theorem putPs_eq (f : Fields) (p : PSlotNo) : f.putPs p = { f with ps := p } := rfl
@[simp] theorem putMode0_eq (f : Fields) (x : Bool) : f.putMode0 x = { f with mode := if x then 1 else 0 } := rfl
@[simp] theorem putMem_eq (f : Fields) (m : MemAttr) : f.putMem m =
    (((f.putOpf 0 m.poll).putOrder m.order).putScope m.scope).putSpace m.space := rfl
@[simp] theorem putTyM_eq (f : Fields) (t : Ty) :
    f.putTyM t = if hasW1 f.len then { f with ty := tyCode t } else { f with m := (Machine.tyM t).getD 0 } := rfl
@[simp] theorem putTy_eq (f : Fields) (t : Ty) : f.putTy t = if hasW1 f.len then { f with ty := tyCode t } else f := rfl
@[simp] theorem putImm_i9 (f : Fields) (v : BitVec 9) : f.putImm (.i9 v) = f.setImm9 v := rfl
@[simp] theorem putImm_i32 (f : Fields) (v : Word) : f.putImm (.i32 v) = { f with imm32 := v } := rfl
@[simp] theorem putImm_lit (f : Fields) (v : DWord) : f.putImm (.lit v) = { f with lit := v } := rfl
@[simp] theorem putSrc_reg (f : Fields) (o : Opnd) : f.putSrc (.reg o) = f.putB o := rfl
@[simp] theorem putSrc_imm (f : Fields) (v : Word) : f.putSrc (.imm v) = { f with imm32 := v, bimm := true } := rfl
@[simp] theorem putSrc_lit (f : Fields) (v : DWord) : f.putSrc (.lit v) = { f with lit := v, bimm := hasW1 f.len } := rfl
@[simp] theorem putCall_o15 (f : Fields) (v : BitVec 15) :
    f.putCall (.o15 v) = { f with m := v.extractLsb' 12 3, b := v.extractLsb' 6 6, a := v.extractLsb' 0 6 } := rfl
@[simp] theorem putCall_o32 (f : Fields) (v : BitVec 32) : f.putCall (.o32 v) = { f with imm32 := v } := rfl
@[simp] theorem hasW1_l0 : hasW1 .l0 = false := rfl
@[simp] theorem hasW1_l1 : hasW1 .l1 = true := rfl
@[simp] theorem hasW1_l2 : hasW1 .l2 = false := rfl
@[simp] theorem hasW1_l3 : hasW1 .l3 = true := rfl
@[simp] theorem hasLit_l0 : hasLit .l0 = false := rfl
@[simp] theorem hasLit_l1 : hasLit .l1 = false := rfl
@[simp] theorem hasLit_l2 : hasLit .l2 = true := rfl
@[simp] theorem hasLit_l3 : hasLit .l3 = true := rfl

/-! ## The shapes that several opcodes share -/

/-- Operand B stands in words that the length has. -/
def SrcFits (l : Len) : SrcB → Bool
  | .reg _ => !hasLit l
  | .imm _ => l == .l1
  | .lit _ => l == .l2

theorem srcFits_of_src {h : Hd} {t : Ty} {b : SrcB} (w : srcOk h t b = true) : SrcFits h.len b = true := by
  obtain ⟨x, l, y⟩ := h
  cases b <;> cases l <;> simp_all [srcOk, SrcFits, hasLit]

theorem srcFits_of_reg {h : Hd} {ls : List Len} {is : List Bool} {b : SrcB} (w : hdOk h ls is = true) (wb : srcRegOk b = true)
    (wl : ∀ l ∈ ls, hasLit l = false := by decide) : SrcFits h.len b = true := by
  simp only [hdOk, Bool.and_eq_true, decide_eq_true_eq] at w
  cases b <;> simp_all [srcRegOk, SrcFits]

theorem srcFits_of_off {h : Hd} {ls : List Len} {is : List Bool} {b : SrcB} (w : hdOk h ls is = true) (wb : offOk h b = true)
    (wl : ∀ l ∈ ls, hasLit l = false := by decide) : SrcFits h.len b = true := by
  simp only [hdOk, Bool.and_eq_true, decide_eq_true_eq] at w
  cases b <;> simp_all [offOk, SrcFits]

variable {h : Hd} {ls : List Len} {op : BitVec 8} {ty dflt : Ty} {ts : List Ty} {d a c : Opnd} {b : SrcB} {i : Imm} {r : Rnd}
  {m : MemAttr} {p : Bool} {os : List Order} {ss : List Space}

theorem shapeTDAB (op : BitVec 8) (hE : isE op = false) (w0 : hdOk h ls [d.ind, a.ind, b.ind] = true) (w1 : tyMOk h ty ts = true) (w2 : SrcFits h.len b = true) :
    let f := ((((fields h op).putTyM ty).putD d).putA a).putSrc b
    f.op = op ∧ f.hd = h ∧ f.tyM = some ty ∧ f.opD = d ∧ f.opA = a ∧ f.src = b ∧ Tidy f := by
  obtain ⟨bnd, len, ixs⟩ := h
  obtain ⟨dn, di⟩ := d
  obtain ⟨an, ai⟩ := a
  rcases b with ⟨bn, bi⟩ | v | v <;> cases len <;> simp [hdOk, tyMOk, tyDOk, immOk, SrcFits, hasLit, hasW1, SrcB.ind, rndOk, memOk] at w0 w1 w2 <;>
    simp [fields, Fields.hd, Fields.tyM, Fields.tyD, Fields.opD, Fields.opA, Fields.opB, Fields.opC, Fields.src, Fields.imm, Fields.imm9,
      Fields.rnd, Fields.mem, Fields.opfBit,
      Tidy, hE, mTy_tyM, opf_bit, append9, rnd_code, w0, w1, w2] <;> (try grind)

theorem shapeYDAI (op : BitVec 8) (hE : isE op = false) (w0 : hdOk h ls [d.ind, a.ind] = true) (w1 : tyDOk h ty dflt ts = true) (w2 : immOk h ty i = true) :
    let f := ((((fields h op).putTy ty).putD d).putA a).putImm i
    f.op = op ∧ f.hd = h ∧ f.tyD dflt = some ty ∧ f.opD = d ∧ f.opA = a ∧ f.imm = i ∧ Tidy f := by
  obtain ⟨bnd, len, ixs⟩ := h
  obtain ⟨dn, di⟩ := d
  obtain ⟨an, ai⟩ := a
  rcases i with v | v | v <;> cases len <;> simp [hdOk, tyMOk, tyDOk, immOk, SrcFits, hasLit, hasW1, SrcB.ind, rndOk, memOk] at w0 w1 w2 <;>
    simp [fields, Fields.hd, Fields.tyM, Fields.tyD, Fields.opD, Fields.opA, Fields.opB, Fields.opC, Fields.src, Fields.imm, Fields.imm9,
      Fields.rnd, Fields.mem, Fields.opfBit,
      Tidy, hE, mTy_tyM, opf_bit, append9, rnd_code, w0, w1, w2] <;> (try grind)

theorem shapeTDA (op : BitVec 8) (hE : isE op = false) (w0 : hdOk h ls [d.ind, a.ind] = true) (w1 : tyMOk h ty ts = true) :
    let f := (((fields h op).putTyM ty).putD d).putA a
    f.op = op ∧ f.hd = h ∧ f.tyM = some ty ∧ f.opD = d ∧ f.opA = a ∧ Tidy f := by
  obtain ⟨bnd, len, ixs⟩ := h
  obtain ⟨dn, di⟩ := d
  obtain ⟨an, ai⟩ := a
  cases len <;> simp [hdOk, tyMOk, tyDOk, immOk, SrcFits, hasLit, hasW1, SrcB.ind, rndOk, memOk] at w0 w1 <;>
    simp [fields, Fields.hd, Fields.tyM, Fields.tyD, Fields.opD, Fields.opA, Fields.opB, Fields.opC, Fields.src, Fields.imm, Fields.imm9,
      Fields.rnd, Fields.mem, Fields.opfBit,
      Tidy, hE, mTy_tyM, opf_bit, append9, rnd_code, w0, w1] <;> (try grind)

theorem shapeTRDAB (op : BitVec 8) (hE : isE op = false) (w0 : hdOk h ls [d.ind, a.ind, b.ind] = true) (w1 : tyMOk h ty ts = true) (w2 : SrcFits h.len b = true) (w3 : rndOk h ty r = true) :
    let f := (((((fields h op).putTyM ty).putRnd r).putD d).putA a).putSrc b
    f.op = op ∧ f.hd = h ∧ f.tyM = some ty ∧ rndOf f.rnd = some r ∧ f.opD = d ∧ f.opA = a ∧ f.src = b ∧ Tidy f := by
  obtain ⟨bnd, len, ixs⟩ := h
  obtain ⟨dn, di⟩ := d
  obtain ⟨an, ai⟩ := a
  rcases b with ⟨bn, bi⟩ | v | v <;> cases len <;> simp [hdOk, tyMOk, tyDOk, immOk, SrcFits, hasLit, hasW1, SrcB.ind, rndOk, memOk] at w0 w1 w2 w3 <;>
    simp [fields, Fields.hd, Fields.tyM, Fields.tyD, Fields.opD, Fields.opA, Fields.opB, Fields.opC, Fields.src, Fields.imm, Fields.imm9,
      Fields.rnd, Fields.mem, Fields.opfBit,
      Tidy, hE, mTy_tyM, opf_bit, append9, rnd_code, w0, w1, w2, w3] <;> (try grind)

theorem shapeTRDA (op : BitVec 8) (hE : isE op = false) (w0 : hdOk h ls [d.ind, a.ind] = true) (w1 : tyMOk h ty ts = true) (w2 : rndOk h ty r = true) :
    let f := ((((fields h op).putTyM ty).putRnd r).putD d).putA a
    f.op = op ∧ f.hd = h ∧ f.tyM = some ty ∧ rndOf f.rnd = some r ∧ f.opD = d ∧ f.opA = a ∧ Tidy f := by
  obtain ⟨bnd, len, ixs⟩ := h
  obtain ⟨dn, di⟩ := d
  obtain ⟨an, ai⟩ := a
  cases len <;> simp [hdOk, tyMOk, tyDOk, immOk, SrcFits, hasLit, hasW1, SrcB.ind, rndOk, memOk] at w0 w1 w2 <;>
    simp [fields, Fields.hd, Fields.tyM, Fields.tyD, Fields.opD, Fields.opA, Fields.opB, Fields.opC, Fields.src, Fields.imm, Fields.imm9,
      Fields.rnd, Fields.mem, Fields.opfBit,
      Tidy, hE, mTy_tyM, opf_bit, append9, rnd_code, w0, w1, w2] <;> (try grind)

theorem shapeTDABC (op : BitVec 8) (hE : isE op = false) (w0 : hdOk h [.l1] [d.ind, a.ind, b.ind, c.ind] = true) (w1 : tyMOk h ty ts = true) (w2 : SrcFits h.len b = true) :
    let f := (((((fields h op).putTyM ty).putD d).putA a).putSrc b).putC c
    f.op = op ∧ f.hd = h ∧ f.tyM = some ty ∧ f.opD = d ∧ f.opA = a ∧ f.src = b ∧ f.opC = c ∧ Tidy f := by
  obtain ⟨bnd, len, ixs⟩ := h
  obtain ⟨dn, di⟩ := d
  obtain ⟨an, ai⟩ := a
  obtain ⟨cn, ci⟩ := c
  rcases b with ⟨bn, bi⟩ | v | v <;> cases len <;> simp [hdOk, tyMOk, tyDOk, immOk, SrcFits, hasLit, hasW1, SrcB.ind, rndOk, memOk] at w0 w1 w2 <;>
    simp [fields, Fields.hd, Fields.tyM, Fields.tyD, Fields.opD, Fields.opA, Fields.opB, Fields.opC, Fields.src, Fields.imm, Fields.imm9,
      Fields.rnd, Fields.mem, Fields.opfBit,
      Tidy, hE, mTy_tyM, opf_bit, append9, rnd_code, w0, w1, w2]

theorem shapeMTDAB (op : BitVec 8) (hE : isE op = false) (w0 : hdOk h ls [d.ind, a.ind, b.ind] = true) (w1 : tyMOk h ty ts = true) (w2 : SrcFits h.len b = true) (w3 : memOk h m p os ss = true) :
    let f := (((((fields h op).putMem m).putTyM ty).putD d).putA a).putSrc b
    f.op = op ∧ f.hd = h ∧ f.mem = some m ∧ f.tyM = some ty ∧ f.opD = d ∧ f.opA = a ∧ f.src = b ∧ Tidy f := by
  obtain ⟨bnd, len, ixs⟩ := h
  obtain ⟨dn, di⟩ := d
  obtain ⟨an, ai⟩ := a
  obtain ⟨poll, order, scope, space⟩ := m
  rcases b with ⟨bn, bi⟩ | v | v <;> cases len <;> simp [hdOk, tyMOk, tyDOk, immOk, SrcFits, hasLit, hasW1, SrcB.ind, rndOk, memOk] at w0 w1 w2 w3 <;>
    simp [fields, Fields.hd, Fields.tyM, Fields.tyD, Fields.opD, Fields.opA, Fields.opB, Fields.opC, Fields.src, Fields.imm, Fields.imm9,
      Fields.rnd, Fields.mem, Fields.opfBit,
      Tidy, hE, mTy_tyM, opf_bit, append9, rnd_code, w0, w1, w2, w3] <;> (try grind)
/-! ## Every constructor -/
theorem moduleReset : Statement (.moduleReset) := fun h => by cases h
theorem firmwareUpdate (img : FwImage) : Statement (.firmwareUpdate img) := fun h => by cases h
theorem hostLinkTrain (link ok atomics : Bool) : Statement (.hostLinkTrain link ok atomics) := fun h => by cases h
theorem gulLinkUp (link : BitVec 4) (peerMin peerMax : BitVec 8) : Statement (.gulLinkUp link peerMin peerMax) := fun h => by cases h
theorem hifVersionSelect (version : BitVec 8) : Statement (.hifVersionSelect version) := fun h => by cases h
theorem wsdropClear : Statement (.wsdropClear) := fun h => by cases h
theorem registerWrite (off : Nat) (bytes : List Byte) : Statement (.registerWrite off bytes) := fun h => by cases h
theorem eventCounterWrite (cluster : Nat) (k : BitVec 4) (v : BitVec 128) : Statement (.eventCounterWrite cluster k v) := fun h => by cases h
theorem contextCreate : Statement (.contextCreate) := fun h => by cases h
theorem contextDestroy (ctx : BitVec 6) : Statement (.contextDestroy ctx) := fun h => by cases h
theorem ctxcmdBadOp (op : Byte) : Statement (.ctxcmdBadOp op) := fun h => by cases h
theorem hostRead (path : HostPath) (t : HostTarget) (off n : Nat) : Statement (.hostRead path t off n) := fun h => by cases h
theorem hostWrite (path : HostPath) (t : HostTarget) (off : Nat) (bytes : List Byte) : Statement (.hostWrite path t off bytes) := fun h => by cases h
theorem wsHostWrite (off : Nat) (bytes : List Byte) : Statement (.wsHostWrite off bytes) := fun h => by cases h
theorem launchRead (ctx : Nat) : Statement (.launchRead ctx) := fun h => by cases h
theorem gangPlace (gang : Nat) : Statement (.gangPlace gang) := fun h => by cases h
theorem frontRelease (core : Nat) : Statement (.frontRelease core) := fun h => by cases h
theorem gangResourceRelease (gang : Nat) : Statement (.gangResourceRelease gang) := fun h => by cases h
theorem runIssue (core sched : Nat) : Statement (.runIssue core sched) := fun h => by cases h
theorem fusedExpSum (f : FusedOps) : Statement (.fusedExpSum f) := fun h => by cases h
theorem drain (q : QId) (i : Nat) : Statement (.drain q i) := fun h => by cases h
theorem propagate (core seq : Nat) : Statement (.propagate core seq) := fun h => by cases h
theorem loadStep (q : QId) (i : Nat) : Statement (.loadStep q i) := fun h => by cases h
theorem atomicStep (q : QId) (i : Nat) : Statement (.atomicStep q i) := fun h => by cases h
theorem fenceMarkLeave (q : QId) (i : Nat) : Statement (.fenceMarkLeave q i) := fun h => by cases h
theorem engineAccept (cmd : Nat) : Statement (.engineAccept cmd) := fun h => by cases h
theorem engineLine (w : EngWork) (line : Nat) : Statement (.engineLine w line) := fun h => by cases h
theorem engineArrival (cmd line : Nat) : Statement (.engineArrival cmd line) := fun h => by cases h
theorem select (q : QId) (op : Nat) : Statement (.select q op) := fun h => by cases h
theorem tensorTableStep (q : QId) (op : Nat) : Statement (.tensorTableStep q op) := fun h => by cases h
theorem patternInstall (q : QId) (op : Nat) : Statement (.patternInstall q op) := fun h => by cases h
theorem tileOpComplete (q : QId) (op : Nat) : Statement (.tileOpComplete q op) := fun h => by cases h
theorem queryRoundReady (q : QId) (slot : Nat) : Statement (.queryRoundReady q slot) := fun h => by cases h
theorem sampleCommit (q : QId) (op : Nat) : Statement (.sampleCommit q op) := fun h => by cases h
theorem grasReplay (q : QId) (op : Nat) : Statement (.grasReplay q op) := fun h => by cases h
theorem queueReserve (a : Agent) : Statement (.queueReserve a) := fun h => by cases h
theorem queueHostImport (ctx q : Nat) : Statement (.queueHostImport ctx q) := fun h => by cases h
theorem gatherBatch (ctx q : Nat) : Statement (.gatherBatch ctx q) := fun h => by cases h
theorem gatherHoldExpire (ctx q : Nat) : Statement (.gatherHoldExpire ctx q) := fun h => by cases h
theorem jobEndCondition (job : Nat) : Statement (.jobEndCondition job) := fun h => by cases h
theorem jobComplete (job : Nat) : Statement (.jobComplete job) := fun h => by cases h
theorem sillageSpill (q : QId) (what : SpillWhat) : Statement (.sillageSpill q what) := fun h => by cases h
theorem sillageRefill (q : QId) (what : SpillWhat) : Statement (.sillageRefill q what) := fun h => by cases h
theorem trapEntry (a : Agent) : Statement (.trapEntry a) := fun h => by cases h
theorem faultForward (src : FaultSrc) : Statement (.faultForward src) := fun h => by cases h
theorem faultRecordAppend (ctx : Nat) : Statement (.faultRecordAppend ctx) := fun h => by cases h
theorem resume (ctx : Nat) : Statement (.resume ctx) := fun h => by cases h
theorem abort (ctx : Nat) : Statement (.abort ctx) := fun h => by cases h
theorem migrate (ctx : Nat) : Statement (.migrate ctx) := fun h => by cases h
theorem cmdUnknown (ctx : Nat) : Statement (.cmdUnknown ctx) := fun h => by cases h
theorem migrateLine (mig line : Nat) : Statement (.migrateLine mig line) := fun h => by cases h
theorem migrateSwap (mig : Nat) : Statement (.migrateSwap mig) := fun h => by cases h
theorem gangEvict (gang : Nat) : Statement (.gangEvict gang) := fun h => by cases h
theorem copyQuiesce (gang : Nat) : Statement (.copyQuiesce gang) := fun h => by cases h
theorem evictSave (gang : Nat) : Statement (.evictSave gang) := fun h => by cases h
theorem gangRestore (gang : Nat) : Statement (.gangRestore gang) := fun h => by cases h
theorem coreStateHandover (core ctx : Nat) : Statement (.coreStateHandover core ctx) := fun h => by cases h
theorem coreStateRestore (core ctx : Nat) : Statement (.coreStateRestore core ctx) := fun h => by cases h
theorem sleepExpire (a : Agent) : Statement (.sleepExpire a) := fun h => by cases h
theorem wakeatExpire (a : Agent) : Statement (.wakeatExpire a) := fun h => by cases h
theorem promiseExpire (a : Agent) : Statement (.promiseExpire a) := fun h => by cases h
theorem wsRefreshWindow : Statement .wsRefreshWindow := fun h => by cases h
theorem powerBubble : Statement (.powerBubble) := fun h => by cases h
theorem cycleStretch (cluster : Nat) : Statement (.cycleStretch cluster) := fun h => by cases h
theorem clusterModeChange (cluster : Nat) (fixed : Bool) : Statement (.clusterModeChange cluster fixed) := fun h => by cases h
theorem elasticClockChange (cluster mhz : Nat) : Statement (.elasticClockChange cluster mhz) := fun h => by cases h
theorem softError (addr : Nat) : Statement (.softError addr) := fun h => by cases h
theorem spdmMessage (m : SpdmMsg) : Statement (.spdmMessage m) := fun h => by cases h
theorem linkBlockResend (link : BitVec 4) : Statement (.linkBlockResend link) := fun h => by cases h
theorem podForward (dest : BitVec 10) (payload : List Byte) : Statement (.podForward dest payload) := fun h => by cases h
theorem podAccessArrival (acc : PodAccess) : Statement (.podAccessArrival acc) := fun h => by cases h
theorem bra (h : Hd) (off : BitVec 21) : Statement (.bra h off) := by
  intro hw f hf
  obtain ⟨bnd, len, ixs⟩ := h
  injection hf with hf
  cases len <;> simp [Instr.wf, hdOk] at hw <;> (
    have e_op : f.op = 0x01 := by subst hf; rfl
    refine ⟨?_, ?_⟩
    · unfold build buildFlow; rw [e_op]; show (do some (Instr.bra f.hd f.off21)) = _; subst hf
      simp [fields, Fields.hd, Fields.off21, append21, hw]
    · unfold Tidy; rw [e_op, show isE (0x01 : BitVec 8) = false from rfl]; subst hf
      simp [fields, hw])
theorem brc (h : Hd) (a : Opnd) (off : Imm) : Statement (.brc h a off) := by
  intro hw f hf
  obtain ⟨bnd, len, ixs⟩ := h
  obtain ⟨an, ai⟩ := a
  injection hf with hf
  rcases off with v | v | v <;> cases len <;> simp [Instr.wf, hdOk, immOk] at hw <;> (
    have e_op : f.op = 0x02 := by subst hf; rfl
    refine ⟨?_, ?_⟩
    · unfold build buildFlow; rw [e_op]; show (do some (Instr.brc f.hd f.opA f.imm)) = _; subst hf
      simp [fields, Fields.hd, Fields.opA, Fields.imm, Fields.imm9, append9, hw]
    · unfold Tidy; rw [e_op, show isE (0x02 : BitVec 8) = false from rfl]; subst hf
      simp [fields, hw] <;> (try grind))
theorem brz (h : Hd) (a : Opnd) (off : Imm) : Statement (.brz h a off) := by
  intro hw f hf
  obtain ⟨bnd, len, ixs⟩ := h
  obtain ⟨an, ai⟩ := a
  injection hf with hf
  rcases off with v | v | v <;> cases len <;> simp [Instr.wf, hdOk, immOk] at hw <;> (
    have e_op : f.op = 0x03 := by subst hf; rfl
    refine ⟨?_, ?_⟩
    · unfold build buildFlow; rw [e_op]; show (do some (Instr.brz f.hd f.opA f.imm)) = _; subst hf
      simp [fields, Fields.hd, Fields.opA, Fields.imm, Fields.imm9, append9, hw]
    · unfold Tidy; rw [e_op, show isE (0x03 : BitVec 8) = false from rfl]; subst hf
      simp [fields, hw] <;> (try grind))
theorem brd (h : Hd) (a : Opnd) (off : Imm) : Statement (.brd h a off) := by
  intro hw f hf
  obtain ⟨bnd, len, ixs⟩ := h
  obtain ⟨an, ai⟩ := a
  injection hf with hf
  rcases off with v | v | v <;> cases len <;> simp [Instr.wf, hdOk, immOk] at hw <;> (
    have e_op : f.op = 0x04 := by subst hf; rfl
    refine ⟨?_, ?_⟩
    · unfold build buildFlow; rw [e_op]; show (do some (Instr.brd f.hd f.opA f.imm)) = _; subst hf
      simp [fields, Fields.hd, Fields.opA, Fields.imm, Fields.imm9, append9, hw]
    · unfold Tidy; rw [e_op, show isE (0x04 : BitVec 8) = false from rfl]; subst hf
      simp [fields, hw] <;> (try grind))
theorem jmpiS (h : Hd) (a : RegNo) : Statement (.jmpiS h a) := by
  intro hw f hf
  obtain ⟨bnd, len, ixs⟩ := h
  injection hf with hf
  cases len <;> simp [Instr.wf, hdOk] at hw <;> (
    have e_op : f.op = 0x05 := by subst hf; rfl
    refine ⟨?_, ?_⟩
    · unfold build buildFlow; rw [e_op]; show (do some (Instr.jmpiS f.hd f.a)) = _; subst hf
      simp [fields, Fields.hd, hw]
    · unfold Tidy; rw [e_op, show isE (0x05 : BitVec 8) = false from rfl]; subst hf
      simp [fields, hw])
theorem jmpiV (h : Hd) (a : RegNo) : Statement (.jmpiV h a) := by
  intro hw f hf
  obtain ⟨bnd, len, ixs⟩ := h
  injection hf with hf
  cases len <;> simp [Instr.wf, hdOk] at hw <;> (
    have e_op : f.op = 0x09 := by subst hf; rfl
    refine ⟨?_, ?_⟩
    · unfold build buildFlow; rw [e_op]; show (do some (Instr.jmpiV f.hd f.a)) = _; subst hf
      simp [fields, Fields.hd, hw]
    · unfold Tidy; rw [e_op, show isE (0x09 : BitVec 8) = false from rfl]; subst hf
      simp [fields, hw])
theorem call (h : Hd) (k : RegNo) (off : CallOff) : Statement (.call h k off) := by
  intro hw f hf
  obtain ⟨bnd, len, ixs⟩ := h
  injection hf with hf
  rcases off with v | v <;> cases len <;> simp [Instr.wf, hdOk, callOk] at hw <;> (
    have e_op : f.op = 0x06 := by subst hf; rfl
    refine ⟨?_, ?_⟩
    · unfold build buildFlow; rw [e_op]; show (do some (Instr.call f.hd f.d f.call)) = _; subst hf
      simp [fields, Fields.hd, Fields.call, append15, hw]
    · unfold Tidy; rw [e_op, show isE (0x06 : BitVec 8) = false from rfl]; subst hf
      simp [fields, hw])
theorem calliS (h : Hd) (k a : RegNo) : Statement (.calliS h k a) := by
  intro hw f hf
  obtain ⟨bnd, len, ixs⟩ := h
  injection hf with hf
  cases len <;> simp [Instr.wf, hdOk] at hw <;> (
    have e_op : f.op = 0x07 := by subst hf; rfl
    refine ⟨?_, ?_⟩
    · unfold build buildFlow; rw [e_op]; show (do some (Instr.calliS f.hd f.d f.a)) = _; subst hf
      simp [fields, Fields.hd, append15, hw]
    · unfold Tidy; rw [e_op, show isE (0x07 : BitVec 8) = false from rfl]; subst hf
      simp [fields, hw])
theorem calliV (h : Hd) (k a : RegNo) : Statement (.calliV h k a) := by
  intro hw f hf
  obtain ⟨bnd, len, ixs⟩ := h
  injection hf with hf
  cases len <;> simp [Instr.wf, hdOk] at hw <;> (
    have e_op : f.op = 0x08 := by subst hf; rfl
    refine ⟨?_, ?_⟩
    · unfold build buildFlow; rw [e_op]; show (do some (Instr.calliV f.hd f.d f.a)) = _; subst hf
      simp [fields, Fields.hd, append15, hw]
    · unfold Tidy; rw [e_op, show isE (0x08 : BitVec 8) = false from rfl]; subst hf
      simp [fields, hw])
theorem ret (h : Hd) : Statement (.ret h) := by
  intro hw f hf
  obtain ⟨bnd, len, ixs⟩ := h
  injection hf with hf
  cases len <;> simp [Instr.wf, hdOk] at hw <;> (
    have e_op : f.op = 0x0A := by subst hf; rfl
    refine ⟨?_, ?_⟩
    · unfold build buildFlow; rw [e_op]; show (do some (Instr.ret f.hd )) = _; subst hf
      simp [fields, Fields.hd, hw]
    · unfold Tidy; rw [e_op, show isE (0x0A : BitVec 8) = false from rfl]; subst hf
      simp [fields, hw])
theorem recv (h : Hd) : Statement (.recv h) := by
  intro hw f hf
  obtain ⟨bnd, len, ixs⟩ := h
  injection hf with hf
  cases len <;> simp [Instr.wf, hdOk] at hw <;> (
    have e_op : f.op = 0x0B := by subst hf; rfl
    refine ⟨?_, ?_⟩
    · unfold build buildFlow; rw [e_op]; show (do some (Instr.recv f.hd )) = _; subst hf
      simp [fields, Fields.hd, hw]
    · unfold Tidy; rw [e_op, show isE (0x0B : BitVec 8) = false from rfl]; subst hf
      simp [fields, hw])
theorem rtt (h : Hd) : Statement (.rtt h) := by
  intro hw f hf
  obtain ⟨bnd, len, ixs⟩ := h
  injection hf with hf
  cases len <;> simp [Instr.wf, hdOk] at hw <;> (
    have e_op : f.op = 0x0C := by subst hf; rfl
    refine ⟨?_, ?_⟩
    · unfold build buildFlow; rw [e_op]; show (do some (Instr.rtt f.hd )) = _; subst hf
      simp [fields, Fields.hd, hw]
    · unfold Tidy; rw [e_op, show isE (0x0C : BitVec 8) = false from rfl]; subst hf
      simp [fields, hw])
theorem loop (h : Hd) (lc : RegNo) (a : Opnd) (off : Imm) : Statement (.loop h lc a off) := by
  intro hw f hf
  obtain ⟨bnd, len, ixs⟩ := h
  obtain ⟨an, ai⟩ := a
  injection hf with hf
  rcases off with v | v | v <;> cases len <;> simp [Instr.wf, hdOk, immOk] at hw <;> (
    have e_op : f.op = 0x0D := by subst hf; rfl
    refine ⟨?_, ?_⟩
    · unfold build buildFlow; rw [e_op]; show (do some (Instr.loop f.hd f.d f.opA f.imm)) = _; subst hf
      simp [fields, Fields.hd, Fields.opA, Fields.imm, Fields.imm9, append9, hw]
    · unfold Tidy; rw [e_op, show isE (0x0D : BitVec 8) = false from rfl]; subst hf
      simp [fields, hw] <;> (try grind))
theorem nop (h : Hd) : Statement (.nop h) := by
  intro hw f hf
  obtain ⟨bnd, len, ixs⟩ := h
  injection hf with hf
  cases len <;> simp [Instr.wf, hdOk] at hw <;> (
    have e_op : f.op = 0x0E := by subst hf; rfl
    refine ⟨?_, ?_⟩
    · unfold build buildFlow; rw [e_op]; show (do some (Instr.nop f.hd )) = _; subst hf
      simp [fields, Fields.hd, hw]
    · unfold Tidy; rw [e_op, show isE (0x0E : BitVec 8) = false from rfl]; subst hf
      simp [fields, hw])
theorem endI (h : Hd) : Statement (.endI h) := by
  intro hw f hf
  obtain ⟨bnd, len, ixs⟩ := h
  injection hf with hf
  cases len <;> simp [Instr.wf, hdOk] at hw <;> (
    have e_op : f.op = 0x0F := by subst hf; rfl
    refine ⟨?_, ?_⟩
    · unfold build buildFlow; rw [e_op]; show (do some (Instr.endI f.hd )) = _; subst hf
      simp [fields, Fields.hd, hw]
    · unfold Tidy; rw [e_op, show isE (0x0F : BitVec 8) = false from rfl]; subst hf
      simp [fields, hw])
theorem fence (h : Hd) (order : Order) (scope : Scope) : Statement (.fence h order scope) := by
  intro hw f hf
  obtain ⟨bnd, len, ixs⟩ := h
  injection hf with hf
  cases len <;> simp [Instr.wf, hdOk] at hw <;> (
    have e_op : f.op = 0x10 := by subst hf; rfl
    refine ⟨?_, ?_⟩
    · unfold build buildFlow; rw [e_op]; show (do some (Instr.fence f.hd (← orderOf f.order f.sc) (← scopeOf f.scope))) = _; subst hf
      simp [fields, Fields.hd, hw]
    · unfold Tidy; rw [e_op, show isE (0x10 : BitVec 8) = false from rfl]; subst hf
      simp [fields, hw])
theorem trap (h : Hd) (code : Byte) : Statement (.trap h code) := by
  intro hw f hf
  obtain ⟨bnd, len, ixs⟩ := h
  injection hf with hf
  cases len <;> simp [Instr.wf, hdOk] at hw <;> (
    have e_op : f.op = 0x11 := by subst hf; rfl
    refine ⟨?_, ?_⟩
    · unfold build buildFlow; rw [e_op]; show (do some (Instr.trap f.hd f.byte9)) = _; subst hf
      simp [fields, Fields.hd, Fields.byte9, Fields.imm9, byte9, hw]
    · unfold Tidy; rw [e_op, show isE (0x11 : BitVec 8) = false from rfl]; subst hf
      simp [fields, hw])
theorem bkpt (h : Hd) : Statement (.bkpt h) := by
  intro hw f hf
  obtain ⟨bnd, len, ixs⟩ := h
  injection hf with hf
  cases len <;> simp [Instr.wf, hdOk] at hw <;> (
    have e_op : f.op = 0x12 := by subst hf; rfl
    refine ⟨?_, ?_⟩
    · unfold build buildFlow; rw [e_op]; show (do some (Instr.bkpt f.hd )) = _; subst hf
      simp [fields, Fields.hd, hw]
    · unfold Tidy; rw [e_op, show isE (0x12 : BitVec 8) = false from rfl]; subst hf
      simp [fields, hw])
theorem wait (h : Hd) (cls : WaitClass) (n : Imm) : Statement (.wait h cls n) := by
  intro hw f hf
  obtain ⟨bnd, len, ixs⟩ := h
  injection hf with hf
  rcases n with v | v | v <;> cases len <;> simp [Instr.wf, hdOk, immOk] at hw <;> (
    have e_op : f.op = 0x13 := by subst hf; rfl
    refine ⟨?_, ?_⟩
    · unfold build buildFlow; rw [e_op]; show (do some (Instr.wait f.hd (← clsOf f.d) f.imm)) = _; subst hf
      simp [fields, Fields.hd, Fields.imm, Fields.imm9, append9, hw]
    · unfold Tidy; rw [e_op, show isE (0x13 : BitVec 8) = false from rfl]; subst hf
      simp [fields, hw])
theorem sleep (h : Hd) (a : RegNo) : Statement (.sleep h a) := by
  intro hw f hf
  obtain ⟨bnd, len, ixs⟩ := h
  injection hf with hf
  cases len <;> simp [Instr.wf, hdOk] at hw <;> (
    have e_op : f.op = 0x14 := by subst hf; rfl
    refine ⟨?_, ?_⟩
    · unfold build buildFlow; rw [e_op]; show (do some (Instr.sleep f.hd f.a)) = _; subst hf
      simp [fields, Fields.hd, hw]
    · unfold Tidy; rw [e_op, show isE (0x14 : BitVec 8) = false from rfl]; subst hf
      simp [fields, hw])
theorem wakeat (h : Hd) (a : RegNo) : Statement (.wakeat h a) := by
  intro hw f hf
  obtain ⟨bnd, len, ixs⟩ := h
  injection hf with hf
  cases len <;> simp [Instr.wf, hdOk] at hw <;> (
    have e_op : f.op = 0x15 := by subst hf; rfl
    refine ⟨?_, ?_⟩
    · unfold build buildFlow; rw [e_op]; show (do some (Instr.wakeat f.hd f.a)) = _; subst hf
      simp [fields, Fields.hd, hw]
    · unfold Tidy; rw [e_op, show isE (0x15 : BitVec 8) = false from rfl]; subst hf
      simp [fields, hw])
theorem sync (h : Hd) : Statement (.sync h) := by
  intro hw f hf
  obtain ⟨bnd, len, ixs⟩ := h
  injection hf with hf
  cases len <;> simp [Instr.wf, hdOk] at hw <;> (
    have e_op : f.op = 0x16 := by subst hf; rfl
    refine ⟨?_, ?_⟩
    · unfold build buildFlow; rw [e_op]; show (do some (Instr.sync f.hd )) = _; subst hf
      simp [fields, Fields.hd, hw]
    · unfold Tidy; rw [e_op, show isE (0x16 : BitVec 8) = false from rfl]; subst hf
      simp [fields, hw])
theorem publish (h : Hd) (tid : Tid) : Statement (.publish h tid) := by
  intro hw f hf
  obtain ⟨bnd, len, ixs⟩ := h
  injection hf with hf
  cases len <;> simp [Instr.wf, hdOk] at hw <;> (
    have e_op : f.op = 0x17 := by subst hf; rfl
    refine ⟨?_, ?_⟩
    · unfold build buildFlow; rw [e_op]; show (do some (Instr.publish f.hd f.tid)) = _; subst hf
      simp [fields, Fields.hd, hw]
    · unfold Tidy; rw [e_op, show isE (0x17 : BitVec 8) = true from rfl]; subst hf
      simp [fields, hw])
theorem deq (h : Hd) (d a b : RegNo) : Statement (.deq h d a b) := by
  intro hw f hf
  obtain ⟨bnd, len, ixs⟩ := h
  injection hf with hf
  cases len <;> simp [Instr.wf, hdOk] at hw <;> (
    have e_op : f.op = 0x18 := by subst hf; rfl
    refine ⟨?_, ?_⟩
    · unfold build buildFlow; rw [e_op]; show (do some (Instr.deq f.hd f.d f.a f.b)) = _; subst hf
      simp [fields, Fields.hd, hw]
    · unfold Tidy; rw [e_op, show isE (0x18 : BitVec 8) = false from rfl]; subst hf
      simp [fields, hw])
theorem enq (h : Hd) (d a b : RegNo) (cnt : BitVec 3) : Statement (.enq h d a b cnt) := by
  intro hw f hf
  obtain ⟨bnd, len, ixs⟩ := h
  injection hf with hf
  cases len <;> simp [Instr.wf, hdOk] at hw <;> (
    have e_op : f.op = 0x19 := by subst hf; rfl
    refine ⟨?_, ?_⟩
    · unfold build buildFlow; rw [e_op]; show (do some (Instr.enq f.hd f.d f.a f.b f.m)) = _; subst hf
      simp [fields, Fields.hd, hw]
    · unfold Tidy; rw [e_op, show isE (0x19 : BitVec 8) = false from rfl]; subst hf
      simp [fields, hw])
theorem dqpop (h : Hd) (d a : RegNo) (j : Bool) : Statement (.dqpop h d a j) := by
  intro hw f hf
  obtain ⟨bnd, len, ixs⟩ := h
  injection hf with hf
  cases len <;> simp [Instr.wf, hdOk] at hw <;> (
    have e_op : f.op = 0x1A := by subst hf; rfl
    refine ⟨?_, ?_⟩
    · unfold build buildFlow; rw [e_op]; show (do some (Instr.dqpop f.hd f.d f.a (f.m == 1))) = _; subst hf
      simp [fields, Fields.hd, hw]
    · unfold Tidy; rw [e_op, show isE (0x1A : BitVec 8) = false from rfl]; subst hf
      simp [fields, hw])
theorem dqpush (h : Hd) (a : RegNo) : Statement (.dqpush h a) := by
  intro hw f hf
  obtain ⟨bnd, len, ixs⟩ := h
  injection hf with hf
  cases len <;> simp [Instr.wf, hdOk] at hw <;> (
    have e_op : f.op = 0x1B := by subst hf; rfl
    refine ⟨?_, ?_⟩
    · unfold build buildFlow; rw [e_op]; show (do some (Instr.dqpush f.hd f.a)) = _; subst hf
      simp [fields, Fields.hd, hw]
    · unfold Tidy; rw [e_op, show isE (0x1B : BitVec 8) = false from rfl]; subst hf
      simp [fields, hw])
theorem emit (h : Hd) (a b : RegNo) : Statement (.emit h a b) := by
  intro hw f hf
  obtain ⟨bnd, len, ixs⟩ := h
  injection hf with hf
  cases len <;> simp [Instr.wf, hdOk] at hw <;> (
    have e_op : f.op = 0x1C := by subst hf; rfl
    refine ⟨?_, ?_⟩
    · unfold build buildFlow; rw [e_op]; show (do some (Instr.emit f.hd f.a f.b)) = _; subst hf
      simp [fields, Fields.hd, hw]
    · unfold Tidy; rw [e_op, show isE (0x1C : BitVec 8) = false from rfl]; subst hf
      simp [fields, hw])
theorem bbi (h : Hd) (a b : RegNo) : Statement (.bbi h a b) := by
  intro hw f hf
  obtain ⟨bnd, len, ixs⟩ := h
  injection hf with hf
  cases len <;> simp [Instr.wf, hdOk] at hw <;> (
    have e_op : f.op = 0x1D := by subst hf; rfl
    refine ⟨?_, ?_⟩
    · unfold build buildFlow; rw [e_op]; show (do some (Instr.bbi f.hd f.a f.b)) = _; subst hf
      simp [fields, Fields.hd, hw]
    · unfold Tidy; rw [e_op, show isE (0x1D : BitVec 8) = false from rfl]; subst hf
      simp [fields, hw])
theorem bba (h : Hd) (a b : RegNo) : Statement (.bba h a b) := by
  intro hw f hf
  obtain ⟨bnd, len, ixs⟩ := h
  injection hf with hf
  cases len <;> simp [Instr.wf, hdOk] at hw <;> (
    have e_op : f.op = 0x1E := by subst hf; rfl
    refine ⟨?_, ?_⟩
    · unfold build buildFlow; rw [e_op]; show (do some (Instr.bba f.hd f.a f.b)) = _; subst hf
      simp [fields, Fields.hd, hw]
    · unfold Tidy; rw [e_op, show isE (0x1E : BitVec 8) = false from rfl]; subst hf
      simp [fields, hw])
theorem bbw (h : Hd) (a : RegNo) : Statement (.bbw h a) := by
  intro hw f hf
  obtain ⟨bnd, len, ixs⟩ := h
  injection hf with hf
  cases len <;> simp [Instr.wf, hdOk] at hw <;> (
    have e_op : f.op = 0x1F := by subst hf; rfl
    refine ⟨?_, ?_⟩
    · unfold build buildFlow; rw [e_op]; show (do some (Instr.bbw f.hd f.a)) = _; subst hf
      simp [fields, Fields.hd, hw]
    · unfold Tidy; rw [e_op, show isE (0x1F : BitVec 8) = false from rfl]; subst hf
      simp [fields, hw])
theorem smov (h : Hd) (ty : Ty) (d a : Opnd) : Statement (.smov h ty d a) := by
  intro hw f hf
  injection hf with hf
  simp only [Instr.wf, Bool.and_eq_true] at hw
  obtain ⟨w0, w1⟩ := hw
  obtain ⟨e_op, e_hd, e_tyM, e_opD, e_opA, tidy⟩ := shapeTDA 0x20 rfl w0 w1
  rw [hf] at e_op e_hd e_tyM e_opD e_opA tidy
  exact ⟨by unfold build buildScalar; rw [e_op]; show (do some (Instr.smov f.hd (← f.tyM) f.opD f.opA)) = _; simp only [e_hd, e_tyM, e_opD, e_opA]; rfl, tidy⟩
theorem sadd (h : Hd) (ty : Ty) (d a : Opnd) (b : SrcB) : Statement (.sadd h ty d a b) := by
  intro hw f hf
  injection hf with hf
  simp only [Instr.wf, Bool.and_eq_true] at hw
  obtain ⟨⟨w0, w1⟩, w2⟩ := hw
  obtain ⟨e_op, e_hd, e_tyM, e_opD, e_opA, e_src, tidy⟩ := shapeTDAB 0x21 rfl w0 w1 (srcFits_of_src w2)
  rw [hf] at e_op e_hd e_tyM e_opD e_opA e_src tidy
  exact ⟨by unfold build buildScalar; rw [e_op]; show (do some (Instr.sadd f.hd (← f.tyM) f.opD f.opA f.src)) = _; simp only [e_hd, e_tyM, e_opD, e_opA, e_src]; rfl, tidy⟩
theorem ssub (h : Hd) (ty : Ty) (d a : Opnd) (b : SrcB) : Statement (.ssub h ty d a b) := by
  intro hw f hf
  injection hf with hf
  simp only [Instr.wf, Bool.and_eq_true] at hw
  obtain ⟨⟨w0, w1⟩, w2⟩ := hw
  obtain ⟨e_op, e_hd, e_tyM, e_opD, e_opA, e_src, tidy⟩ := shapeTDAB 0x22 rfl w0 w1 (srcFits_of_src w2)
  rw [hf] at e_op e_hd e_tyM e_opD e_opA e_src tidy
  exact ⟨by unfold build buildScalar; rw [e_op]; show (do some (Instr.ssub f.hd (← f.tyM) f.opD f.opA f.src)) = _; simp only [e_hd, e_tyM, e_opD, e_opA, e_src]; rfl, tidy⟩
theorem smul (h : Hd) (ty : Ty) (d a : Opnd) (b : SrcB) : Statement (.smul h ty d a b) := by
  intro hw f hf
  injection hf with hf
  simp only [Instr.wf, Bool.and_eq_true] at hw
  obtain ⟨⟨w0, w1⟩, w2⟩ := hw
  obtain ⟨e_op, e_hd, e_tyM, e_opD, e_opA, e_src, tidy⟩ := shapeTDAB 0x23 rfl w0 w1 (srcFits_of_src w2)
  rw [hf] at e_op e_hd e_tyM e_opD e_opA e_src tidy
  exact ⟨by unfold build buildScalar; rw [e_op]; show (do some (Instr.smul f.hd (← f.tyM) f.opD f.opA f.src)) = _; simp only [e_hd, e_tyM, e_opD, e_opA, e_src]; rfl, tidy⟩
theorem sdiv (h : Hd) (ty : Ty) (d a : Opnd) (b : SrcB) : Statement (.sdiv h ty d a b) := by
  intro hw f hf
  injection hf with hf
  simp only [Instr.wf, Bool.and_eq_true] at hw
  obtain ⟨⟨w0, w1⟩, w2⟩ := hw
  obtain ⟨e_op, e_hd, e_tyM, e_opD, e_opA, e_src, tidy⟩ := shapeTDAB 0x24 rfl w0 w1 (srcFits_of_src w2)
  rw [hf] at e_op e_hd e_tyM e_opD e_opA e_src tidy
  exact ⟨by unfold build buildScalar; rw [e_op]; show (do some (Instr.sdiv f.hd (← f.tyM) f.opD f.opA f.src)) = _; simp only [e_hd, e_tyM, e_opD, e_opA, e_src]; rfl, tidy⟩
theorem smin (h : Hd) (ty : Ty) (d a : Opnd) (b : SrcB) : Statement (.smin h ty d a b) := by
  intro hw f hf
  injection hf with hf
  simp only [Instr.wf, Bool.and_eq_true] at hw
  obtain ⟨⟨w0, w1⟩, w2⟩ := hw
  obtain ⟨e_op, e_hd, e_tyM, e_opD, e_opA, e_src, tidy⟩ := shapeTDAB 0x25 rfl w0 w1 (srcFits_of_src w2)
  rw [hf] at e_op e_hd e_tyM e_opD e_opA e_src tidy
  exact ⟨by unfold build buildScalar; rw [e_op]; show (do some (Instr.smin f.hd (← f.tyM) f.opD f.opA f.src)) = _; simp only [e_hd, e_tyM, e_opD, e_opA, e_src]; rfl, tidy⟩
theorem smax (h : Hd) (ty : Ty) (d a : Opnd) (b : SrcB) : Statement (.smax h ty d a b) := by
  intro hw f hf
  injection hf with hf
  simp only [Instr.wf, Bool.and_eq_true] at hw
  obtain ⟨⟨w0, w1⟩, w2⟩ := hw
  obtain ⟨e_op, e_hd, e_tyM, e_opD, e_opA, e_src, tidy⟩ := shapeTDAB 0x26 rfl w0 w1 (srcFits_of_src w2)
  rw [hf] at e_op e_hd e_tyM e_opD e_opA e_src tidy
  exact ⟨by unfold build buildScalar; rw [e_op]; show (do some (Instr.smax f.hd (← f.tyM) f.opD f.opA f.src)) = _; simp only [e_hd, e_tyM, e_opD, e_opA, e_src]; rfl, tidy⟩
theorem sand (h : Hd) (ty : Ty) (d a : Opnd) (b : SrcB) : Statement (.sand h ty d a b) := by
  intro hw f hf
  injection hf with hf
  simp only [Instr.wf, Bool.and_eq_true] at hw
  obtain ⟨⟨w0, w1⟩, w2⟩ := hw
  obtain ⟨e_op, e_hd, e_tyM, e_opD, e_opA, e_src, tidy⟩ := shapeTDAB 0x27 rfl w0 w1 (srcFits_of_src w2)
  rw [hf] at e_op e_hd e_tyM e_opD e_opA e_src tidy
  exact ⟨by unfold build buildScalar; rw [e_op]; show (do some (Instr.sand f.hd (← f.tyM) f.opD f.opA f.src)) = _; simp only [e_hd, e_tyM, e_opD, e_opA, e_src]; rfl, tidy⟩
theorem sor (h : Hd) (ty : Ty) (d a : Opnd) (b : SrcB) : Statement (.sor h ty d a b) := by
  intro hw f hf
  injection hf with hf
  simp only [Instr.wf, Bool.and_eq_true] at hw
  obtain ⟨⟨w0, w1⟩, w2⟩ := hw
  obtain ⟨e_op, e_hd, e_tyM, e_opD, e_opA, e_src, tidy⟩ := shapeTDAB 0x28 rfl w0 w1 (srcFits_of_src w2)
  rw [hf] at e_op e_hd e_tyM e_opD e_opA e_src tidy
  exact ⟨by unfold build buildScalar; rw [e_op]; show (do some (Instr.sor f.hd (← f.tyM) f.opD f.opA f.src)) = _; simp only [e_hd, e_tyM, e_opD, e_opA, e_src]; rfl, tidy⟩
theorem sxor (h : Hd) (ty : Ty) (d a : Opnd) (b : SrcB) : Statement (.sxor h ty d a b) := by
  intro hw f hf
  injection hf with hf
  simp only [Instr.wf, Bool.and_eq_true] at hw
  obtain ⟨⟨w0, w1⟩, w2⟩ := hw
  obtain ⟨e_op, e_hd, e_tyM, e_opD, e_opA, e_src, tidy⟩ := shapeTDAB 0x29 rfl w0 w1 (srcFits_of_src w2)
  rw [hf] at e_op e_hd e_tyM e_opD e_opA e_src tidy
  exact ⟨by unfold build buildScalar; rw [e_op]; show (do some (Instr.sxor f.hd (← f.tyM) f.opD f.opA f.src)) = _; simp only [e_hd, e_tyM, e_opD, e_opA, e_src]; rfl, tidy⟩
theorem sshl (h : Hd) (ty : Ty) (d a : Opnd) (b : SrcB) : Statement (.sshl h ty d a b) := by
  intro hw f hf
  injection hf with hf
  simp only [Instr.wf, Bool.and_eq_true] at hw
  obtain ⟨⟨w0, w1⟩, w2⟩ := hw
  obtain ⟨e_op, e_hd, e_tyM, e_opD, e_opA, e_src, tidy⟩ := shapeTDAB 0x2A rfl w0 w1 (srcFits_of_src w2)
  rw [hf] at e_op e_hd e_tyM e_opD e_opA e_src tidy
  exact ⟨by unfold build buildScalar; rw [e_op]; show (do some (Instr.sshl f.hd (← f.tyM) f.opD f.opA f.src)) = _; simp only [e_hd, e_tyM, e_opD, e_opA, e_src]; rfl, tidy⟩
theorem sshr (h : Hd) (ty : Ty) (d a : Opnd) (b : SrcB) : Statement (.sshr h ty d a b) := by
  intro hw f hf
  injection hf with hf
  simp only [Instr.wf, Bool.and_eq_true] at hw
  obtain ⟨⟨w0, w1⟩, w2⟩ := hw
  obtain ⟨e_op, e_hd, e_tyM, e_opD, e_opA, e_src, tidy⟩ := shapeTDAB 0x2B rfl w0 w1 (srcFits_of_src w2)
  rw [hf] at e_op e_hd e_tyM e_opD e_opA e_src tidy
  exact ⟨by unfold build buildScalar; rw [e_op]; show (do some (Instr.sshr f.hd (← f.tyM) f.opD f.opA f.src)) = _; simp only [e_hd, e_tyM, e_opD, e_opA, e_src]; rfl, tidy⟩
theorem scmp (h : Hd) (c : CmpOp) (ty : Ty) (d a : Opnd) (b : SrcB) : Statement (.scmp h c ty d a b) := by
  intro hw f hf
  obtain ⟨bnd, len, ixs⟩ := h
  obtain ⟨dn, di⟩ := d
  obtain ⟨an, ai⟩ := a
  injection hf with hf
  rcases b with ⟨bn, bi⟩ | v | v <;> cases len <;> simp [Instr.wf, hdOk, tyDOk, srcOk, SrcB.ind] at hw <;> (
    have e_op : f.op = 0x2C := by subst hf; rfl
    refine ⟨?_, ?_⟩
    · unfold build buildScalar; rw [e_op]; show (do some (Instr.scmp f.hd (cmpOf f.m) (← f.tyD .i32) f.opD f.opA f.src)) = _; subst hf
      simp [fields, Fields.hd, Fields.tyD, Fields.opD, Fields.opA, Fields.src, Fields.opB, hw]
    · unfold Tidy; rw [e_op, show isE (0x2C : BitVec 8) = false from rfl]; subst hf
      simp [fields, hw] <;> (try grind))
theorem ssel (h : Hd) (ty : Ty) (d a : Opnd) (b : SrcB) (c : Opnd) : Statement (.ssel h ty d a b c) := by
  intro hw f hf
  injection hf with hf
  simp only [Instr.wf, Bool.and_eq_true] at hw
  obtain ⟨⟨w0, w1⟩, w2⟩ := hw
  obtain ⟨e_op, e_hd, e_tyM, e_opD, e_opA, e_src, e_opC, tidy⟩ := shapeTDABC 0x2D rfl w0 w1 (srcFits_of_src w2)
  rw [hf] at e_op e_hd e_tyM e_opD e_opA e_src e_opC tidy
  exact ⟨by unfold build buildScalar; rw [e_op]; show (do some (Instr.ssel f.hd (← f.tyM) f.opD f.opA f.src f.opC)) = _; simp only [e_hd, e_tyM, e_opD, e_opA, e_src, e_opC]; rfl, tidy⟩
theorem sbfe (h : Hd) (ty : Ty) (d a : Opnd) (b : SrcB) : Statement (.sbfe h ty d a b) := by
  intro hw f hf
  injection hf with hf
  simp only [Instr.wf, Bool.and_eq_true] at hw
  obtain ⟨⟨w0, w1⟩, w2⟩ := hw
  obtain ⟨e_op, e_hd, e_tyM, e_opD, e_opA, e_src, tidy⟩ := shapeTDAB 0x2E rfl w0 w1 (srcFits_of_src w2)
  rw [hf] at e_op e_hd e_tyM e_opD e_opA e_src tidy
  exact ⟨by unfold build buildScalar; rw [e_op]; show (do some (Instr.sbfe f.hd (← f.tyM) f.opD f.opA f.src)) = _; simp only [e_hd, e_tyM, e_opD, e_opA, e_src]; rfl, tidy⟩
theorem sbfi (h : Hd) (ty : Ty) (d a : Opnd) (b : SrcB) (c : Opnd) : Statement (.sbfi h ty d a b c) := by
  intro hw f hf
  injection hf with hf
  simp only [Instr.wf, Bool.and_eq_true] at hw
  obtain ⟨⟨w0, w1⟩, w2⟩ := hw
  obtain ⟨e_op, e_hd, e_tyM, e_opD, e_opA, e_src, e_opC, tidy⟩ := shapeTDABC 0x2F rfl w0 w1 (srcFits_of_src w2)
  rw [hf] at e_op e_hd e_tyM e_opD e_opA e_src e_opC tidy
  exact ⟨by unfold build buildScalar; rw [e_op]; show (do some (Instr.sbfi f.hd (← f.tyM) f.opD f.opA f.src f.opC)) = _; simp only [e_hd, e_tyM, e_opD, e_opA, e_src, e_opC]; rfl, tidy⟩
theorem smovImm (h : Hd) (ty : Ty) (d : Opnd) (i : Imm) : Statement (.smovImm h ty d i) := by
  intro hw f hf
  obtain ⟨bnd, len, ixs⟩ := h
  obtain ⟨dn, di⟩ := d
  injection hf with hf
  rcases i with v | v | v <;> cases len <;> simp [Instr.wf, hdOk, tyDOk, immOk] at hw <;> (
    have e_op : f.op = 0x30 := by subst hf; rfl
    refine ⟨?_, ?_⟩
    · unfold build buildScalar; rw [e_op]; show (do some (Instr.smovImm f.hd (← f.tyD .i32) f.opD f.imm)) = _; subst hf
      simp [fields, Fields.hd, Fields.tyD, Fields.opD, Fields.imm, Fields.imm9, append9, hw]
    · unfold Tidy; rw [e_op, show isE (0x30 : BitVec 8) = false from rfl]; subst hf
      simp [fields, hw] <;> (try grind))
theorem saddImm (h : Hd) (ty : Ty) (d a : Opnd) (i : Imm) : Statement (.saddImm h ty d a i) := by
  intro hw f hf
  injection hf with hf
  simp only [Instr.wf, Bool.and_eq_true] at hw
  obtain ⟨⟨w0, w1⟩, w2⟩ := hw
  obtain ⟨e_op, e_hd, e_tyD, e_opD, e_opA, e_imm, tidy⟩ := shapeYDAI 0x31 rfl w0 w1 w2
  rw [hf] at e_op e_hd e_tyD e_opD e_opA e_imm tidy
  exact ⟨by unfold build buildScalar; rw [e_op]; show (do some (Instr.saddImm f.hd (← f.tyD .i32) f.opD f.opA f.imm)) = _; simp only [e_hd, e_tyD, e_opD, e_opA, e_imm]; rfl, tidy⟩
theorem ssubImm (h : Hd) (ty : Ty) (d a : Opnd) (i : Imm) : Statement (.ssubImm h ty d a i) := by
  intro hw f hf
  injection hf with hf
  simp only [Instr.wf, Bool.and_eq_true] at hw
  obtain ⟨⟨w0, w1⟩, w2⟩ := hw
  obtain ⟨e_op, e_hd, e_tyD, e_opD, e_opA, e_imm, tidy⟩ := shapeYDAI 0x32 rfl w0 w1 w2
  rw [hf] at e_op e_hd e_tyD e_opD e_opA e_imm tidy
  exact ⟨by unfold build buildScalar; rw [e_op]; show (do some (Instr.ssubImm f.hd (← f.tyD .i32) f.opD f.opA f.imm)) = _; simp only [e_hd, e_tyD, e_opD, e_opA, e_imm]; rfl, tidy⟩
theorem smulImm (h : Hd) (ty : Ty) (d a : Opnd) (i : Imm) : Statement (.smulImm h ty d a i) := by
  intro hw f hf
  injection hf with hf
  simp only [Instr.wf, Bool.and_eq_true] at hw
  obtain ⟨⟨w0, w1⟩, w2⟩ := hw
  obtain ⟨e_op, e_hd, e_tyD, e_opD, e_opA, e_imm, tidy⟩ := shapeYDAI 0x33 rfl w0 w1 w2
  rw [hf] at e_op e_hd e_tyD e_opD e_opA e_imm tidy
  exact ⟨by unfold build buildScalar; rw [e_op]; show (do some (Instr.smulImm f.hd (← f.tyD .i32) f.opD f.opA f.imm)) = _; simp only [e_hd, e_tyD, e_opD, e_opA, e_imm]; rfl, tidy⟩
theorem sdivImm (h : Hd) (ty : Ty) (d a : Opnd) (i : Imm) : Statement (.sdivImm h ty d a i) := by
  intro hw f hf
  injection hf with hf
  simp only [Instr.wf, Bool.and_eq_true] at hw
  obtain ⟨⟨w0, w1⟩, w2⟩ := hw
  obtain ⟨e_op, e_hd, e_tyD, e_opD, e_opA, e_imm, tidy⟩ := shapeYDAI 0x34 rfl w0 w1 w2
  rw [hf] at e_op e_hd e_tyD e_opD e_opA e_imm tidy
  exact ⟨by unfold build buildScalar; rw [e_op]; show (do some (Instr.sdivImm f.hd (← f.tyD .i32) f.opD f.opA f.imm)) = _; simp only [e_hd, e_tyD, e_opD, e_opA, e_imm]; rfl, tidy⟩
theorem sminImm (h : Hd) (ty : Ty) (d a : Opnd) (i : Imm) : Statement (.sminImm h ty d a i) := by
  intro hw f hf
  injection hf with hf
  simp only [Instr.wf, Bool.and_eq_true] at hw
  obtain ⟨⟨w0, w1⟩, w2⟩ := hw
  obtain ⟨e_op, e_hd, e_tyD, e_opD, e_opA, e_imm, tidy⟩ := shapeYDAI 0x35 rfl w0 w1 w2
  rw [hf] at e_op e_hd e_tyD e_opD e_opA e_imm tidy
  exact ⟨by unfold build buildScalar; rw [e_op]; show (do some (Instr.sminImm f.hd (← f.tyD .i32) f.opD f.opA f.imm)) = _; simp only [e_hd, e_tyD, e_opD, e_opA, e_imm]; rfl, tidy⟩
theorem smaxImm (h : Hd) (ty : Ty) (d a : Opnd) (i : Imm) : Statement (.smaxImm h ty d a i) := by
  intro hw f hf
  injection hf with hf
  simp only [Instr.wf, Bool.and_eq_true] at hw
  obtain ⟨⟨w0, w1⟩, w2⟩ := hw
  obtain ⟨e_op, e_hd, e_tyD, e_opD, e_opA, e_imm, tidy⟩ := shapeYDAI 0x36 rfl w0 w1 w2
  rw [hf] at e_op e_hd e_tyD e_opD e_opA e_imm tidy
  exact ⟨by unfold build buildScalar; rw [e_op]; show (do some (Instr.smaxImm f.hd (← f.tyD .i32) f.opD f.opA f.imm)) = _; simp only [e_hd, e_tyD, e_opD, e_opA, e_imm]; rfl, tidy⟩
theorem sandImm (h : Hd) (ty : Ty) (d a : Opnd) (i : Imm) : Statement (.sandImm h ty d a i) := by
  intro hw f hf
  injection hf with hf
  simp only [Instr.wf, Bool.and_eq_true] at hw
  obtain ⟨⟨w0, w1⟩, w2⟩ := hw
  obtain ⟨e_op, e_hd, e_tyD, e_opD, e_opA, e_imm, tidy⟩ := shapeYDAI 0x37 rfl w0 w1 w2
  rw [hf] at e_op e_hd e_tyD e_opD e_opA e_imm tidy
  exact ⟨by unfold build buildScalar; rw [e_op]; show (do some (Instr.sandImm f.hd (← f.tyD .i32) f.opD f.opA f.imm)) = _; simp only [e_hd, e_tyD, e_opD, e_opA, e_imm]; rfl, tidy⟩
theorem sorImm (h : Hd) (ty : Ty) (d a : Opnd) (i : Imm) : Statement (.sorImm h ty d a i) := by
  intro hw f hf
  injection hf with hf
  simp only [Instr.wf, Bool.and_eq_true] at hw
  obtain ⟨⟨w0, w1⟩, w2⟩ := hw
  obtain ⟨e_op, e_hd, e_tyD, e_opD, e_opA, e_imm, tidy⟩ := shapeYDAI 0x38 rfl w0 w1 w2
  rw [hf] at e_op e_hd e_tyD e_opD e_opA e_imm tidy
  exact ⟨by unfold build buildScalar; rw [e_op]; show (do some (Instr.sorImm f.hd (← f.tyD .i32) f.opD f.opA f.imm)) = _; simp only [e_hd, e_tyD, e_opD, e_opA, e_imm]; rfl, tidy⟩
theorem sxorImm (h : Hd) (ty : Ty) (d a : Opnd) (i : Imm) : Statement (.sxorImm h ty d a i) := by
  intro hw f hf
  injection hf with hf
  simp only [Instr.wf, Bool.and_eq_true] at hw
  obtain ⟨⟨w0, w1⟩, w2⟩ := hw
  obtain ⟨e_op, e_hd, e_tyD, e_opD, e_opA, e_imm, tidy⟩ := shapeYDAI 0x39 rfl w0 w1 w2
  rw [hf] at e_op e_hd e_tyD e_opD e_opA e_imm tidy
  exact ⟨by unfold build buildScalar; rw [e_op]; show (do some (Instr.sxorImm f.hd (← f.tyD .i32) f.opD f.opA f.imm)) = _; simp only [e_hd, e_tyD, e_opD, e_opA, e_imm]; rfl, tidy⟩
theorem sshlImm (h : Hd) (ty : Ty) (d a : Opnd) (i : Imm) : Statement (.sshlImm h ty d a i) := by
  intro hw f hf
  injection hf with hf
  simp only [Instr.wf, Bool.and_eq_true] at hw
  obtain ⟨⟨⟨w0, w1⟩, w2⟩, w3⟩ := hw
  obtain ⟨e_op, e_hd, e_tyD, e_opD, e_opA, e_imm, tidy⟩ := shapeYDAI 0x3A rfl w0 w1 w2
  rw [hf] at e_op e_hd e_tyD e_opD e_opA e_imm tidy
  exact ⟨by unfold build buildScalar; rw [e_op]; show (do some (Instr.sshlImm f.hd (← f.tyD .i32) f.opD f.opA f.imm)) = _; simp only [e_hd, e_tyD, e_opD, e_opA, e_imm]; rfl, tidy⟩
theorem sshrImm (h : Hd) (ty : Ty) (d a : Opnd) (i : Imm) : Statement (.sshrImm h ty d a i) := by
  intro hw f hf
  injection hf with hf
  simp only [Instr.wf, Bool.and_eq_true] at hw
  obtain ⟨⟨⟨w0, w1⟩, w2⟩, w3⟩ := hw
  obtain ⟨e_op, e_hd, e_tyD, e_opD, e_opA, e_imm, tidy⟩ := shapeYDAI 0x3B rfl w0 w1 w2
  rw [hf] at e_op e_hd e_tyD e_opD e_opA e_imm tidy
  exact ⟨by unfold build buildScalar; rw [e_op]; show (do some (Instr.sshrImm f.hd (← f.tyD .i32) f.opD f.opA f.imm)) = _; simp only [e_hd, e_tyD, e_opD, e_opA, e_imm]; rfl, tidy⟩
theorem spopc (h : Hd) (ty : Ty) (d a : Opnd) : Statement (.spopc h ty d a) := by
  intro hw f hf
  injection hf with hf
  simp only [Instr.wf, Bool.and_eq_true] at hw
  obtain ⟨w0, w1⟩ := hw
  obtain ⟨e_op, e_hd, e_tyM, e_opD, e_opA, tidy⟩ := shapeTDA 0x3C rfl w0 w1
  rw [hf] at e_op e_hd e_tyM e_opD e_opA tidy
  exact ⟨by unfold build buildScalar; rw [e_op]; show (do some (Instr.spopc f.hd (← f.tyM) f.opD f.opA)) = _; simp only [e_hd, e_tyM, e_opD, e_opA]; rfl, tidy⟩
theorem sclz (h : Hd) (ty : Ty) (d a : Opnd) : Statement (.sclz h ty d a) := by
  intro hw f hf
  injection hf with hf
  simp only [Instr.wf, Bool.and_eq_true] at hw
  obtain ⟨w0, w1⟩ := hw
  obtain ⟨e_op, e_hd, e_tyM, e_opD, e_opA, tidy⟩ := shapeTDA 0x3D rfl w0 w1
  rw [hf] at e_op e_hd e_tyM e_opD e_opA tidy
  exact ⟨by unfold build buildScalar; rw [e_op]; show (do some (Instr.sclz f.hd (← f.tyM) f.opD f.opA)) = _; simp only [e_hd, e_tyM, e_opD, e_opA]; rfl, tidy⟩
theorem sbfeImm (h : Hd) (ty : Ty) (d a : Opnd) (i : Imm) : Statement (.sbfeImm h ty d a i) := by
  intro hw f hf
  injection hf with hf
  simp only [Instr.wf, Bool.and_eq_true] at hw
  obtain ⟨⟨⟨w0, w1⟩, w2⟩, w3⟩ := hw
  obtain ⟨e_op, e_hd, e_tyD, e_opD, e_opA, e_imm, tidy⟩ := shapeYDAI 0x3E rfl w0 w1 w2
  rw [hf] at e_op e_hd e_tyD e_opD e_opA e_imm tidy
  exact ⟨by unfold build buildScalar; rw [e_op]; show (do some (Instr.sbfeImm f.hd (← f.tyD .n32) f.opD f.opA f.imm)) = _; simp only [e_hd, e_tyD, e_opD, e_opA, e_imm]; rfl, tidy⟩
theorem vmov (h : Hd) (ty : Ty) (d a : Opnd) : Statement (.vmov h ty d a) := by
  intro hw f hf
  injection hf with hf
  simp only [Instr.wf, Bool.and_eq_true] at hw
  obtain ⟨w0, w1⟩ := hw
  obtain ⟨e_op, e_hd, e_tyM, e_opD, e_opA, tidy⟩ := shapeTDA 0x40 rfl w0 w1
  rw [hf] at e_op e_hd e_tyM e_opD e_opA tidy
  exact ⟨by unfold build buildVecB; rw [e_op]; show (do some (Instr.vmov f.hd (← f.tyM) f.opD f.opA)) = _; simp only [e_hd, e_tyM, e_opD, e_opA]; rfl, tidy⟩
theorem vadd (h : Hd) (ty : Ty) (r : Rnd) (d a : Opnd) (b : SrcB) : Statement (.vadd h ty r d a b) := by
  intro hw f hf
  injection hf with hf
  simp only [Instr.wf, Bool.and_eq_true] at hw
  obtain ⟨⟨⟨w0, w1⟩, w2⟩, w3⟩ := hw
  obtain ⟨e_op, e_hd, e_tyM, e_rnd, e_opD, e_opA, e_src, tidy⟩ := shapeTRDAB 0x41 rfl w0 w1 (srcFits_of_src w2) w3
  rw [hf] at e_op e_hd e_tyM e_rnd e_opD e_opA e_src tidy
  exact ⟨by unfold build buildVecB; rw [e_op]; show (do some (Instr.vadd f.hd (← f.tyM) (← rndOf f.rnd) f.opD f.opA f.src)) = _; simp only [e_hd, e_tyM, e_rnd, e_opD, e_opA, e_src]; rfl, tidy⟩
theorem vsub (h : Hd) (ty : Ty) (r : Rnd) (d a : Opnd) (b : SrcB) : Statement (.vsub h ty r d a b) := by
  intro hw f hf
  injection hf with hf
  simp only [Instr.wf, Bool.and_eq_true] at hw
  obtain ⟨⟨⟨w0, w1⟩, w2⟩, w3⟩ := hw
  obtain ⟨e_op, e_hd, e_tyM, e_rnd, e_opD, e_opA, e_src, tidy⟩ := shapeTRDAB 0x42 rfl w0 w1 (srcFits_of_src w2) w3
  rw [hf] at e_op e_hd e_tyM e_rnd e_opD e_opA e_src tidy
  exact ⟨by unfold build buildVecB; rw [e_op]; show (do some (Instr.vsub f.hd (← f.tyM) (← rndOf f.rnd) f.opD f.opA f.src)) = _; simp only [e_hd, e_tyM, e_rnd, e_opD, e_opA, e_src]; rfl, tidy⟩
theorem vmul (h : Hd) (ty : Ty) (r : Rnd) (d a : Opnd) (b : SrcB) : Statement (.vmul h ty r d a b) := by
  intro hw f hf
  injection hf with hf
  simp only [Instr.wf, Bool.and_eq_true] at hw
  obtain ⟨⟨⟨w0, w1⟩, w2⟩, w3⟩ := hw
  obtain ⟨e_op, e_hd, e_tyM, e_rnd, e_opD, e_opA, e_src, tidy⟩ := shapeTRDAB 0x43 rfl w0 w1 (srcFits_of_src w2) w3
  rw [hf] at e_op e_hd e_tyM e_rnd e_opD e_opA e_src tidy
  exact ⟨by unfold build buildVecB; rw [e_op]; show (do some (Instr.vmul f.hd (← f.tyM) (← rndOf f.rnd) f.opD f.opA f.src)) = _; simp only [e_hd, e_tyM, e_rnd, e_opD, e_opA, e_src]; rfl, tidy⟩
theorem vmad (h : Hd) (ty : Ty) (r : Rnd) (d a : Opnd) (b : SrcB) (c : Opnd) : Statement (.vmad h ty r d a b c) := by
  intro hw f hf
  obtain ⟨bnd, len, ixs⟩ := h
  obtain ⟨dn, di⟩ := d
  obtain ⟨an, ai⟩ := a
  obtain ⟨cn, ci⟩ := c
  injection hf with hf
  rcases b with ⟨bn, bi⟩ | v | v <;> cases len <;> simp [Instr.wf, hdOk, tyMOk, srcRegOk, SrcB.ind] at hw <;> (
    have e_op : f.op = 0x44 := by subst hf; rfl
    refine ⟨?_, ?_⟩
    · unfold build buildVecB; rw [e_op]; show (do some (Instr.vmad f.hd (← f.tyM) (← rndOf f.rnd) f.opD f.opA f.src f.opC)) = _; subst hf
      simp [fields, Fields.hd, Fields.tyM, Fields.rnd, Fields.opD, Fields.opA, Fields.src, Fields.opB, Fields.opC, mTy_tyM, rnd_code, rnd_opf, hw]
    · unfold Tidy; rw [e_op, show isE (0x44 : BitVec 8) = false from rfl]; subst hf
      simp [fields, hw])
theorem vdiv (h : Hd) (ty : Ty) (r : Rnd) (d a : Opnd) (b : SrcB) : Statement (.vdiv h ty r d a b) := by
  intro hw f hf
  injection hf with hf
  simp only [Instr.wf, Bool.and_eq_true] at hw
  obtain ⟨⟨⟨w0, w1⟩, w2⟩, w3⟩ := hw
  obtain ⟨e_op, e_hd, e_tyM, e_rnd, e_opD, e_opA, e_src, tidy⟩ := shapeTRDAB 0x45 rfl w0 w1 (srcFits_of_src w2) w3
  rw [hf] at e_op e_hd e_tyM e_rnd e_opD e_opA e_src tidy
  exact ⟨by unfold build buildVecB; rw [e_op]; show (do some (Instr.vdiv f.hd (← f.tyM) (← rndOf f.rnd) f.opD f.opA f.src)) = _; simp only [e_hd, e_tyM, e_rnd, e_opD, e_opA, e_src]; rfl, tidy⟩
theorem vmin (h : Hd) (ty : Ty) (d a : Opnd) (b : SrcB) : Statement (.vmin h ty d a b) := by
  intro hw f hf
  injection hf with hf
  simp only [Instr.wf, Bool.and_eq_true] at hw
  obtain ⟨⟨w0, w1⟩, w2⟩ := hw
  obtain ⟨e_op, e_hd, e_tyM, e_opD, e_opA, e_src, tidy⟩ := shapeTDAB 0x46 rfl w0 w1 (srcFits_of_src w2)
  rw [hf] at e_op e_hd e_tyM e_opD e_opA e_src tidy
  exact ⟨by unfold build buildVecB; rw [e_op]; show (do some (Instr.vmin f.hd (← f.tyM) f.opD f.opA f.src)) = _; simp only [e_hd, e_tyM, e_opD, e_opA, e_src]; rfl, tidy⟩
theorem vmax (h : Hd) (ty : Ty) (d a : Opnd) (b : SrcB) : Statement (.vmax h ty d a b) := by
  intro hw f hf
  injection hf with hf
  simp only [Instr.wf, Bool.and_eq_true] at hw
  obtain ⟨⟨w0, w1⟩, w2⟩ := hw
  obtain ⟨e_op, e_hd, e_tyM, e_opD, e_opA, e_src, tidy⟩ := shapeTDAB 0x47 rfl w0 w1 (srcFits_of_src w2)
  rw [hf] at e_op e_hd e_tyM e_opD e_opA e_src tidy
  exact ⟨by unfold build buildVecB; rw [e_op]; show (do some (Instr.vmax f.hd (← f.tyM) f.opD f.opA f.src)) = _; simp only [e_hd, e_tyM, e_opD, e_opA, e_src]; rfl, tidy⟩
theorem vand (h : Hd) (ty : Ty) (d a : Opnd) (b : SrcB) : Statement (.vand h ty d a b) := by
  intro hw f hf
  injection hf with hf
  simp only [Instr.wf, Bool.and_eq_true] at hw
  obtain ⟨⟨w0, w1⟩, w2⟩ := hw
  obtain ⟨e_op, e_hd, e_tyM, e_opD, e_opA, e_src, tidy⟩ := shapeTDAB 0x48 rfl w0 w1 (srcFits_of_src w2)
  rw [hf] at e_op e_hd e_tyM e_opD e_opA e_src tidy
  exact ⟨by unfold build buildVecB; rw [e_op]; show (do some (Instr.vand f.hd (← f.tyM) f.opD f.opA f.src)) = _; simp only [e_hd, e_tyM, e_opD, e_opA, e_src]; rfl, tidy⟩
theorem vor (h : Hd) (ty : Ty) (d a : Opnd) (b : SrcB) : Statement (.vor h ty d a b) := by
  intro hw f hf
  injection hf with hf
  simp only [Instr.wf, Bool.and_eq_true] at hw
  obtain ⟨⟨w0, w1⟩, w2⟩ := hw
  obtain ⟨e_op, e_hd, e_tyM, e_opD, e_opA, e_src, tidy⟩ := shapeTDAB 0x49 rfl w0 w1 (srcFits_of_src w2)
  rw [hf] at e_op e_hd e_tyM e_opD e_opA e_src tidy
  exact ⟨by unfold build buildVecB; rw [e_op]; show (do some (Instr.vor f.hd (← f.tyM) f.opD f.opA f.src)) = _; simp only [e_hd, e_tyM, e_opD, e_opA, e_src]; rfl, tidy⟩
theorem vxor (h : Hd) (ty : Ty) (d a : Opnd) (b : SrcB) : Statement (.vxor h ty d a b) := by
  intro hw f hf
  injection hf with hf
  simp only [Instr.wf, Bool.and_eq_true] at hw
  obtain ⟨⟨w0, w1⟩, w2⟩ := hw
  obtain ⟨e_op, e_hd, e_tyM, e_opD, e_opA, e_src, tidy⟩ := shapeTDAB 0x4A rfl w0 w1 (srcFits_of_src w2)
  rw [hf] at e_op e_hd e_tyM e_opD e_opA e_src tidy
  exact ⟨by unfold build buildVecB; rw [e_op]; show (do some (Instr.vxor f.hd (← f.tyM) f.opD f.opA f.src)) = _; simp only [e_hd, e_tyM, e_opD, e_opA, e_src]; rfl, tidy⟩
theorem vshl (h : Hd) (ty : Ty) (d a : Opnd) (b : SrcB) : Statement (.vshl h ty d a b) := by
  intro hw f hf
  injection hf with hf
  simp only [Instr.wf, Bool.and_eq_true] at hw
  obtain ⟨⟨w0, w1⟩, w2⟩ := hw
  obtain ⟨e_op, e_hd, e_tyM, e_opD, e_opA, e_src, tidy⟩ := shapeTDAB 0x4B rfl w0 w1 (srcFits_of_src w2)
  rw [hf] at e_op e_hd e_tyM e_opD e_opA e_src tidy
  exact ⟨by unfold build buildVecB; rw [e_op]; show (do some (Instr.vshl f.hd (← f.tyM) f.opD f.opA f.src)) = _; simp only [e_hd, e_tyM, e_opD, e_opA, e_src]; rfl, tidy⟩
theorem vshr (h : Hd) (ty : Ty) (d a : Opnd) (b : SrcB) : Statement (.vshr h ty d a b) := by
  intro hw f hf
  injection hf with hf
  simp only [Instr.wf, Bool.and_eq_true] at hw
  obtain ⟨⟨w0, w1⟩, w2⟩ := hw
  obtain ⟨e_op, e_hd, e_tyM, e_opD, e_opA, e_src, tidy⟩ := shapeTDAB 0x4C rfl w0 w1 (srcFits_of_src w2)
  rw [hf] at e_op e_hd e_tyM e_opD e_opA e_src tidy
  exact ⟨by unfold build buildVecB; rw [e_op]; show (do some (Instr.vshr f.hd (← f.tyM) f.opD f.opA f.src)) = _; simp only [e_hd, e_tyM, e_opD, e_opA, e_src]; rfl, tidy⟩
theorem vbfe (h : Hd) (ty : Ty) (d a : Opnd) (b : SrcB) : Statement (.vbfe h ty d a b) := by
  intro hw f hf
  injection hf with hf
  simp only [Instr.wf, Bool.and_eq_true] at hw
  obtain ⟨⟨w0, w1⟩, w2⟩ := hw
  obtain ⟨e_op, e_hd, e_tyM, e_opD, e_opA, e_src, tidy⟩ := shapeTDAB 0x4D rfl w0 w1 (srcFits_of_src w2)
  rw [hf] at e_op e_hd e_tyM e_opD e_opA e_src tidy
  exact ⟨by unfold build buildVecB; rw [e_op]; show (do some (Instr.vbfe f.hd (← f.tyM) f.opD f.opA f.src)) = _; simp only [e_hd, e_tyM, e_opD, e_opA, e_src]; rfl, tidy⟩
theorem vbfi (h : Hd) (ty : Ty) (d a : Opnd) (b : SrcB) (c : Opnd) : Statement (.vbfi h ty d a b c) := by
  intro hw f hf
  injection hf with hf
  simp only [Instr.wf, Bool.and_eq_true] at hw
  obtain ⟨⟨w0, w1⟩, w2⟩ := hw
  obtain ⟨e_op, e_hd, e_tyM, e_opD, e_opA, e_src, e_opC, tidy⟩ := shapeTDABC 0x4E rfl w0 w1 (srcFits_of_reg w0 w2)
  rw [hf] at e_op e_hd e_tyM e_opD e_opA e_src e_opC tidy
  exact ⟨by unfold build buildVecB; rw [e_op]; show (do some (Instr.vbfi f.hd (← f.tyM) f.opD f.opA f.src f.opC)) = _; simp only [e_hd, e_tyM, e_opD, e_opA, e_src, e_opC]; rfl, tidy⟩
theorem vsel (h : Hd) (ty : Ty) (d a : Opnd) (b : SrcB) (c : Opnd) : Statement (.vsel h ty d a b c) := by
  intro hw f hf
  injection hf with hf
  simp only [Instr.wf, Bool.and_eq_true] at hw
  obtain ⟨⟨w0, w1⟩, w2⟩ := hw
  obtain ⟨e_op, e_hd, e_tyM, e_opD, e_opA, e_src, e_opC, tidy⟩ := shapeTDABC 0x4F rfl w0 w1 (srcFits_of_reg w0 w2)
  rw [hf] at e_op e_hd e_tyM e_opD e_opA e_src e_opC tidy
  exact ⟨by unfold build buildVecB; rw [e_op]; show (do some (Instr.vsel f.hd (← f.tyM) f.opD f.opA f.src f.opC)) = _; simp only [e_hd, e_tyM, e_opD, e_opA, e_src, e_opC]; rfl, tidy⟩
theorem vcmp (h : Hd) (c : CmpOp) (ty : Ty) (d a : Opnd) (b : SrcB) : Statement (.vcmp h c ty d a b) := by
  intro hw f hf
  obtain ⟨bnd, len, ixs⟩ := h
  obtain ⟨dn, di⟩ := d
  obtain ⟨an, ai⟩ := a
  injection hf with hf
  rcases b with ⟨bn, bi⟩ | v | v <;> cases len <;> simp [Instr.wf, hdOk, tyDOk, srcOk, SrcB.ind] at hw <;> (
    have e_op : f.op = 0x50 := by subst hf; rfl
    refine ⟨?_, ?_⟩
    · unfold build buildVecB; rw [e_op]; show (do some (Instr.vcmp f.hd (cmpOf f.m) (← f.tyD .f32) f.opD f.opA f.src)) = _; subst hf
      simp [fields, Fields.hd, Fields.tyD, Fields.opD, Fields.opA, Fields.src, Fields.opB, hw]
    · unfold Tidy; rw [e_op, show isE (0x50 : BitVec 8) = false from rfl]; subst hf
      simp [fields, hw] <;> (try grind))
theorem vabs (h : Hd) (ty : Ty) (d a : Opnd) : Statement (.vabs h ty d a) := by
  intro hw f hf
  injection hf with hf
  simp only [Instr.wf, Bool.and_eq_true] at hw
  obtain ⟨w0, w1⟩ := hw
  obtain ⟨e_op, e_hd, e_tyM, e_opD, e_opA, tidy⟩ := shapeTDA 0x51 rfl w0 w1
  rw [hf] at e_op e_hd e_tyM e_opD e_opA tidy
  exact ⟨by unfold build buildVecB; rw [e_op]; show (do some (Instr.vabs f.hd (← f.tyM) f.opD f.opA)) = _; simp only [e_hd, e_tyM, e_opD, e_opA]; rfl, tidy⟩
theorem vneg (h : Hd) (ty : Ty) (d a : Opnd) : Statement (.vneg h ty d a) := by
  intro hw f hf
  injection hf with hf
  simp only [Instr.wf, Bool.and_eq_true] at hw
  obtain ⟨w0, w1⟩ := hw
  obtain ⟨e_op, e_hd, e_tyM, e_opD, e_opA, tidy⟩ := shapeTDA 0x52 rfl w0 w1
  rw [hf] at e_op e_hd e_tyM e_opD e_opA tidy
  exact ⟨by unfold build buildVecB; rw [e_op]; show (do some (Instr.vneg f.hd (← f.tyM) f.opD f.opA)) = _; simp only [e_hd, e_tyM, e_opD, e_opA]; rfl, tidy⟩
theorem vpopc (h : Hd) (ty : Ty) (d a : Opnd) : Statement (.vpopc h ty d a) := by
  intro hw f hf
  injection hf with hf
  simp only [Instr.wf, Bool.and_eq_true] at hw
  obtain ⟨w0, w1⟩ := hw
  obtain ⟨e_op, e_hd, e_tyM, e_opD, e_opA, tidy⟩ := shapeTDA 0x53 rfl w0 w1
  rw [hf] at e_op e_hd e_tyM e_opD e_opA tidy
  exact ⟨by unfold build buildVecB; rw [e_op]; show (do some (Instr.vpopc f.hd (← f.tyM) f.opD f.opA)) = _; simp only [e_hd, e_tyM, e_opD, e_opA]; rfl, tidy⟩
theorem vclz (h : Hd) (ty : Ty) (d a : Opnd) : Statement (.vclz h ty d a) := by
  intro hw f hf
  injection hf with hf
  simp only [Instr.wf, Bool.and_eq_true] at hw
  obtain ⟨w0, w1⟩ := hw
  obtain ⟨e_op, e_hd, e_tyM, e_opD, e_opA, tidy⟩ := shapeTDA 0x54 rfl w0 w1
  rw [hf] at e_op e_hd e_tyM e_opD e_opA tidy
  exact ⟨by unfold build buildVecB; rw [e_op]; show (do some (Instr.vclz f.hd (← f.tyM) f.opD f.opA)) = _; simp only [e_hd, e_tyM, e_opD, e_opA]; rfl, tidy⟩
theorem vclass (h : Hd) (ty : Ty) (d a : Opnd) : Statement (.vclass h ty d a) := by
  intro hw f hf
  injection hf with hf
  simp only [Instr.wf, Bool.and_eq_true] at hw
  obtain ⟨w0, w1⟩ := hw
  obtain ⟨e_op, e_hd, e_tyM, e_opD, e_opA, tidy⟩ := shapeTDA 0x55 rfl w0 w1
  rw [hf] at e_op e_hd e_tyM e_opD e_opA tidy
  exact ⟨by unfold build buildVecB; rw [e_op]; show (do some (Instr.vclass f.hd (← f.tyM) f.opD f.opA)) = _; simp only [e_hd, e_tyM, e_opD, e_opA]; rfl, tidy⟩
theorem vcvt (h : Hd) (ty src : Ty) (r : Rnd) (sat : Bool) (d a b : Opnd) : Statement (.vcvt h ty src r sat d a b) := by
  intro hw f hf
  obtain ⟨bnd, len, ixs⟩ := h
  obtain ⟨dn, di⟩ := d
  obtain ⟨an, ai⟩ := a
  obtain ⟨bn, bi⟩ := b
  injection hf with hf
  cases len <;> simp [Instr.wf, hdOk] at hw <;> (
    have e_op : f.op = 0x56 := by subst hf; rfl
    refine ⟨?_, ?_⟩
    · unfold build buildVecB; rw [e_op]; show (do some (Instr.vcvt f.hd (← tyOf f.ty) (← tyOf f.c) (← rndOf f.rnd) (f.opfBit 3) f.opD f.opA f.opB)) = _; subst hf
      simp [fields, Fields.hd, Fields.rnd, Fields.opfBit, Fields.opD, Fields.opA, Fields.opB, rnd_code, rnd_opf, hw] <;> (try grind)
    · unfold Tidy; rw [e_op, show isE (0x56 : BitVec 8) = false from rfl]; subst hf
      simp [fields, hw])
theorem vrcp (h : Hd) (ty : Ty) (r : Rnd) (d a : Opnd) : Statement (.vrcp h ty r d a) := by
  intro hw f hf
  injection hf with hf
  simp only [Instr.wf, Bool.and_eq_true] at hw
  obtain ⟨⟨w0, w1⟩, w2⟩ := hw
  obtain ⟨e_op, e_hd, e_tyM, e_rnd, e_opD, e_opA, tidy⟩ := shapeTRDA 0x57 rfl w0 w1 w2
  rw [hf] at e_op e_hd e_tyM e_rnd e_opD e_opA tidy
  exact ⟨by unfold build buildVecB; rw [e_op]; show (do some (Instr.vrcp f.hd (← f.tyM) (← rndOf f.rnd) f.opD f.opA)) = _; simp only [e_hd, e_tyM, e_rnd, e_opD, e_opA]; rfl, tidy⟩
theorem vrsq (h : Hd) (ty : Ty) (r : Rnd) (d a : Opnd) : Statement (.vrsq h ty r d a) := by
  intro hw f hf
  injection hf with hf
  simp only [Instr.wf, Bool.and_eq_true] at hw
  obtain ⟨⟨w0, w1⟩, w2⟩ := hw
  obtain ⟨e_op, e_hd, e_tyM, e_rnd, e_opD, e_opA, tidy⟩ := shapeTRDA 0x58 rfl w0 w1 w2
  rw [hf] at e_op e_hd e_tyM e_rnd e_opD e_opA tidy
  exact ⟨by unfold build buildVecB; rw [e_op]; show (do some (Instr.vrsq f.hd (← f.tyM) (← rndOf f.rnd) f.opD f.opA)) = _; simp only [e_hd, e_tyM, e_rnd, e_opD, e_opA]; rfl, tidy⟩
theorem vsqrt (h : Hd) (ty : Ty) (r : Rnd) (d a : Opnd) : Statement (.vsqrt h ty r d a) := by
  intro hw f hf
  injection hf with hf
  simp only [Instr.wf, Bool.and_eq_true] at hw
  obtain ⟨⟨w0, w1⟩, w2⟩ := hw
  obtain ⟨e_op, e_hd, e_tyM, e_rnd, e_opD, e_opA, tidy⟩ := shapeTRDA 0x59 rfl w0 w1 w2
  rw [hf] at e_op e_hd e_tyM e_rnd e_opD e_opA tidy
  exact ⟨by unfold build buildVecB; rw [e_op]; show (do some (Instr.vsqrt f.hd (← f.tyM) (← rndOf f.rnd) f.opD f.opA)) = _; simp only [e_hd, e_tyM, e_rnd, e_opD, e_opA]; rfl, tidy⟩
theorem vexp2 (h : Hd) (ty : Ty) (r : Rnd) (d a : Opnd) : Statement (.vexp2 h ty r d a) := by
  intro hw f hf
  injection hf with hf
  simp only [Instr.wf, Bool.and_eq_true] at hw
  obtain ⟨⟨w0, w1⟩, w2⟩ := hw
  obtain ⟨e_op, e_hd, e_tyM, e_rnd, e_opD, e_opA, tidy⟩ := shapeTRDA 0x5A rfl w0 w1 w2
  rw [hf] at e_op e_hd e_tyM e_rnd e_opD e_opA tidy
  exact ⟨by unfold build buildVecB; rw [e_op]; show (do some (Instr.vexp2 f.hd (← f.tyM) (← rndOf f.rnd) f.opD f.opA)) = _; simp only [e_hd, e_tyM, e_rnd, e_opD, e_opA]; rfl, tidy⟩
theorem vlog2 (h : Hd) (ty : Ty) (r : Rnd) (d a : Opnd) : Statement (.vlog2 h ty r d a) := by
  intro hw f hf
  injection hf with hf
  simp only [Instr.wf, Bool.and_eq_true] at hw
  obtain ⟨⟨w0, w1⟩, w2⟩ := hw
  obtain ⟨e_op, e_hd, e_tyM, e_rnd, e_opD, e_opA, tidy⟩ := shapeTRDA 0x5B rfl w0 w1 w2
  rw [hf] at e_op e_hd e_tyM e_rnd e_opD e_opA tidy
  exact ⟨by unfold build buildVecB; rw [e_op]; show (do some (Instr.vlog2 f.hd (← f.tyM) (← rndOf f.rnd) f.opD f.opA)) = _; simp only [e_hd, e_tyM, e_rnd, e_opD, e_opA]; rfl, tidy⟩
theorem vsin (h : Hd) (ty : Ty) (r : Rnd) (d a : Opnd) : Statement (.vsin h ty r d a) := by
  intro hw f hf
  injection hf with hf
  simp only [Instr.wf, Bool.and_eq_true] at hw
  obtain ⟨⟨w0, w1⟩, w2⟩ := hw
  obtain ⟨e_op, e_hd, e_tyM, e_rnd, e_opD, e_opA, tidy⟩ := shapeTRDA 0x5C rfl w0 w1 w2
  rw [hf] at e_op e_hd e_tyM e_rnd e_opD e_opA tidy
  exact ⟨by unfold build buildVecB; rw [e_op]; show (do some (Instr.vsin f.hd (← f.tyM) (← rndOf f.rnd) f.opD f.opA)) = _; simp only [e_hd, e_tyM, e_rnd, e_opD, e_opA]; rfl, tidy⟩
theorem vcos (h : Hd) (ty : Ty) (r : Rnd) (d a : Opnd) : Statement (.vcos h ty r d a) := by
  intro hw f hf
  injection hf with hf
  simp only [Instr.wf, Bool.and_eq_true] at hw
  obtain ⟨⟨w0, w1⟩, w2⟩ := hw
  obtain ⟨e_op, e_hd, e_tyM, e_rnd, e_opD, e_opA, tidy⟩ := shapeTRDA 0x5D rfl w0 w1 w2
  rw [hf] at e_op e_hd e_tyM e_rnd e_opD e_opA tidy
  exact ⟨by unfold build buildVecB; rw [e_op]; show (do some (Instr.vcos f.hd (← f.tyM) (← rndOf f.rnd) f.opD f.opA)) = _; simp only [e_hd, e_tyM, e_rnd, e_opD, e_opA]; rfl, tidy⟩
theorem vrnd (h : Hd) (d a : Opnd) : Statement (.vrnd h d a) := by
  intro hw f hf
  obtain ⟨bnd, len, ixs⟩ := h
  obtain ⟨dn, di⟩ := d
  obtain ⟨an, ai⟩ := a
  injection hf with hf
  cases len <;> simp [Instr.wf, hdOk] at hw <;> (
    have e_op : f.op = 0x5E := by subst hf; rfl
    refine ⟨?_, ?_⟩
    · unfold build buildVecB; rw [e_op]; show (do some (Instr.vrnd f.hd f.opD f.opA)) = _; subst hf
      simp [fields, Fields.hd, Fields.opD, Fields.opA, rnd_code, rnd_opf, hw]
    · unfold Tidy; rw [e_op, show isE (0x5E : BitVec 8) = false from rfl]; subst hf
      simp [fields, hw] <;> (try grind))
theorem vmovSb (h : Hd) (ty : Ty) (d a : Opnd) : Statement (.vmovSb h ty d a) := by
  intro hw f hf
  injection hf with hf
  simp only [Instr.wf, Bool.and_eq_true] at hw
  obtain ⟨w0, w1⟩ := hw
  obtain ⟨e_op, e_hd, e_tyM, e_opD, e_opA, tidy⟩ := shapeTDA 0x60 rfl w0 w1
  rw [hf] at e_op e_hd e_tyM e_opD e_opA tidy
  exact ⟨by unfold build buildVecS; rw [e_op]; show (do some (Instr.vmovSb f.hd (← f.tyM) f.opD f.opA)) = _; simp only [e_hd, e_tyM, e_opD, e_opA]; rfl, tidy⟩
theorem vaddSb (h : Hd) (ty : Ty) (r : Rnd) (d a : Opnd) (b : SrcB) : Statement (.vaddSb h ty r d a b) := by
  intro hw f hf
  injection hf with hf
  simp only [Instr.wf, Bool.and_eq_true] at hw
  obtain ⟨⟨⟨w0, w1⟩, w2⟩, w3⟩ := hw
  obtain ⟨e_op, e_hd, e_tyM, e_rnd, e_opD, e_opA, e_src, tidy⟩ := shapeTRDAB 0x61 rfl w0 w1 (srcFits_of_reg w0 w2) w3
  rw [hf] at e_op e_hd e_tyM e_rnd e_opD e_opA e_src tidy
  exact ⟨by unfold build buildVecS; rw [e_op]; show (do some (Instr.vaddSb f.hd (← f.tyM) (← rndOf f.rnd) f.opD f.opA f.src)) = _; simp only [e_hd, e_tyM, e_rnd, e_opD, e_opA, e_src]; rfl, tidy⟩
theorem vsubSb (h : Hd) (ty : Ty) (r : Rnd) (d a : Opnd) (b : SrcB) : Statement (.vsubSb h ty r d a b) := by
  intro hw f hf
  injection hf with hf
  simp only [Instr.wf, Bool.and_eq_true] at hw
  obtain ⟨⟨⟨w0, w1⟩, w2⟩, w3⟩ := hw
  obtain ⟨e_op, e_hd, e_tyM, e_rnd, e_opD, e_opA, e_src, tidy⟩ := shapeTRDAB 0x62 rfl w0 w1 (srcFits_of_reg w0 w2) w3
  rw [hf] at e_op e_hd e_tyM e_rnd e_opD e_opA e_src tidy
  exact ⟨by unfold build buildVecS; rw [e_op]; show (do some (Instr.vsubSb f.hd (← f.tyM) (← rndOf f.rnd) f.opD f.opA f.src)) = _; simp only [e_hd, e_tyM, e_rnd, e_opD, e_opA, e_src]; rfl, tidy⟩
theorem vmulSb (h : Hd) (ty : Ty) (r : Rnd) (d a : Opnd) (b : SrcB) : Statement (.vmulSb h ty r d a b) := by
  intro hw f hf
  injection hf with hf
  simp only [Instr.wf, Bool.and_eq_true] at hw
  obtain ⟨⟨⟨w0, w1⟩, w2⟩, w3⟩ := hw
  obtain ⟨e_op, e_hd, e_tyM, e_rnd, e_opD, e_opA, e_src, tidy⟩ := shapeTRDAB 0x63 rfl w0 w1 (srcFits_of_reg w0 w2) w3
  rw [hf] at e_op e_hd e_tyM e_rnd e_opD e_opA e_src tidy
  exact ⟨by unfold build buildVecS; rw [e_op]; show (do some (Instr.vmulSb f.hd (← f.tyM) (← rndOf f.rnd) f.opD f.opA f.src)) = _; simp only [e_hd, e_tyM, e_rnd, e_opD, e_opA, e_src]; rfl, tidy⟩
theorem vmadSb (h : Hd) (ty : Ty) (r : Rnd) (d a : Opnd) (b : SrcB) (c : Opnd) : Statement (.vmadSb h ty r d a b c) := by
  intro hw f hf
  obtain ⟨bnd, len, ixs⟩ := h
  obtain ⟨dn, di⟩ := d
  obtain ⟨an, ai⟩ := a
  obtain ⟨cn, ci⟩ := c
  injection hf with hf
  rcases b with ⟨bn, bi⟩ | v | v <;> cases len <;> simp [Instr.wf, hdOk, tyMOk, srcRegOk, SrcB.ind] at hw <;> (
    have e_op : f.op = 0x64 := by subst hf; rfl
    refine ⟨?_, ?_⟩
    · unfold build buildVecS; rw [e_op]; show (do some (Instr.vmadSb f.hd (← f.tyM) (← rndOf f.rnd) f.opD f.opA f.src f.opC)) = _; subst hf
      simp [fields, Fields.hd, Fields.tyM, Fields.rnd, Fields.opD, Fields.opA, Fields.src, Fields.opB, Fields.opC, mTy_tyM, rnd_code, rnd_opf, hw]
    · unfold Tidy; rw [e_op, show isE (0x64 : BitVec 8) = false from rfl]; subst hf
      simp [fields, hw])
theorem vdivSb (h : Hd) (ty : Ty) (r : Rnd) (d a : Opnd) (b : SrcB) : Statement (.vdivSb h ty r d a b) := by
  intro hw f hf
  injection hf with hf
  simp only [Instr.wf, Bool.and_eq_true] at hw
  obtain ⟨⟨⟨w0, w1⟩, w2⟩, w3⟩ := hw
  obtain ⟨e_op, e_hd, e_tyM, e_rnd, e_opD, e_opA, e_src, tidy⟩ := shapeTRDAB 0x65 rfl w0 w1 (srcFits_of_reg w0 w2) w3
  rw [hf] at e_op e_hd e_tyM e_rnd e_opD e_opA e_src tidy
  exact ⟨by unfold build buildVecS; rw [e_op]; show (do some (Instr.vdivSb f.hd (← f.tyM) (← rndOf f.rnd) f.opD f.opA f.src)) = _; simp only [e_hd, e_tyM, e_rnd, e_opD, e_opA, e_src]; rfl, tidy⟩
theorem vminSb (h : Hd) (ty : Ty) (d a : Opnd) (b : SrcB) : Statement (.vminSb h ty d a b) := by
  intro hw f hf
  injection hf with hf
  simp only [Instr.wf, Bool.and_eq_true] at hw
  obtain ⟨⟨w0, w1⟩, w2⟩ := hw
  obtain ⟨e_op, e_hd, e_tyM, e_opD, e_opA, e_src, tidy⟩ := shapeTDAB 0x66 rfl w0 w1 (srcFits_of_reg w0 w2)
  rw [hf] at e_op e_hd e_tyM e_opD e_opA e_src tidy
  exact ⟨by unfold build buildVecS; rw [e_op]; show (do some (Instr.vminSb f.hd (← f.tyM) f.opD f.opA f.src)) = _; simp only [e_hd, e_tyM, e_opD, e_opA, e_src]; rfl, tidy⟩
theorem vmaxSb (h : Hd) (ty : Ty) (d a : Opnd) (b : SrcB) : Statement (.vmaxSb h ty d a b) := by
  intro hw f hf
  injection hf with hf
  simp only [Instr.wf, Bool.and_eq_true] at hw
  obtain ⟨⟨w0, w1⟩, w2⟩ := hw
  obtain ⟨e_op, e_hd, e_tyM, e_opD, e_opA, e_src, tidy⟩ := shapeTDAB 0x67 rfl w0 w1 (srcFits_of_reg w0 w2)
  rw [hf] at e_op e_hd e_tyM e_opD e_opA e_src tidy
  exact ⟨by unfold build buildVecS; rw [e_op]; show (do some (Instr.vmaxSb f.hd (← f.tyM) f.opD f.opA f.src)) = _; simp only [e_hd, e_tyM, e_opD, e_opA, e_src]; rfl, tidy⟩
theorem vandSb (h : Hd) (ty : Ty) (d a : Opnd) (b : SrcB) : Statement (.vandSb h ty d a b) := by
  intro hw f hf
  injection hf with hf
  simp only [Instr.wf, Bool.and_eq_true] at hw
  obtain ⟨⟨w0, w1⟩, w2⟩ := hw
  obtain ⟨e_op, e_hd, e_tyM, e_opD, e_opA, e_src, tidy⟩ := shapeTDAB 0x68 rfl w0 w1 (srcFits_of_reg w0 w2)
  rw [hf] at e_op e_hd e_tyM e_opD e_opA e_src tidy
  exact ⟨by unfold build buildVecS; rw [e_op]; show (do some (Instr.vandSb f.hd (← f.tyM) f.opD f.opA f.src)) = _; simp only [e_hd, e_tyM, e_opD, e_opA, e_src]; rfl, tidy⟩
theorem vorSb (h : Hd) (ty : Ty) (d a : Opnd) (b : SrcB) : Statement (.vorSb h ty d a b) := by
  intro hw f hf
  injection hf with hf
  simp only [Instr.wf, Bool.and_eq_true] at hw
  obtain ⟨⟨w0, w1⟩, w2⟩ := hw
  obtain ⟨e_op, e_hd, e_tyM, e_opD, e_opA, e_src, tidy⟩ := shapeTDAB 0x69 rfl w0 w1 (srcFits_of_reg w0 w2)
  rw [hf] at e_op e_hd e_tyM e_opD e_opA e_src tidy
  exact ⟨by unfold build buildVecS; rw [e_op]; show (do some (Instr.vorSb f.hd (← f.tyM) f.opD f.opA f.src)) = _; simp only [e_hd, e_tyM, e_opD, e_opA, e_src]; rfl, tidy⟩
theorem vxorSb (h : Hd) (ty : Ty) (d a : Opnd) (b : SrcB) : Statement (.vxorSb h ty d a b) := by
  intro hw f hf
  injection hf with hf
  simp only [Instr.wf, Bool.and_eq_true] at hw
  obtain ⟨⟨w0, w1⟩, w2⟩ := hw
  obtain ⟨e_op, e_hd, e_tyM, e_opD, e_opA, e_src, tidy⟩ := shapeTDAB 0x6A rfl w0 w1 (srcFits_of_reg w0 w2)
  rw [hf] at e_op e_hd e_tyM e_opD e_opA e_src tidy
  exact ⟨by unfold build buildVecS; rw [e_op]; show (do some (Instr.vxorSb f.hd (← f.tyM) f.opD f.opA f.src)) = _; simp only [e_hd, e_tyM, e_opD, e_opA, e_src]; rfl, tidy⟩
theorem vshlSb (h : Hd) (ty : Ty) (d a : Opnd) (b : SrcB) : Statement (.vshlSb h ty d a b) := by
  intro hw f hf
  injection hf with hf
  simp only [Instr.wf, Bool.and_eq_true] at hw
  obtain ⟨⟨w0, w1⟩, w2⟩ := hw
  obtain ⟨e_op, e_hd, e_tyM, e_opD, e_opA, e_src, tidy⟩ := shapeTDAB 0x6B rfl w0 w1 (srcFits_of_reg w0 w2)
  rw [hf] at e_op e_hd e_tyM e_opD e_opA e_src tidy
  exact ⟨by unfold build buildVecS; rw [e_op]; show (do some (Instr.vshlSb f.hd (← f.tyM) f.opD f.opA f.src)) = _; simp only [e_hd, e_tyM, e_opD, e_opA, e_src]; rfl, tidy⟩
theorem vshrSb (h : Hd) (ty : Ty) (d a : Opnd) (b : SrcB) : Statement (.vshrSb h ty d a b) := by
  intro hw f hf
  injection hf with hf
  simp only [Instr.wf, Bool.and_eq_true] at hw
  obtain ⟨⟨w0, w1⟩, w2⟩ := hw
  obtain ⟨e_op, e_hd, e_tyM, e_opD, e_opA, e_src, tidy⟩ := shapeTDAB 0x6C rfl w0 w1 (srcFits_of_reg w0 w2)
  rw [hf] at e_op e_hd e_tyM e_opD e_opA e_src tidy
  exact ⟨by unfold build buildVecS; rw [e_op]; show (do some (Instr.vshrSb f.hd (← f.tyM) f.opD f.opA f.src)) = _; simp only [e_hd, e_tyM, e_opD, e_opA, e_src]; rfl, tidy⟩
theorem vbfeSb (h : Hd) (ty : Ty) (d a : Opnd) (b : SrcB) : Statement (.vbfeSb h ty d a b) := by
  intro hw f hf
  injection hf with hf
  simp only [Instr.wf, Bool.and_eq_true] at hw
  obtain ⟨⟨w0, w1⟩, w2⟩ := hw
  obtain ⟨e_op, e_hd, e_tyM, e_opD, e_opA, e_src, tidy⟩ := shapeTDAB 0x6D rfl w0 w1 (srcFits_of_reg w0 w2)
  rw [hf] at e_op e_hd e_tyM e_opD e_opA e_src tidy
  exact ⟨by unfold build buildVecS; rw [e_op]; show (do some (Instr.vbfeSb f.hd (← f.tyM) f.opD f.opA f.src)) = _; simp only [e_hd, e_tyM, e_opD, e_opA, e_src]; rfl, tidy⟩
theorem vbfiSb (h : Hd) (ty : Ty) (d a : Opnd) (b : SrcB) (c : Opnd) : Statement (.vbfiSb h ty d a b c) := by
  intro hw f hf
  injection hf with hf
  simp only [Instr.wf, Bool.and_eq_true] at hw
  obtain ⟨⟨w0, w1⟩, w2⟩ := hw
  obtain ⟨e_op, e_hd, e_tyM, e_opD, e_opA, e_src, e_opC, tidy⟩ := shapeTDABC 0x6E rfl w0 w1 (srcFits_of_reg w0 w2)
  rw [hf] at e_op e_hd e_tyM e_opD e_opA e_src e_opC tidy
  exact ⟨by unfold build buildVecS; rw [e_op]; show (do some (Instr.vbfiSb f.hd (← f.tyM) f.opD f.opA f.src f.opC)) = _; simp only [e_hd, e_tyM, e_opD, e_opA, e_src, e_opC]; rfl, tidy⟩
theorem vselSb (h : Hd) (ty : Ty) (d a : Opnd) (b : SrcB) (c : Opnd) : Statement (.vselSb h ty d a b c) := by
  intro hw f hf
  injection hf with hf
  simp only [Instr.wf, Bool.and_eq_true] at hw
  obtain ⟨⟨w0, w1⟩, w2⟩ := hw
  obtain ⟨e_op, e_hd, e_tyM, e_opD, e_opA, e_src, e_opC, tidy⟩ := shapeTDABC 0x6F rfl w0 w1 (srcFits_of_reg w0 w2)
  rw [hf] at e_op e_hd e_tyM e_opD e_opA e_src e_opC tidy
  exact ⟨by unfold build buildVecS; rw [e_op]; show (do some (Instr.vselSb f.hd (← f.tyM) f.opD f.opA f.src f.opC)) = _; simp only [e_hd, e_tyM, e_opD, e_opA, e_src, e_opC]; rfl, tidy⟩
theorem vcmpSb (h : Hd) (c : CmpOp) (ty : Ty) (d a : Opnd) (b : SrcB) : Statement (.vcmpSb h c ty d a b) := by
  intro hw f hf
  obtain ⟨bnd, len, ixs⟩ := h
  obtain ⟨dn, di⟩ := d
  obtain ⟨an, ai⟩ := a
  injection hf with hf
  rcases b with ⟨bn, bi⟩ | v | v <;> cases len <;> simp [Instr.wf, hdOk, tyDOk, srcRegOk, SrcB.ind] at hw <;> (
    have e_op : f.op = 0x70 := by subst hf; rfl
    refine ⟨?_, ?_⟩
    · unfold build buildVecS; rw [e_op]; show (do some (Instr.vcmpSb f.hd (cmpOf f.m) (← f.tyD .f32) f.opD f.opA f.src)) = _; subst hf
      simp [fields, Fields.hd, Fields.tyD, Fields.opD, Fields.opA, Fields.src, Fields.opB, hw]
    · unfold Tidy; rw [e_op, show isE (0x70 : BitVec 8) = false from rfl]; subst hf
      simp [fields, hw] <;> (try grind))
theorem vmovImm (h : Hd) (ty : Ty) (d : Opnd) (i : Imm) : Statement (.vmovImm h ty d i) := by
  intro hw f hf
  obtain ⟨bnd, len, ixs⟩ := h
  obtain ⟨dn, di⟩ := d
  injection hf with hf
  rcases i with v | v | v <;> cases len <;> simp [Instr.wf, hdOk, tyDOk, immOk] at hw <;> (
    have e_op : f.op = 0x71 := by subst hf; rfl
    refine ⟨?_, ?_⟩
    · unfold build buildVecS; rw [e_op]; show (do some (Instr.vmovImm f.hd (← f.tyD .b32) f.opD f.imm)) = _; subst hf
      simp [fields, Fields.hd, Fields.tyD, Fields.opD, Fields.imm, Fields.imm9, append9, hw]
    · unfold Tidy; rw [e_op, show isE (0x71 : BitVec 8) = false from rfl]; subst hf
      simp [fields, hw] <;> (try grind))
theorem vaddImm (h : Hd) (ty : Ty) (d a : Opnd) (i : Imm) : Statement (.vaddImm h ty d a i) := by
  intro hw f hf
  injection hf with hf
  simp only [Instr.wf, Bool.and_eq_true] at hw
  obtain ⟨⟨w0, w1⟩, w2⟩ := hw
  obtain ⟨e_op, e_hd, e_tyD, e_opD, e_opA, e_imm, tidy⟩ := shapeYDAI 0x72 rfl w0 w1 w2
  rw [hf] at e_op e_hd e_tyD e_opD e_opA e_imm tidy
  exact ⟨by unfold build buildVecS; rw [e_op]; show (do some (Instr.vaddImm f.hd (← f.tyD .i32) f.opD f.opA f.imm)) = _; simp only [e_hd, e_tyD, e_opD, e_opA, e_imm]; rfl, tidy⟩
theorem vminImm (h : Hd) (ty : Ty) (d a : Opnd) (i : Imm) : Statement (.vminImm h ty d a i) := by
  intro hw f hf
  injection hf with hf
  simp only [Instr.wf, Bool.and_eq_true] at hw
  obtain ⟨⟨w0, w1⟩, w2⟩ := hw
  obtain ⟨e_op, e_hd, e_tyD, e_opD, e_opA, e_imm, tidy⟩ := shapeYDAI 0x73 rfl w0 w1 w2
  rw [hf] at e_op e_hd e_tyD e_opD e_opA e_imm tidy
  exact ⟨by unfold build buildVecS; rw [e_op]; show (do some (Instr.vminImm f.hd (← f.tyD .i32) f.opD f.opA f.imm)) = _; simp only [e_hd, e_tyD, e_opD, e_opA, e_imm]; rfl, tidy⟩
theorem vmaxImm (h : Hd) (ty : Ty) (d a : Opnd) (i : Imm) : Statement (.vmaxImm h ty d a i) := by
  intro hw f hf
  injection hf with hf
  simp only [Instr.wf, Bool.and_eq_true] at hw
  obtain ⟨⟨w0, w1⟩, w2⟩ := hw
  obtain ⟨e_op, e_hd, e_tyD, e_opD, e_opA, e_imm, tidy⟩ := shapeYDAI 0x74 rfl w0 w1 w2
  rw [hf] at e_op e_hd e_tyD e_opD e_opA e_imm tidy
  exact ⟨by unfold build buildVecS; rw [e_op]; show (do some (Instr.vmaxImm f.hd (← f.tyD .i32) f.opD f.opA f.imm)) = _; simp only [e_hd, e_tyD, e_opD, e_opA, e_imm]; rfl, tidy⟩
theorem vandImm (h : Hd) (ty : Ty) (d a : Opnd) (i : Imm) : Statement (.vandImm h ty d a i) := by
  intro hw f hf
  injection hf with hf
  simp only [Instr.wf, Bool.and_eq_true] at hw
  obtain ⟨⟨w0, w1⟩, w2⟩ := hw
  obtain ⟨e_op, e_hd, e_tyD, e_opD, e_opA, e_imm, tidy⟩ := shapeYDAI 0x75 rfl w0 w1 w2
  rw [hf] at e_op e_hd e_tyD e_opD e_opA e_imm tidy
  exact ⟨by unfold build buildVecS; rw [e_op]; show (do some (Instr.vandImm f.hd (← f.tyD .b32) f.opD f.opA f.imm)) = _; simp only [e_hd, e_tyD, e_opD, e_opA, e_imm]; rfl, tidy⟩
theorem vorImm (h : Hd) (ty : Ty) (d a : Opnd) (i : Imm) : Statement (.vorImm h ty d a i) := by
  intro hw f hf
  injection hf with hf
  simp only [Instr.wf, Bool.and_eq_true] at hw
  obtain ⟨⟨w0, w1⟩, w2⟩ := hw
  obtain ⟨e_op, e_hd, e_tyD, e_opD, e_opA, e_imm, tidy⟩ := shapeYDAI 0x76 rfl w0 w1 w2
  rw [hf] at e_op e_hd e_tyD e_opD e_opA e_imm tidy
  exact ⟨by unfold build buildVecS; rw [e_op]; show (do some (Instr.vorImm f.hd (← f.tyD .b32) f.opD f.opA f.imm)) = _; simp only [e_hd, e_tyD, e_opD, e_opA, e_imm]; rfl, tidy⟩
theorem vxorImm (h : Hd) (ty : Ty) (d a : Opnd) (i : Imm) : Statement (.vxorImm h ty d a i) := by
  intro hw f hf
  injection hf with hf
  simp only [Instr.wf, Bool.and_eq_true] at hw
  obtain ⟨⟨w0, w1⟩, w2⟩ := hw
  obtain ⟨e_op, e_hd, e_tyD, e_opD, e_opA, e_imm, tidy⟩ := shapeYDAI 0x77 rfl w0 w1 w2
  rw [hf] at e_op e_hd e_tyD e_opD e_opA e_imm tidy
  exact ⟨by unfold build buildVecS; rw [e_op]; show (do some (Instr.vxorImm f.hd (← f.tyD .b32) f.opD f.opA f.imm)) = _; simp only [e_hd, e_tyD, e_opD, e_opA, e_imm]; rfl, tidy⟩
theorem xsel (h : Hd) (ty : Ty) (d a b : Opnd) : Statement (.xsel h ty d a b) := by
  intro hw f hf
  obtain ⟨bnd, len, ixs⟩ := h
  obtain ⟨dn, di⟩ := d
  obtain ⟨an, ai⟩ := a
  obtain ⟨bn, bi⟩ := b
  injection hf with hf
  cases len <;> simp [Instr.wf, hdOk, tyMOk] at hw <;> (
    have e_op : f.op = 0x78 := by subst hf; rfl
    refine ⟨?_, ?_⟩
    · unfold build buildVecS; rw [e_op]; show (do some (Instr.xsel f.hd (← f.tyM) f.opD f.opA f.opB)) = _; subst hf
      simp [fields, Fields.hd, Fields.tyM, Fields.opD, Fields.opA, Fields.opB, mTy_tyM, hw]
    · unfold Tidy; rw [e_op, show isE (0x78 : BitVec 8) = false from rfl]; subst hf
      simp [fields, hw] <;> (try grind))
theorem xred (h : Hd) (o : RedOp) (ty : Ty) (d a : Opnd) : Statement (.xred h o ty d a) := by
  intro hw f hf
  obtain ⟨bnd, len, ixs⟩ := h
  obtain ⟨dn, di⟩ := d
  obtain ⟨an, ai⟩ := a
  injection hf with hf
  cases len <;> simp [Instr.wf, hdOk, tyDOk] at hw <;> (
    have e_op : f.op = 0x79 := by subst hf; rfl
    refine ⟨?_, ?_⟩
    · unfold build buildVecS; rw [e_op]; show (do some (Instr.xred f.hd (← redOf f.m) (← f.tyD .i32) f.opD f.opA)) = _; subst hf
      simp [fields, Fields.hd, Fields.tyD, Fields.opD, Fields.opA, hw]
    · unfold Tidy; rw [e_op, show isE (0x79 : BitVec 8) = false from rfl]; subst hf
      simp [fields, hw] <;> (try grind))
theorem xscan (h : Hd) (o : RedOp) (seg ex : Bool) (ty : Ty) (d a b : Opnd) : Statement (.xscan h o seg ex ty d a b) := by
  intro hw f hf
  obtain ⟨bnd, len, ixs⟩ := h
  obtain ⟨dn, di⟩ := d
  obtain ⟨an, ai⟩ := a
  obtain ⟨bn, bi⟩ := b
  injection hf with hf
  cases len <;> simp [Instr.wf, hdOk, tyDOk, unusedOk] at hw <;> (
    have e_op : f.op = 0x7A := by subst hf; rfl
    refine ⟨?_, ?_⟩
    · unfold build buildVecS; rw [e_op]; show (do some (Instr.xscan f.hd (← redOf f.m) (f.opfBit 0) (f.opfBit 1) (← f.tyD .i32) f.opD f.opA f.opB)) = _; subst hf
      simp [fields, Fields.hd, Fields.opfBit, Fields.tyD, Fields.opD, Fields.opA, Fields.opB, hw] <;> (try grind)
    · unfold Tidy; rw [e_op, show isE (0x7A : BitVec 8) = false from rfl]; subst hf
      simp [fields, hw] <;> (try grind))
theorem xget (h : Hd) (ty : Ty) (d a b : Opnd) : Statement (.xget h ty d a b) := by
  intro hw f hf
  obtain ⟨bnd, len, ixs⟩ := h
  obtain ⟨dn, di⟩ := d
  obtain ⟨an, ai⟩ := a
  obtain ⟨bn, bi⟩ := b
  injection hf with hf
  cases len <;> simp [Instr.wf, hdOk, tyMOk] at hw <;> (
    have e_op : f.op = 0x7B := by subst hf; rfl
    refine ⟨?_, ?_⟩
    · unfold build buildVecS; rw [e_op]; show (do some (Instr.xget f.hd (← f.tyM) f.opD f.opA f.opB)) = _; subst hf
      simp [fields, Fields.hd, Fields.tyM, Fields.opD, Fields.opA, Fields.opB, mTy_tyM, hw]
    · unfold Tidy; rw [e_op, show isE (0x7B : BitVec 8) = false from rfl]; subst hf
      simp [fields, hw] <;> (try grind))
theorem xgetImm (h : Hd) (d a : RegNo) (lane : BitVec 9) : Statement (.xgetImm h d a lane) := by
  intro hw f hf
  obtain ⟨bnd, len, ixs⟩ := h
  injection hf with hf
  cases len <;> simp [Instr.wf, hdOk] at hw <;> (
    have e_op : f.op = 0x7C := by subst hf; rfl
    refine ⟨?_, ?_⟩
    · unfold build buildVecS; rw [e_op]; show (do some (Instr.xgetImm f.hd f.d f.a f.imm9)) = _; subst hf
      simp [fields, Fields.hd, Fields.imm9, append9, hw]
    · unfold Tidy; rw [e_op, show isE (0x7C : BitVec 8) = false from rfl]; subst hf
      simp [fields, hw])
theorem xselSb (h : Hd) (ty : Ty) (d a b : Opnd) : Statement (.xselSb h ty d a b) := by
  intro hw f hf
  obtain ⟨bnd, len, ixs⟩ := h
  obtain ⟨dn, di⟩ := d
  obtain ⟨an, ai⟩ := a
  obtain ⟨bn, bi⟩ := b
  injection hf with hf
  cases len <;> simp [Instr.wf, hdOk, tyMOk] at hw <;> (
    have e_op : f.op = 0x7D := by subst hf; rfl
    refine ⟨?_, ?_⟩
    · unfold build buildVecS; rw [e_op]; show (do some (Instr.xselSb f.hd (← f.tyM) f.opD f.opA f.opB)) = _; subst hf
      simp [fields, Fields.hd, Fields.tyM, Fields.opD, Fields.opA, Fields.opB, mTy_tyM, hw]
    · unfold Tidy; rw [e_op, show isE (0x7D : BitVec 8) = false from rfl]; subst hf
      simp [fields, hw] <;> (try grind))
theorem vshlImm (h : Hd) (ty : Ty) (d a : Opnd) (i : Imm) : Statement (.vshlImm h ty d a i) := by
  intro hw f hf
  injection hf with hf
  simp only [Instr.wf, Bool.and_eq_true] at hw
  obtain ⟨⟨⟨w0, w1⟩, w2⟩, w3⟩ := hw
  obtain ⟨e_op, e_hd, e_tyD, e_opD, e_opA, e_imm, tidy⟩ := shapeYDAI 0x7E rfl w0 w1 w2
  rw [hf] at e_op e_hd e_tyD e_opD e_opA e_imm tidy
  exact ⟨by unfold build buildVecS; rw [e_op]; show (do some (Instr.vshlImm f.hd (← f.tyD .b32) f.opD f.opA f.imm)) = _; simp only [e_hd, e_tyD, e_opD, e_opA, e_imm]; rfl, tidy⟩
theorem vshrImm (h : Hd) (ty : Ty) (d a : Opnd) (i : Imm) : Statement (.vshrImm h ty d a i) := by
  intro hw f hf
  injection hf with hf
  simp only [Instr.wf, Bool.and_eq_true] at hw
  obtain ⟨⟨⟨w0, w1⟩, w2⟩, w3⟩ := hw
  obtain ⟨e_op, e_hd, e_tyD, e_opD, e_opA, e_imm, tidy⟩ := shapeYDAI 0x7F rfl w0 w1 w2
  rw [hf] at e_op e_hd e_tyD e_opD e_opA e_imm tidy
  exact ⟨by unfold build buildVecS; rw [e_op]; show (do some (Instr.vshrImm f.hd (← f.tyD .n32) f.opD f.opA f.imm)) = _; simp only [e_hd, e_tyD, e_opD, e_opA, e_imm]; rfl, tidy⟩
theorem ldVA (h : Hd) (m : MemAttr) (ty : Ty) (d a : Opnd) (b : SrcB) : Statement (.ldVA h m ty d a b) := by
  intro hw f hf
  injection hf with hf
  simp only [Instr.wf, Bool.and_eq_true] at hw
  obtain ⟨⟨⟨w0, w1⟩, w2⟩, w3⟩ := hw
  obtain ⟨e_op, e_hd, e_mem, e_tyM, e_opD, e_opA, e_src, tidy⟩ := shapeMTDAB 0x80 rfl w0 w1 (srcFits_of_off w0 w2) w3
  rw [hf] at e_op e_hd e_mem e_tyM e_opD e_opA e_src tidy
  exact ⟨by unfold build buildMem; rw [e_op]; show (do some (Instr.ldVA f.hd (← f.mem) (← f.tyM) f.opD f.opA f.src)) = _; simp only [e_hd, e_mem, e_tyM, e_opD, e_opA, e_src]; rfl, tidy⟩
theorem ldSA (h : Hd) (m : MemAttr) (ty : Ty) (d a : Opnd) (b : SrcB) : Statement (.ldSA h m ty d a b) := by
  intro hw f hf
  injection hf with hf
  simp only [Instr.wf, Bool.and_eq_true] at hw
  obtain ⟨⟨⟨w0, w1⟩, w2⟩, w3⟩ := hw
  obtain ⟨e_op, e_hd, e_mem, e_tyM, e_opD, e_opA, e_src, tidy⟩ := shapeMTDAB 0x81 rfl w0 w1 (srcFits_of_off w0 w2) w3
  rw [hf] at e_op e_hd e_mem e_tyM e_opD e_opA e_src tidy
  exact ⟨by unfold build buildMem; rw [e_op]; show (do some (Instr.ldSA f.hd (← f.mem) (← f.tyM) f.opD f.opA f.src)) = _; simp only [e_hd, e_mem, e_tyM, e_opD, e_opA, e_src]; rfl, tidy⟩
theorem ldl (h : Hd) (m : MemAttr) (a : Opnd) (b : SrcB) : Statement (.ldl h m a b) := by
  intro hw f hf
  obtain ⟨bnd, len, ixs⟩ := h
  obtain ⟨mp, mo, mc, ms⟩ := m
  obtain ⟨an, ai⟩ := a
  injection hf with hf
  rcases b with ⟨bn, bi⟩ | v | v <;> cases len <;> simp [Instr.wf, hdOk, offOk, memOk, SrcB.ind] at hw <;> (
    have e_op : f.op = 0x82 := by subst hf; rfl
    refine ⟨?_, ?_⟩
    · unfold build buildMem; rw [e_op]; show (do some (Instr.ldl f.hd (← f.mem) f.opA f.src)) = _; subst hf
      simp [fields, Fields.hd, Fields.mem, Fields.opfBit, Fields.opA, Fields.src, Fields.opB, hw]
    · unfold Tidy; rw [e_op, show isE (0x82 : BitVec 8) = false from rfl]; subst hf
      simp [fields, hw] <;> (try grind))
theorem lds (h : Hd) (m : MemAttr) (ty : Ty) (d a : Opnd) (b : SrcB) : Statement (.lds h m ty d a b) := by
  intro hw f hf
  injection hf with hf
  simp only [Instr.wf, Bool.and_eq_true] at hw
  obtain ⟨⟨⟨w0, w1⟩, w2⟩, w3⟩ := hw
  obtain ⟨e_op, e_hd, e_mem, e_tyM, e_opD, e_opA, e_src, tidy⟩ := shapeMTDAB 0x83 rfl w0 w1 (srcFits_of_off w0 w2) w3
  rw [hf] at e_op e_hd e_mem e_tyM e_opD e_opA e_src tidy
  exact ⟨by unfold build buildMem; rw [e_op]; show (do some (Instr.lds f.hd (← f.mem) (← f.tyM) f.opD f.opA f.src)) = _; simp only [e_hd, e_mem, e_tyM, e_opD, e_opA, e_src]; rfl, tidy⟩
theorem stVA (h : Hd) (m : MemAttr) (ty : Ty) (d a : Opnd) (b : SrcB) : Statement (.stVA h m ty d a b) := by
  intro hw f hf
  injection hf with hf
  simp only [Instr.wf, Bool.and_eq_true] at hw
  obtain ⟨⟨⟨w0, w1⟩, w2⟩, w3⟩ := hw
  obtain ⟨e_op, e_hd, e_mem, e_tyM, e_opD, e_opA, e_src, tidy⟩ := shapeMTDAB 0x84 rfl w0 w1 (srcFits_of_off w0 w2) w3
  rw [hf] at e_op e_hd e_mem e_tyM e_opD e_opA e_src tidy
  exact ⟨by unfold build buildMem; rw [e_op]; show (do some (Instr.stVA f.hd (← f.mem) (← f.tyM) f.opD f.opA f.src)) = _; simp only [e_hd, e_mem, e_tyM, e_opD, e_opA, e_src]; rfl, tidy⟩
theorem stSA (h : Hd) (m : MemAttr) (ty : Ty) (d a : Opnd) (b : SrcB) : Statement (.stSA h m ty d a b) := by
  intro hw f hf
  injection hf with hf
  simp only [Instr.wf, Bool.and_eq_true] at hw
  obtain ⟨⟨⟨w0, w1⟩, w2⟩, w3⟩ := hw
  obtain ⟨e_op, e_hd, e_mem, e_tyM, e_opD, e_opA, e_src, tidy⟩ := shapeMTDAB 0x85 rfl w0 w1 (srcFits_of_off w0 w2) w3
  rw [hf] at e_op e_hd e_mem e_tyM e_opD e_opA e_src tidy
  exact ⟨by unfold build buildMem; rw [e_op]; show (do some (Instr.stSA f.hd (← f.mem) (← f.tyM) f.opD f.opA f.src)) = _; simp only [e_hd, e_mem, e_tyM, e_opD, e_opA, e_src]; rfl, tidy⟩
theorem sts (h : Hd) (m : MemAttr) (ty : Ty) (d a : Opnd) (b : SrcB) : Statement (.sts h m ty d a b) := by
  intro hw f hf
  injection hf with hf
  simp only [Instr.wf, Bool.and_eq_true] at hw
  obtain ⟨⟨⟨w0, w1⟩, w2⟩, w3⟩ := hw
  obtain ⟨e_op, e_hd, e_mem, e_tyM, e_opD, e_opA, e_src, tidy⟩ := shapeMTDAB 0x86 rfl w0 w1 (srcFits_of_off w0 w2) w3
  rw [hf] at e_op e_hd e_mem e_tyM e_opD e_opA e_src tidy
  exact ⟨by unfold build buildMem; rw [e_op]; show (do some (Instr.sts f.hd (← f.mem) (← f.tyM) f.opD f.opA f.src)) = _; simp only [e_hd, e_mem, e_tyM, e_opD, e_opA, e_src]; rfl, tidy⟩
theorem ldSAVB (h : Hd) (m : MemAttr) (ty : Ty) (d a b : Opnd) : Statement (.ldSAVB h m ty d a b) := by
  intro hw f hf
  obtain ⟨bnd, len, ixs⟩ := h
  obtain ⟨mp, mo, mc, ms⟩ := m
  obtain ⟨dn, di⟩ := d
  obtain ⟨an, ai⟩ := a
  obtain ⟨bn, bi⟩ := b
  injection hf with hf
  cases len <;> simp [Instr.wf, hdOk, tyMOk, memOk] at hw <;> (
    have e_op : f.op = 0x87 := by subst hf; rfl
    refine ⟨?_, ?_⟩
    · unfold build buildMem; rw [e_op]; show (do some (Instr.ldSAVB f.hd (← f.mem) (← f.tyM) f.opD f.opA f.opB)) = _; subst hf
      simp [fields, Fields.hd, Fields.mem, Fields.opfBit, Fields.tyM, Fields.opD, Fields.opA, Fields.opB, mTy_tyM, hw] <;> (try grind)
    · unfold Tidy; rw [e_op, show isE (0x87 : BitVec 8) = false from rfl]; subst hf
      simp [fields, hw] <;> (try grind))
theorem atomV (h : Hd) (o : AtomOp) (m : MemAttr) (ty : Ty) (d a b c : Opnd) : Statement (.atomV h o m ty d a b c) := by
  intro hw f hf
  obtain ⟨bnd, len, ixs⟩ := h
  obtain ⟨mp, mo, mc, ms⟩ := m
  obtain ⟨dn, di⟩ := d
  obtain ⟨an, ai⟩ := a
  obtain ⟨bn, bi⟩ := b
  obtain ⟨cn, ci⟩ := c
  injection hf with hf
  cases len <;> simp [Instr.wf, hdOk, tyDOk, memOk, casOk, unusedOk] at hw <;> (
    have e_op : f.op = 0x88 := by subst hf; rfl
    refine ⟨?_, ?_⟩
    · unfold build buildMem; rw [e_op]; show (do some (Instr.atomV f.hd (aopOf f.m) (← f.mem) (← f.tyD .i32) f.opD f.opA f.opB f.opC)) = _; subst hf
      simp [fields, Fields.hd, Fields.mem, Fields.opfBit, Fields.tyD, Fields.opD, Fields.opA, Fields.opB, Fields.opC, hw]
    · unfold Tidy; rw [e_op, show isE (0x88 : BitVec 8) = false from rfl]; subst hf
      simp [fields, hw] <;> (try grind))
theorem atomS (h : Hd) (o : AtomOp) (m : MemAttr) (ty : Ty) (d a b c : Opnd) : Statement (.atomS h o m ty d a b c) := by
  intro hw f hf
  obtain ⟨bnd, len, ixs⟩ := h
  obtain ⟨mp, mo, mc, ms⟩ := m
  obtain ⟨dn, di⟩ := d
  obtain ⟨an, ai⟩ := a
  obtain ⟨bn, bi⟩ := b
  obtain ⟨cn, ci⟩ := c
  injection hf with hf
  cases len <;> simp [Instr.wf, hdOk, tyDOk, memOk, casOk, unusedOk] at hw <;> (
    have e_op : f.op = 0x89 := by subst hf; rfl
    refine ⟨?_, ?_⟩
    · unfold build buildMem; rw [e_op]; show (do some (Instr.atomS f.hd (aopOf f.m) (← f.mem) (← f.tyD .i32) f.opD f.opA f.opB f.opC)) = _; subst hf
      simp [fields, Fields.hd, Fields.mem, Fields.opfBit, Fields.tyD, Fields.opD, Fields.opA, Fields.opB, Fields.opC, hw]
    · unfold Tidy; rw [e_op, show isE (0x89 : BitVec 8) = false from rfl]; subst hf
      simp [fields, hw] <;> (try grind))
theorem ratomV (h : Hd) (o : AtomOp) (m : MemAttr) (ty : Ty) (d a b c : Opnd) : Statement (.ratomV h o m ty d a b c) := by
  intro hw f hf
  obtain ⟨bnd, len, ixs⟩ := h
  obtain ⟨mp, mo, mc, ms⟩ := m
  obtain ⟨dn, di⟩ := d
  obtain ⟨an, ai⟩ := a
  obtain ⟨bn, bi⟩ := b
  obtain ⟨cn, ci⟩ := c
  injection hf with hf
  cases len <;> simp [Instr.wf, hdOk, memOk] at hw <;> (
    have e_op : f.op = 0x8A := by subst hf; rfl
    refine ⟨?_, ?_⟩
    · unfold build buildMem; rw [e_op]; show (do some (Instr.ratomV f.hd (aopOf f.m) (← f.mem) (← tyOf f.ty) f.opD f.opA f.opB f.opC)) = _; subst hf
      simp [fields, Fields.hd, Fields.mem, Fields.opfBit, Fields.opD, Fields.opA, Fields.opB, Fields.opC, hw]
    · unfold Tidy; rw [e_op, show isE (0x8A : BitVec 8) = false from rfl]; subst hf
      simp [fields, hw])
theorem ratomS (h : Hd) (o : AtomOp) (m : MemAttr) (ty : Ty) (d a b c : Opnd) : Statement (.ratomS h o m ty d a b c) := by
  intro hw f hf
  obtain ⟨bnd, len, ixs⟩ := h
  obtain ⟨mp, mo, mc, ms⟩ := m
  obtain ⟨dn, di⟩ := d
  obtain ⟨an, ai⟩ := a
  obtain ⟨bn, bi⟩ := b
  obtain ⟨cn, ci⟩ := c
  injection hf with hf
  cases len <;> simp [Instr.wf, hdOk, memOk] at hw <;> (
    have e_op : f.op = 0x8B := by subst hf; rfl
    refine ⟨?_, ?_⟩
    · unfold build buildMem; rw [e_op]; show (do some (Instr.ratomS f.hd (aopOf f.m) (← f.mem) (← tyOf f.ty) f.opD f.opA f.opB f.opC)) = _; subst hf
      simp [fields, Fields.hd, Fields.mem, Fields.opfBit, Fields.opD, Fields.opA, Fields.opB, Fields.opC, hw]
    · unfold Tidy; rw [e_op, show isE (0x8B : BitVec 8) = false from rfl]; subst hf
      simp [fields, hw])
theorem flush (h : Hd) (mode : FlushMode) (scope : Scope) : Statement (.flush h mode scope) := by
  intro hw f hf
  obtain ⟨bnd, len, ixs⟩ := h
  injection hf with hf
  cases len <;> simp [Instr.wf, hdOk, scopeOk] at hw <;> (
    have e_op : f.op = 0x8C := by subst hf; rfl
    refine ⟨?_, ?_⟩
    · unfold build buildMem; rw [e_op]; show (do some (Instr.flush f.hd (← flOf f.m) (← scopeOf f.scope))) = _; subst hf
      simp [fields, Fields.hd, hw]
    · unfold Tidy; rw [e_op, show isE (0x8C : BitVec 8) = false from rfl]; subst hf
      simp [fields, hw])
theorem icinv (h : Hd) (lb : Bool) : Statement (.icinv h lb) := by
  intro hw f hf
  obtain ⟨bnd, len, ixs⟩ := h
  injection hf with hf
  cases len <;> simp [Instr.wf, hdOk] at hw <;> (
    have e_op : f.op = 0x8D := by subst hf; rfl
    refine ⟨?_, ?_⟩
    · unfold build buildMem; rw [e_op]; show (do some (Instr.icinv f.hd (f.m == 1))) = _; subst hf
      simp [fields, Fields.hd, hw]
    · unfold Tidy; rw [e_op, show isE (0x8D : BitVec 8) = false from rfl]; subst hf
      simp [fields, hw])
theorem tlbinv (h : Hd) (page : Bool) (scope : Scope) (a : RegNo) : Statement (.tlbinv h page scope a) := by
  intro hw f hf
  obtain ⟨bnd, len, ixs⟩ := h
  injection hf with hf
  cases len <;> simp [Instr.wf, hdOk, scopeOk] at hw <;> (
    have e_op : f.op = 0x8E := by subst hf; rfl
    refine ⟨?_, ?_⟩
    · unfold build buildMem; rw [e_op]; show (do some (Instr.tlbinv f.hd (f.m == 1) (← scopeOf f.scope) f.a)) = _; subst hf
      simp [fields, Fields.hd, hw]
    · unfold Tidy; rw [e_op, show isE (0x8E : BitVec 8) = false from rfl]; subst hf
      simp [fields, hw])
theorem cpy (h : Hd) (mode : CopyMode) (d a : RegNo) : Statement (.cpy h mode d a) := by
  intro hw f hf
  obtain ⟨bnd, len, ixs⟩ := h
  injection hf with hf
  cases len <;> simp [Instr.wf, hdOk] at hw <;> (
    have e_op : f.op = 0x90 := by subst hf; rfl
    refine ⟨?_, ?_⟩
    · unfold build buildMem; rw [e_op]; show (do some (Instr.cpy f.hd (← cmodeOf f.m) f.d f.a)) = _; subst hf
      simp [fields, Fields.hd, hw]
    · unfold Tidy; rw [e_op, show isE (0x90 : BitVec 8) = false from rfl]; subst hf
      simp [fields, hw])
theorem cpyTid (h : Hd) (mode : CopyMode) (d a : RegNo) (tid : Tid) : Statement (.cpyTid h mode d a tid) := by
  intro hw f hf
  obtain ⟨bnd, len, ixs⟩ := h
  injection hf with hf
  cases len <;> simp [Instr.wf, hdOk] at hw <;> (
    have e_op : f.op = 0x91 := by subst hf; rfl
    refine ⟨?_, ?_⟩
    · unfold build buildMem; rw [e_op]; show (do some (Instr.cpyTid f.hd (← cmodeOf f.m) f.d f.a f.tid)) = _; subst hf
      simp [fields, Fields.hd, hw]
    · unfold Tidy; rw [e_op, show isE (0x91 : BitVec 8) = true from rfl]; subst hf
      simp [fields, hw])
theorem kick (h : Hd) (a b : RegNo) : Statement (.kick h a b) := by
  intro hw f hf
  obtain ⟨bnd, len, ixs⟩ := h
  injection hf with hf
  cases len <;> simp [Instr.wf, hdOk] at hw <;> (
    have e_op : f.op = 0x92 := by subst hf; rfl
    refine ⟨?_, ?_⟩
    · unfold build buildMem; rw [e_op]; show (do some (Instr.kick f.hd f.a f.b)) = _; subst hf
      simp [fields, Fields.hd, hw]
    · unfold Tidy; rw [e_op, show isE (0x92 : BitVec 8) = false from rfl]; subst hf
      simp [fields, hw])
theorem mma (h : Hd) (ty : Ty) (acc : AccNo) (a : Opnd) (tid : Tid) (asc : Bool) (c : Opnd) : Statement (.mma h ty acc a tid asc c) := by
  intro hw f hf
  obtain ⟨bnd, len, ixs⟩ := h
  obtain ⟨an, ai⟩ := a
  obtain ⟨cn, ci⟩ := c
  injection hf with hf
  cases len <;> simp [Instr.wf, hdOk, unusedOk] at hw <;> (
    have e_op : f.op = 0xA0 := by subst hf; rfl
    refine ⟨?_, ?_⟩
    · unfold build buildEng; rw [e_op]; show (do some (Instr.mma f.hd (← tyOf f.ty) f.acc f.opA f.tid f.mode0 f.opC)) = _; subst hf
      simp [fields, Fields.hd, Fields.acc, Fields.opA, Fields.mode0, Fields.opC, hw] <;> (try grind)
    · unfold Tidy; rw [e_op, show isE (0xA0 : BitVec 8) = true from rfl]; subst hf
      simp [fields, hw])
theorem mmas (h : Hd) (t : Bool) (ty : Ty) (acc : AccNo) (a : Opnd) (tid : Tid) (ps : PSlotNo) (asc : Bool) (c : Opnd) : Statement (.mmas h t ty acc a tid ps asc c) := by
  intro hw f hf
  obtain ⟨bnd, len, ixs⟩ := h
  obtain ⟨an, ai⟩ := a
  obtain ⟨cn, ci⟩ := c
  injection hf with hf
  cases len <;> simp [Instr.wf, hdOk, unusedOk] at hw <;> (
    have e_op : f.op = 0xA1 := by subst hf; rfl
    refine ⟨?_, ?_⟩
    · unfold build buildEng; rw [e_op]; show (do some (Instr.mmas f.hd (f.opfBit 0) (← tyOf f.ty) f.acc f.opA f.tid f.ps f.mode0 f.opC)) = _; subst hf
      simp [fields, Fields.hd, Fields.opfBit, Fields.acc, Fields.opA, Fields.mode0, Fields.opC, hw] <;> (try grind)
    · unfold Tidy; rw [e_op, show isE (0xA1 : BitVec 8) = true from rfl]; subst hf
      simp [fields, hw])
theorem mrdV (h : Hd) (ty : Ty) (cmp tick : Bool) (d : Opnd) (acc : AccNo) (b : SrcB) : Statement (.mrdV h ty cmp tick d acc b) := by
  intro hw f hf
  obtain ⟨bnd, len, ixs⟩ := h
  obtain ⟨dn, di⟩ := d
  injection hf with hf
  rcases b with ⟨bn, bi⟩ | v | v <;> cases len <;> simp [Instr.wf, hdOk, mrdOk, mrdSrcOk, srcRegOk, SrcB.ind] at hw <;> (
    have e_op : f.op = 0xA2 := by subst hf; rfl
    refine ⟨?_, ?_⟩
    · unfold build buildEng; rw [e_op]; show (do some (Instr.mrdV f.hd (← tyOf f.ty) (f.opfBit 0) (f.opfBit 1) f.opD f.acc f.src)) = _; subst hf
      simp [fields, Fields.hd, Fields.opfBit, Fields.opD, Fields.acc, Fields.src, Fields.opB, hw] <;> (try grind)
    · unfold Tidy; rw [e_op, show isE (0xA2 : BitVec 8) = true from rfl]; subst hf
      simp [fields, hw])
theorem mrdS (h : Hd) (ty : Ty) (space : Space) (cmp tick : Bool) (a : Opnd) (acc : AccNo) (b : SrcB) : Statement (.mrdS h ty space cmp tick a acc b) := by
  intro hw f hf
  obtain ⟨bnd, len, ixs⟩ := h
  obtain ⟨an, ai⟩ := a
  injection hf with hf
  rcases b with ⟨bn, bi⟩ | v | v <;> cases len <;> simp [Instr.wf, hdOk, mrdOk, mrdSrcOk, srcRegOk, SrcB.ind] at hw <;> (
    have e_op : f.op = 0xA3 := by subst hf; rfl
    refine ⟨?_, ?_⟩
    · unfold build buildEng; rw [e_op]; show (do some (Instr.mrdS f.hd (← tyOf f.ty) (← spaceOf f.space) (f.opfBit 0) (f.opfBit 1) f.opA f.acc f.src)) = _; subst hf
      simp [fields, Fields.hd, Fields.opfBit, Fields.opA, Fields.acc, Fields.src, Fields.opB, hw] <;> (try grind)
    · unfold Tidy; rw [e_op, show isE (0xA3 : BitVec 8) = true from rfl]; subst hf
      simp [fields, hw])
theorem mclr (h : Hd) (acc : AccNo) : Statement (.mclr h acc) := by
  intro hw f hf
  obtain ⟨bnd, len, ixs⟩ := h
  injection hf with hf
  cases len <;> simp [Instr.wf, hdOk] at hw <;> (
    have e_op : f.op = 0xA4 := by subst hf; rfl
    refine ⟨?_, ?_⟩
    · unfold build buildEng; rw [e_op]; show (do some (Instr.mclr f.hd f.acc)) = _; subst hf
      simp [fields, Fields.hd, Fields.acc, hw]
    · unfold Tidy; rw [e_op, show isE (0xA4 : BitVec 8) = true from rfl]; subst hf
      simp [fields, hw])
theorem mwb (h : Hd) (tid : Tid) (a : RegNo) : Statement (.mwb h tid a) := by
  intro hw f hf
  obtain ⟨bnd, len, ixs⟩ := h
  injection hf with hf
  cases len <;> simp [Instr.wf, hdOk] at hw <;> (
    have e_op : f.op = 0xA5 := by subst hf; rfl
    refine ⟨?_, ?_⟩
    · unfold build buildEng; rw [e_op]; show (do some (Instr.mwb f.hd f.tid f.a)) = _; subst hf
      simp [fields, Fields.hd, hw]
    · unfold Tidy; rw [e_op, show isE (0xA5 : BitVec 8) = true from rfl]; subst hf
      simp [fields, hw])
theorem mwbLayer (h : Hd) (tid : Tid) (a b : RegNo) : Statement (.mwbLayer h tid a b) := by
  intro hw f hf
  obtain ⟨bnd, len, ixs⟩ := h
  injection hf with hf
  cases len <;> simp [Instr.wf, hdOk] at hw <;> (
    have e_op : f.op = 0xA6 := by subst hf; rfl
    refine ⟨?_, ?_⟩
    · unfold build buildEng; rw [e_op]; show (do some (Instr.mwbLayer f.hd f.tid f.a f.b)) = _; subst hf
      simp [fields, Fields.hd, hw]
    · unfold Tidy; rw [e_op, show isE (0xA6 : BitVec 8) = true from rfl]; subst hf
      simp [fields, hw])
theorem tdef (h : Hd) (tid : Tid) (a : RegNo) : Statement (.tdef h tid a) := by
  intro hw f hf
  obtain ⟨bnd, len, ixs⟩ := h
  injection hf with hf
  cases len <;> simp [Instr.wf, hdOk] at hw <;> (
    have e_op : f.op = 0xA8 := by subst hf; rfl
    refine ⟨?_, ?_⟩
    · unfold build buildEng; rw [e_op]; show (do some (Instr.tdef f.hd f.tid f.a)) = _; subst hf
      simp [fields, Fields.hd, hw]
    · unfold Tidy; rw [e_op, show isE (0xA8 : BitVec 8) = true from rfl]; subst hf
      simp [fields, hw])
theorem tdefGet (h : Hd) (tid : Tid) (a : RegNo) : Statement (.tdefGet h tid a) := by
  intro hw f hf
  obtain ⟨bnd, len, ixs⟩ := h
  injection hf with hf
  cases len <;> simp [Instr.wf, hdOk] at hw <;> (
    have e_op : f.op = 0xA9 := by subst hf; rfl
    refine ⟨?_, ?_⟩
    · unfold build buildEng; rw [e_op]; show (do some (Instr.tdefGet f.hd f.tid f.a)) = _; subst hf
      simp [fields, Fields.hd, hw]
    · unfold Tidy; rw [e_op, show isE (0xA9 : BitVec 8) = true from rfl]; subst hf
      simp [fields, hw])
theorem pload (h : Hd) (ps : PSlotNo) (a : Opnd) : Statement (.pload h ps a) := by
  intro hw f hf
  obtain ⟨bnd, len, ixs⟩ := h
  obtain ⟨an, ai⟩ := a
  injection hf with hf
  cases len <;> simp [Instr.wf, hdOk] at hw <;> (
    have e_op : f.op = 0xAC := by subst hf; rfl
    refine ⟨?_, ?_⟩
    · unfold build buildEng; rw [e_op]; show (do some (Instr.pload f.hd f.ps f.opA)) = _; subst hf
      simp [fields, Fields.hd, Fields.opA, hw]
    · unfold Tidy; rw [e_op, show isE (0xAC : BitVec 8) = true from rfl]; subst hf
      simp [fields, hw])
theorem pgenV (h : Hd) (t : Bool) (d : Opnd) (ps : PSlotNo) (a : Opnd) : Statement (.pgenV h t d ps a) := by
  intro hw f hf
  obtain ⟨bnd, len, ixs⟩ := h
  obtain ⟨dn, di⟩ := d
  obtain ⟨an, ai⟩ := a
  injection hf with hf
  cases len <;> simp [Instr.wf, hdOk] at hw <;> (
    have e_op : f.op = 0xAD := by subst hf; rfl
    refine ⟨?_, ?_⟩
    · unfold build buildEng; rw [e_op]; show (do some (Instr.pgenV f.hd (f.opfBit 0) f.opD f.ps f.opA)) = _; subst hf
      simp [fields, Fields.hd, Fields.opfBit, Fields.opD, Fields.opA, hw] <;> (try grind)
    · unfold Tidy; rw [e_op, show isE (0xAD : BitVec 8) = true from rfl]; subst hf
      simp [fields, hw])
theorem pgenS (h : Hd) (t : Bool) (d : Opnd) (ps : PSlotNo) (a : Opnd) : Statement (.pgenS h t d ps a) := by
  intro hw f hf
  obtain ⟨bnd, len, ixs⟩ := h
  obtain ⟨dn, di⟩ := d
  obtain ⟨an, ai⟩ := a
  injection hf with hf
  cases len <;> simp [Instr.wf, hdOk] at hw <;> (
    have e_op : f.op = 0xAE := by subst hf; rfl
    refine ⟨?_, ?_⟩
    · unfold build buildEng; rw [e_op]; show (do some (Instr.pgenS f.hd (f.opfBit 0) f.opD f.ps f.opA)) = _; subst hf
      simp [fields, Fields.hd, Fields.opfBit, Fields.opD, Fields.opA, hw] <;> (try grind)
    · unfold Tidy; rw [e_op, show isE (0xAE : BitVec 8) = true from rfl]; subst hf
      simp [fields, hw])
theorem ginwSmp (h : Hd) (d a b : Opnd) : Statement (.ginwSmp h d a b) := by
  intro hw f hf
  obtain ⟨bnd, len, ixs⟩ := h
  obtain ⟨dn, di⟩ := d
  obtain ⟨an, ai⟩ := a
  obtain ⟨bn, bi⟩ := b
  injection hf with hf
  cases len <;> simp [Instr.wf, hdOk] at hw <;> (
    have e_op : f.op = 0xC0 := by subst hf; rfl
    refine ⟨?_, ?_⟩
    · unfold build buildEng; rw [e_op]; show (do some (Instr.ginwSmp f.hd f.opD f.opA f.opB)) = _; subst hf
      simp [fields, Fields.hd, Fields.opD, Fields.opA, Fields.opB, hw]
    · unfold Tidy; rw [e_op, show isE (0xC0 : BitVec 8) = false from rfl]; subst hf
      simp [fields, hw] <;> (try grind))
theorem ginwEdge (h : Hd) (d a b : Opnd) : Statement (.ginwEdge h d a b) := by
  intro hw f hf
  obtain ⟨bnd, len, ixs⟩ := h
  obtain ⟨dn, di⟩ := d
  obtain ⟨an, ai⟩ := a
  obtain ⟨bn, bi⟩ := b
  injection hf with hf
  cases len <;> simp [Instr.wf, hdOk] at hw <;> (
    have e_op : f.op = 0xC1 := by subst hf; rfl
    refine ⟨?_, ?_⟩
    · unfold build buildEng; rw [e_op]; show (do some (Instr.ginwEdge f.hd f.opD f.opA f.opB)) = _; subst hf
      simp [fields, Fields.hd, Fields.opD, Fields.opA, Fields.opB, hw]
    · unfold Tidy; rw [e_op, show isE (0xC1 : BitVec 8) = false from rfl]; subst hf
      simp [fields, hw] <;> (try grind))
theorem ginwRay (h : Hd) (d a b : Opnd) : Statement (.ginwRay h d a b) := by
  intro hw f hf
  obtain ⟨bnd, len, ixs⟩ := h
  obtain ⟨dn, di⟩ := d
  obtain ⟨an, ai⟩ := a
  obtain ⟨bn, bi⟩ := b
  injection hf with hf
  cases len <;> simp [Instr.wf, hdOk] at hw <;> (
    have e_op : f.op = 0xC2 := by subst hf; rfl
    refine ⟨?_, ?_⟩
    · unfold build buildEng; rw [e_op]; show (do some (Instr.ginwRay f.hd f.opD f.opA f.opB)) = _; subst hf
      simp [fields, Fields.hd, Fields.opD, Fields.opA, Fields.opB, hw]
    · unfold Tidy; rw [e_op, show isE (0xC2 : BitVec 8) = false from rfl]; subst hf
      simp [fields, hw] <;> (try grind))
theorem grasS (h : Hd) (vtid : Tid) (a : RegNo) : Statement (.grasS h vtid a) := by
  intro hw f hf
  obtain ⟨bnd, len, ixs⟩ := h
  injection hf with hf
  cases len <;> simp [Instr.wf, hdOk] at hw <;> (
    have e_op : f.op = 0xC4 := by subst hf; rfl
    refine ⟨?_, ?_⟩
    · unfold build buildEng; rw [e_op]; show (do some (Instr.grasS f.hd f.tid f.a)) = _; subst hf
      simp [fields, Fields.hd, hw]
    · unfold Tidy; rw [e_op, show isE (0xC4 : BitVec 8) = true from rfl]; subst hf
      simp [fields, hw])
theorem grasV (h : Hd) (vtid : Tid) (a : RegNo) : Statement (.grasV h vtid a) := by
  intro hw f hf
  obtain ⟨bnd, len, ixs⟩ := h
  injection hf with hf
  cases len <;> simp [Instr.wf, hdOk] at hw <;> (
    have e_op : f.op = 0xC5 := by subst hf; rfl
    refine ⟨?_, ?_⟩
    · unfold build buildEng; rw [e_op]; show (do some (Instr.grasV f.hd f.tid f.a)) = _; subst hf
      simp [fields, Fields.hd, hw]
    · unfold Tidy; rw [e_op, show isE (0xC5 : BitVec 8) = true from rfl]; subst hf
      simp [fields, hw])
theorem grep (h : Hd) (d a : RegNo) (vtid : Tid) : Statement (.grep h d a vtid) := by
  intro hw f hf
  obtain ⟨bnd, len, ixs⟩ := h
  injection hf with hf
  cases len <;> simp [Instr.wf, hdOk] at hw <;> (
    have e_op : f.op = 0xC6 := by subst hf; rfl
    refine ⟨?_, ?_⟩
    · unfold build buildEng; rw [e_op]; show (do some (Instr.grep f.hd f.d f.a f.tid)) = _; subst hf
      simp [fields, Fields.hd, hw]
    · unfold Tidy; rw [e_op, show isE (0xC6 : BitVec 8) = true from rfl]; subst hf
      simp [fields, hw])
theorem gqryV (h : Hd) (mode : QMode) (d a : Opnd) (tid : Tid) : Statement (.gqryV h mode d a tid) := by
  intro hw f hf
  obtain ⟨bnd, len, ixs⟩ := h
  obtain ⟨dn, di⟩ := d
  obtain ⟨an, ai⟩ := a
  injection hf with hf
  cases len <;> simp [Instr.wf, hdOk] at hw <;> (
    have e_op : f.op = 0xC7 := by subst hf; rfl
    refine ⟨?_, ?_⟩
    · unfold build buildEng; rw [e_op]; show (do some (Instr.gqryV f.hd (← qmodeOf f.m) f.opD f.opA f.tid)) = _; subst hf
      simp [fields, Fields.hd, Fields.opD, Fields.opA, hw]
    · unfold Tidy; rw [e_op, show isE (0xC7 : BitVec 8) = true from rfl]; subst hf
      simp [fields, hw])
theorem gqryS (h : Hd) (mode : QMode) (d a : Opnd) (tid : Tid) : Statement (.gqryS h mode d a tid) := by
  intro hw f hf
  obtain ⟨bnd, len, ixs⟩ := h
  obtain ⟨dn, di⟩ := d
  obtain ⟨an, ai⟩ := a
  injection hf with hf
  cases len <;> simp [Instr.wf, hdOk] at hw <;> (
    have e_op : f.op = 0xC8 := by subst hf; rfl
    refine ⟨?_, ?_⟩
    · unfold build buildEng; rw [e_op]; show (do some (Instr.gqryS f.hd (← qmodeOf f.m) f.opD f.opA f.tid)) = _; subst hf
      simp [fields, Fields.hd, Fields.opD, Fields.opA, hw]
    · unfold Tidy; rw [e_op, show isE (0xC8 : BitVec 8) = true from rfl]; subst hf
      simp [fields, hw])
theorem gpopV (h : Hd) (d a : Opnd) : Statement (.gpopV h d a) := by
  intro hw f hf
  obtain ⟨bnd, len, ixs⟩ := h
  obtain ⟨dn, di⟩ := d
  obtain ⟨an, ai⟩ := a
  injection hf with hf
  cases len <;> simp [Instr.wf, hdOk] at hw <;> (
    have e_op : f.op = 0xC9 := by subst hf; rfl
    refine ⟨?_, ?_⟩
    · unfold build buildEng; rw [e_op]; show (do some (Instr.gpopV f.hd f.opD f.opA)) = _; subst hf
      simp [fields, Fields.hd, Fields.opD, Fields.opA, hw]
    · unfold Tidy; rw [e_op, show isE (0xC9 : BitVec 8) = false from rfl]; subst hf
      simp [fields, hw] <;> (try grind))
theorem gpopS (h : Hd) (d a : Opnd) : Statement (.gpopS h d a) := by
  intro hw f hf
  obtain ⟨bnd, len, ixs⟩ := h
  obtain ⟨dn, di⟩ := d
  obtain ⟨an, ai⟩ := a
  injection hf with hf
  cases len <;> simp [Instr.wf, hdOk] at hw <;> (
    have e_op : f.op = 0xCA := by subst hf; rfl
    refine ⟨?_, ?_⟩
    · unfold build buildEng; rw [e_op]; show (do some (Instr.gpopS f.hd f.opD f.opA)) = _; subst hf
      simp [fields, Fields.hd, Fields.opD, Fields.opA, hw]
    · unfold Tidy; rw [e_op, show isE (0xCA : BitVec 8) = false from rfl]; subst hf
      simp [fields, hw] <;> (try grind))
theorem gbldVtx (h : Hd) (commit : Bool) (tid : Tid) (a b : RegNo) : Statement (.gbldVtx h commit tid a b) := by
  intro hw f hf
  obtain ⟨bnd, len, ixs⟩ := h
  injection hf with hf
  cases len <;> simp [Instr.wf, hdOk] at hw <;> (
    have e_op : f.op = 0xCB := by subst hf; rfl
    refine ⟨?_, ?_⟩
    · unfold build buildEng; rw [e_op]; show (do some (Instr.gbldVtx f.hd f.mode0 f.tid f.a f.b)) = _; subst hf
      simp [fields, Fields.hd, Fields.mode0, hw] <;> (try grind)
    · unfold Tidy; rw [e_op, show isE (0xCB : BitVec 8) = true from rfl]; subst hf
      simp [fields, hw])
theorem gbldTri (h : Hd) (commit : Bool) (tid : Tid) (a b : RegNo) : Statement (.gbldTri h commit tid a b) := by
  intro hw f hf
  obtain ⟨bnd, len, ixs⟩ := h
  injection hf with hf
  cases len <;> simp [Instr.wf, hdOk] at hw <;> (
    have e_op : f.op = 0xCC := by subst hf; rfl
    refine ⟨?_, ?_⟩
    · unfold build buildEng; rw [e_op]; show (do some (Instr.gbldTri f.hd f.mode0 f.tid f.a f.b)) = _; subst hf
      simp [fields, Fields.hd, Fields.mode0, hw] <;> (try grind)
    · unfold Tidy; rw [e_op, show isE (0xCC : BitVec 8) = true from rfl]; subst hf
      simp [fields, hw])
theorem gpatch (h : Hd) (d a : RegNo) (tid : Tid) : Statement (.gpatch h d a tid) := by
  intro hw f hf
  obtain ⟨bnd, len, ixs⟩ := h
  injection hf with hf
  cases len <;> simp [Instr.wf, hdOk] at hw <;> (
    have e_op : f.op = 0xCD := by subst hf; rfl
    refine ⟨?_, ?_⟩
    · unfold build buildEng; rw [e_op]; show (do some (Instr.gpatch f.hd f.d f.a f.tid)) = _; subst hf
      simp [fields, Fields.hd, hw]
    · unfold Tidy; rw [e_op, show isE (0xCD : BitVec 8) = true from rfl]; subst hf
      simp [fields, hw])
theorem srd (h : Hd) (d : RegNo) (reg : Byte) : Statement (.srd h d reg) := by
  intro hw f hf
  obtain ⟨bnd, len, ixs⟩ := h
  injection hf with hf
  cases len <;> simp [Instr.wf, hdOk] at hw <;> (
    have e_op : f.op = 0xE0 := by subst hf; rfl
    refine ⟨?_, ?_⟩
    · unfold build buildEng; rw [e_op]; show (do some (Instr.srd f.hd f.d f.byte9)) = _; subst hf
      simp [fields, Fields.hd, Fields.byte9, Fields.imm9, byte9, hw]
    · unfold Tidy; rw [e_op, show isE (0xE0 : BitVec 8) = false from rfl]; subst hf
      simp [fields, hw])
theorem swr (h : Hd) (reg : Byte) (a : RegNo) : Statement (.swr h reg a) := by
  intro hw f hf
  obtain ⟨bnd, len, ixs⟩ := h
  injection hf with hf
  cases len <;> simp [Instr.wf, hdOk] at hw <;> (
    have e_op : f.op = 0xE1 := by subst hf; rfl
    refine ⟨?_, ?_⟩
    · unfold build buildEng; rw [e_op]; show (do some (Instr.swr f.hd f.byte9 f.a)) = _; subst hf
      simp [fields, Fields.hd, Fields.byte9, Fields.imm9, byte9, hw]
    · unfold Tidy; rw [e_op, show isE (0xE1 : BitVec 8) = false from rfl]; subst hf
      simp [fields, hw])
theorem srdPair (h : Hd) (d : RegNo) (reg : Byte) : Statement (.srdPair h d reg) := by
  intro hw f hf
  obtain ⟨bnd, len, ixs⟩ := h
  injection hf with hf
  cases len <;> simp [Instr.wf, hdOk] at hw <;> (
    have e_op : f.op = 0xE2 := by subst hf; rfl
    refine ⟨?_, ?_⟩
    · unfold build buildEng; rw [e_op]; show (do some (Instr.srdPair f.hd f.d f.byte9)) = _; subst hf
      simp [fields, Fields.hd, Fields.byte9, Fields.imm9, byte9, hw]
    · unfold Tidy; rw [e_op, show isE (0xE2 : BitVec 8) = false from rfl]; subst hf
      simp [fields, hw])
theorem swrPair (h : Hd) (reg : Byte) (a : RegNo) : Statement (.swrPair h reg a) := by
  intro hw f hf
  obtain ⟨bnd, len, ixs⟩ := h
  injection hf with hf
  cases len <;> simp [Instr.wf, hdOk] at hw <;> (
    have e_op : f.op = 0xE3 := by subst hf; rfl
    refine ⟨?_, ?_⟩
    · unfold build buildEng; rw [e_op]; show (do some (Instr.swrPair f.hd f.byte9 f.a)) = _; subst hf
      simp [fields, Fields.hd, Fields.byte9, Fields.imm9, byte9, hw]
    · unfold Tidy; rw [e_op, show isE (0xE3 : BitVec 8) = false from rfl]; subst hf
      simp [fields, hw])
end Sys2Proof.Laws.Encoding
end

