-- ==== Sys2Proof/Laws/Words.lean ====
section
/-!
SUPPORT. Words and fields: every field reads back from the words that hold it, and the words of tidy fields, whatever words
follow, have those fields.
-/
namespace Sys2Proof.Laws.Encoding
open Sys2Proof Sys2Proof.Machine

theorem ext_low {m n : Nat} (x : BitVec m) (y : BitVec n) (k w : Nat) (h : k + w ≤ n) :
    (x ++ y).extractLsb' k w = y.extractLsb' k w := by
  apply BitVec.eq_of_getLsbD_eq; intro i hi
  simp only [BitVec.getLsbD_extractLsb', BitVec.getLsbD_append, show k + i < n by omega, if_true]

theorem ext_high {m n : Nat} (x : BitVec m) (y : BitVec n) (k w : Nat) (h : n ≤ k) :
    (x ++ y).extractLsb' k w = x.extractLsb' (k - n) w := by
  apply BitVec.eq_of_getLsbD_eq; intro i hi
  simp only [BitVec.getLsbD_extractLsb', BitVec.getLsbD_append, show ¬k + i < n by omega, if_false, show k + i - n = k - n + i by omega]

theorem bit_low {m n : Nat} (x : BitVec m) (y : BitVec n) (k : Nat) (h : k < n) : (x ++ y).getLsbD k = y.getLsbD k := by
  simp only [BitVec.getLsbD_append, h, if_true]
theorem bit_high {m n : Nat} (x : BitVec m) (y : BitVec n) (k : Nat) (h : n ≤ k) : (x ++ y).getLsbD k = x.getLsbD (k - n) := by
  simp only [BitVec.getLsbD_append, show ¬k < n by omega, if_false]
theorem bit_ofBool (b : Bool) : (BitVec.ofBool b).getLsbD 0 = b := by cases b <;> rfl
theorem ext_self {n : Nat} (x : BitVec n) : x.extractLsb' 0 n = x := by simp

/-- Fields of word 0 read back from it. -/
theorem word0_read (f : Fields) : f.word0.extractLsb' 0 2 = lenCode f.len ∧ wbit f.word0 2 = f.bnd ∧ f.word0.extractLsb' 3 8 = f.op ∧
    f.word0.extractLsb' 11 6 = f.d ∧ f.word0.extractLsb' 17 6 = f.a ∧ f.word0.extractLsb' 23 6 = f.b ∧ f.word0.extractLsb' 29 3 = f.m := by
  simp (disch := omega) only [Fields.word0, wbit, ext_low, ext_high, bit_low, bit_high, bit_ofBool, ext_self, Nat.reduceSub, and_true]

/-- Fields of word 1 read back from it. -/
theorem word1_read (f : Fields) : wbit f.word1 31 = f.sc ∧ wbit f.word1 30 = f.bimm ∧ f.word1.extractLsb' 26 4 = f.opf ∧
    f.word1.extractLsb' 23 3 = f.space ∧ f.word1.extractLsb' 21 2 = f.order ∧ f.word1.extractLsb' 18 3 = f.scope ∧
    f.word1.extractLsb' 12 6 = f.ty ∧ f.word1.extractLsb' 10 2 = f.ixs ∧ wbit f.word1 9 = f.indD ∧ wbit f.word1 8 = f.indA ∧
    wbit f.word1 7 = f.indB ∧ wbit f.word1 6 = f.indC ∧ f.word1.extractLsb' 0 6 = f.c := by
  simp (disch := omega) only [Fields.word1, wbit, ext_low, ext_high, bit_low, bit_high, bit_ofBool, ext_self, Nat.reduceSub, and_true]

/-- Fields of word 2 in the E layout read back from it. -/
theorem word2_read (f : Fields) (h : isE f.op = true) : f.word2.extractLsb' 25 7 = f.rsvd ∧ f.word2.extractLsb' 17 8 = f.mode ∧
    f.word2.extractLsb' 14 3 = f.accf ∧ f.word2.extractLsb' 10 4 = f.ps ∧ f.word2.extractLsb' 0 10 = f.tid := by
  simp (disch := omega) only [Fields.word2, h, if_true, ext_low, ext_high, ext_self, Nat.reduceSub, and_true]

theorem lenOf_code (l : Len) : lenOf (lenCode l) = l := by cases l <;> rfl
theorem lit_read (v : DWord) : (v.extractLsb' 32 32 ++ v.extractLsb' 0 32 : BitVec 64) = v :=
  (BitVec.extractLsb'_append_extractLsb'_eq_extractLsb' (by omega)).trans (by simp)

/-- The words of tidy fields, whatever words follow, have those fields. -/
theorem frame_words (f : Fields) (h : Tidy f) (rest : List Word) : frame (f.words ++ rest) = some (f, rest) := by
  obtain ⟨a1, a2, a3, a4, a5, a6, a7⟩ := word0_read f
  obtain ⟨b1, b2, b3, b4, b5, b6, b7, b8, b9, b10, b11, b12, b13⟩ := word1_read f
  have c := word2_read f
  have hl := lenOf_code f.len
  have hlit := lit_read f.lit
  have key : ∀ w1 w2 l, (if hasW1 f.len then w1 = f.word1 ∧ w2 = f.word2 else w1 = 0 ∧ w2 = 0) → (if hasLit f.len then l = f.lit else l = 0) →
      fieldsOf f.len f.word0 w1 w2 l = f := by
    intro w1 w2 l hw hll
    obtain ⟨t1, t2, t3⟩ := h
    cases hE : isE f.op <;> cases h1 : hasW1 f.len <;> cases h2 : hasLit f.len <;>
      simp only [hE, h1, h2, Bool.false_eq_true, if_false, if_true, forall_const, false_implies, reduceCtorEq] at hw hll t1 t2 t3 c <;>
      subst hll <;> obtain ⟨rfl, rfl⟩ := hw <;>
      simp only [fieldsOf, a2, a3, a4, a5, a6, a7, b1, b2, b3, b4, b5, b6, b7, b8, b9, b10, b11, b12, b13, hE, if_true, if_false,
        Bool.false_eq_true] <;> (try simp only [c]) <;>
      (clear a1 a2 a3 a4 a5 a6 a7 b1 b2 b3 b4 b5 b6 b7 b8 b9 b10 b11 b12 b13 c hl hlit; obtain ⟨bnd, len, op, m, b, a, d, sc, bimm, opf, space, order, scope, ty, ixs, indD, indA, indB, indC, cc, imm32, rsvd, mode, accf,
        ps, tid, lit⟩ := f; simp_all [Fields.word2, wbit])
  have key := key
  cases hlen : f.len <;> simp only [hlen, hasW1_l0, hasW1_l1, hasW1_l2, hasW1_l3, hasLit_l0, hasLit_l1, hasLit_l2, hasLit_l3, if_true,
    if_false, Bool.false_eq_true] at key <;>
    simp only [Fields.words, hlen, List.cons_append, List.nil_append, frame, a1]
  · show some (fieldsOf .l0 f.word0 0 0 0, rest) = _; rw [key 0 0 0 ⟨rfl, rfl⟩ rfl]
  · show some (fieldsOf .l1 f.word0 f.word1 f.word2 0, rest) = _; rw [key _ _ 0 ⟨rfl, rfl⟩ rfl]
  · show some (fieldsOf .l2 f.word0 0 0 (f.lit.extractLsb' 32 32 ++ f.lit.extractLsb' 0 32), rest) = _
    rw [lit_read, key 0 0 _ ⟨rfl, rfl⟩ rfl]
  · show some (fieldsOf .l3 f.word0 f.word1 f.word2 (f.lit.extractLsb' 32 32 ++ f.lit.extractLsb' 0 32), rest) = _
    rw [lit_read, key _ _ _ ⟨rfl, rfl⟩ rfl]

end Sys2Proof.Laws.Encoding
end

