-- ==== Sys2Proof/Tests/Slice0.lean ====
section
/-!
SUPPORT. The model's own tests: ill-formed terms, words of the spec's encodings bit by bit, single steps, and for each
statement a state and operands that meet its hypotheses.
-/

set_option maxRecDepth 20000

namespace Sys2Proof.Tests

open Sys2Proof Sys2Proof.Machine

/-! ## Short names -/

def h0 : Hd := ⟨false, .l0, 0⟩
def h1 : Hd := ⟨false, .l1, 0⟩
def h2 : Hd := ⟨false, .l2, 0⟩
def h3 : Hd := ⟨false, .l3, 0⟩
def r (n : RegNo) : Opnd := ⟨n, false⟩
def x (n : RegNo) : Opnd := ⟨n, true⟩
def b (n : RegNo) : SrcB := .reg ⟨n, false⟩
def plainMem : MemAttr := ⟨false, .rlx, .dev, .gv⟩
def spMem : MemAttr := ⟨false, .rlx, .dev, .sp⟩

/-! ## Ill-formed terms: each check of WellFormed refuses one -/

theorem test_wf_refuses_lengths :
    ([.nop h1, .fence h0 .acq .dev, .sadd ⟨false, .l3, 0⟩ .n32 (r 9) (r 9) (b 9), .vsel h0 .b32 (r 9) (r 9) (b 9) (r 9),
      .sadd h0 .n32 (x 9) (r 9) (b 9), .sadd ⟨false, .l1, 1⟩ .n32 (r 9) (r 9) (b 9)] : List Instr).all (fun i => !i.wf) = true := by
  decide

theorem test_wf_refuses_types :
    ([.sadd h0 .e8m0 (r 9) (r 9) (b 9), .sadd h1 .f32 (r 9) (r 9) (b 9), .saddImm h0 .n32 (r 9) (r 9) (.i9 1),
      .scmp h1 .uno .i32 (r 9) (r 9) (b 9), .vabs h1 .n32 (r 9) (r 9), .vcvt h1 .cb8 .f32 .ne false (r 9) (r 9) (r 0),
      .xred h1 .and .f32 (r 9) (r 9), .mma h1 .f64 0 (r 9) 0 false (r 0), .mrdV h1 .f32 true false (r 9) 0 (b 9)] :
      List Instr).all (fun i => !i.wf) = true := by decide

theorem test_wf_refuses_immediates :
    ([.sadd h0 .n32 (r 9) (r 9) (.imm 1), .sadd h2 .n32 (r 9) (r 9) (.lit 0x100000000), .vmad h1 .f32 .ne (r 9) (r 9) (.imm 1) (r 9),
      .ldVA ⟨false, .l2, 0⟩ plainMem .b32 (r 9) (r 10) (.lit 0), .saddImm h0 .i32 (r 9) (r 9) (.i32 1),
      .call h0 0 (.o32 0), .call h0 57 (.o15 0), .wait h0 .loads (.i9 0x1FF), .wait h1 .loads (.i32 0x1000000),
      .sshlImm h0 .i32 (r 9) (r 9) (.i9 32), .vshrImm h0 .n32 (r 9) (r 9) (.i9 0x1FF), .sbfeImm h1 .n32 (r 9) (r 9) (.i32 0x400),
      .loop h0 3 (r 9) (.i9 1), .loop h0 0 (r 9) (.i9 0), .xgetImm h0 9 9 96, .mrdV h3 .f32 false false (r 9) 0 (.lit 0x100000000),
      .mrdV h3 .f16 true false (r 9) 0 (.lit 0)] : List Instr).all (fun i => !i.wf) = true := by decide

theorem test_wf_refuses_attributes :
    ([.vadd h0 .f32 .tz (r 9) (r 9) (b 9), .vadd h1 .i32 .tz (r 9) (r 9) (b 9), .vadd h1 .f32 .sto (r 9) (r 9) (b 9),
      .vcvt h1 .i32 .f32 .sto false (r 9) (r 9) (r 9), .vcvt h1 .f32 .i32 .ne false (r 9) (r 9) (r 9),
      .stVA h1 ⟨true, .rlx, .dev, .gv⟩ .b32 (r 9) (r 10) (b 9), .stVA h1 ⟨false, .acq, .dev, .gv⟩ .b32 (r 9) (r 10) (b 9),
      .ldVA h1 ⟨false, .rlx, .dev, .rm⟩ .b32 (r 9) (r 10) (b 9), .ldVA h0 ⟨false, .acq, .dev, .gv⟩ .b32 (r 9) (r 10) (b 9),
      .ldl h1 ⟨false, .rlx, .core, .gv⟩ (r 10) (b 9), .atomS h1 .add plainMem .i32 (r 9) (r 10) (r 9) (r 3),
      .atomS h0 .cas plainMem .i32 (r 9) (r 10) (r 9) (r 3), .ratomS h1 .add ⟨false, .rlx, .dev, .rm⟩ .i32 (r 9) (r 10) (r 9) (r 3),
      .flush h1 .wb .gang, .flush h0 .wb .sys, .tlbinv h0 false .dev 1, .fence h1 .rlx .dev,
      .xscan h0 .add true false .i32 (r 9) (r 9) (r 9), .xscan h1 .add false false .i32 (r 9) (r 9) (r 9)] :
      List Instr).all (fun i => !i.wf) = true := by decide

theorem test_wf_refuses_fields :
    ([.mclr h1 5, .mrdV h1 .f16 false true (r 9) 0 (b 9), .mrdS h1 .f16 .qw false false (r 10) 0 (b 9), .srd h0 9 0x0A, .swr h0 0x14 9, .mma h1 .f16 0 (r 9) 0 false (r 9), .moduleReset, .drain (.front 0) 0] :
      List Instr).all (fun i => !i.wf) = true := by decide

theorem test_lowest_register :
    ([.deq h0 9 9 2, .enq h0 2 9 9 0, .dqpop h0 2 9 false, .cpy h0 .lin 0 2, .cpy h0 .lin 2 3, .gqryS h1 .near (r 9) (r 2) 0,
      .gpopS h0 (r 2) (r 9)] : List Instr).all (fun i => i.wf && !lowestOk i) = true := by decide

/-! ## Decoding: words that the spec prints, or that are written out from its encoding tables -/

/-- R126: loop lc1, s12, lend. -/
theorem test_decode_loop : decodeTableWord 32 0x02980868 = some (.loop h0 1 (r 12) (.i9 5)) := by decide
/-- R346: emit s12, v16 and enq s20, s12, s13, 4. -/
theorem test_decode_queues : decodeTableWord 32 0x081800E0 = some (.emit h0 12 16) ∧
    decodeTableWord 32 0x6698A0C8 = some (.enq h0 20 12 13 3) := by decide
/-- R336: cpy.lin s24, s40 and cpy.s2d s24, s40, 12. -/
theorem test_decode_copies : decodeTableWord 32 0x0050C480 = some (.cpy h0 .lin 24 40) ∧
    decodeTableWord 96 0x0000000C000000002050C489 = some (.cpyTid h1 .s2d 24 40 12) := by decide
/-- R395: wait.loads 3 and wait.copies 1000. -/
theorem test_decode_waits : decodeTableWord 32 0x01800098 = some (.wait h0 .loads (.i9 3)) ∧
    decodeTableWord 96 0x000003E80000000000001099 = some (.wait h1 .copies (.i32 1000)) := by decide
/-- R71, R72: vmad.f32, fence.sc.sys and vadd.f32 with the literal 1.5. -/
theorem test_decode_lengths : decodeTableWord 96 0x000000000000B0170B2AA221 = some (.vmad h1 .f32 .ne (r 20) (r 21) (b 22) (r 23)) ∧
    decodeTableWord 96 0x000000008070000000000081 = some (.fence h1 .sc .sys) ∧
    decodeTableWord 96 0x000000003FC0000000144A0A = some (.vadd h2 .f32 .ne (r 9) (r 10) (.lit 0x3FC00000)) := by decide
/-- R308: ratom.add.i32.rm.pod v9, v20, v11, s12. -/
theorem test_decode_ratom :
    decodeTableWord 96 0x000000000214300C05A84C51 = some (.ratomV h1 .add ⟨false, .rlx, .pod, .rm⟩ .i32 (r 9) (r 20) (r 11) (r 12)) := by
  decide
/-- R253, R258: gbld.tri.commit 5, v14, s30 and gpatch v12, v20, 9. -/
theorem test_decode_geometry : decodeTableWord 96 0x00020005000000000F1C0661 = some (.gbldTri h1 true 5 14 30) ∧
    decodeTableWord 96 0x000000090000000000286669 = some (.gpatch h1 12 20 9) := by decide
/-- R225: mrd.cmp.bf16 to memory at s20, control pair s12. -/
theorem test_decode_mrd : decodeTableWord 96 0x000000000400A00006280519 = some (.mrdS h1 .bf16 .gv true false (r 20) 0 (b 12)) := by
  decide
/-- Words of no instruction: all zeros, ones, and a shift by 32. -/
theorem test_decode_refuses : decodeTableWord 32 0 = none ∧ decodeTableWord 32 0xFFFFFFFF = none ∧ decodeWords [] = none := by decide

/-! ## States for the witnesses -/

/-- A machine whose one split stands at some words; scratchpad region of 4 KiB, one page of 64 MiB. -/
def at' (ws : List Word) : State := State.reset.bareMachine ws
/-- At a NOP. -/
def M0 : State := at' [0x70]
/-- The head run's agent changed. -/
def tune (s : State) (f : Issue → Issue) : State := match s.issuer h0 with | some m => (f m).commit | none => s
/-- Something holds of the head run's agent at a header. -/
def meets (s : State) (h : Hd) (p : Issue → Bool) : Bool := (s.issuer h).any p
/-- An instruction passes the checks of R75. -/
def goes (m : Issue) (i : Instr) : Bool := match m.verdict i with | .go => true | _ => false

theorem goes_iff {m : Issue} {i : Instr} : goes m i = true ↔ m.verdict i = .go := by
  unfold goes; split <;> simp_all

/-- What the witnesses below evaluate to is a witness of Issues and of what else they ask of the agent. -/
theorem issues_of_meets {s : State} {h : Hd} {i : Instr} {p : Issue → Bool} (w : meets s h (fun m => goes m i && p m) = true) :
    ∃ m, Issues i h s m ∧ p m = true := by
  unfold meets at w
  cases hm : s.issuer h with
  | none => simp [hm] at w
  | some m => simp [hm] at w; exact ⟨m, ⟨hm, goes_iff.1 w.1⟩, w.2⟩

/-- Every instruction of a list passes the checks at a state. -/
def allGo (s : State) (h : Hd) (l : List Instr) : Bool := meets s h fun m => l.all fun i => goes m i

def setS (n : Nat) (w : Word) (m : Issue) : Issue := m.sput n w
def setV (n : Nat) (f : Nat → Word) (m : Issue) : Issue := m.vput n m.active f
/-- A load entry that is to write s9 and lane 0 of v9. -/
def pendingLoad : Entry := { loadEntry 0 0 0 4 with dest := .scal (.slot 9) (.slot 9) }
def busy (m : Issue) : Issue := { m with g := m.g.enqueue [pendingLoad] }

/-! ## Witnesses: decoding and stepping -/

theorem witness_DecodeEncode : (Instr.sxor h0 .b32 (r 14) (r 12) (b 13)).wf = true ∧
    (Instr.mrdV h3 .f32 false false (r 9) 4 (.lit 0xFFFFFFFF)).wf = true := by decide
theorem witness_EncodeDecode : decodeWords [0x70, 5] = some (.nop h0, [5]) := by decide
theorem witness_UnassignedOpcodes_words :
    ([0x00, 0x3F, 0x5F, 0x8F, 0x93, 0x9F, 0xA7, 0xAA, 0xAB, 0xAF, 0xBF, 0xC3, 0xCE, 0xDF, 0xE4, 0xFF] : List Nat).all
      (fun n => ((List.range 4).all fun l => (decodeWords [BitVec.ofNat 32 (8 * n + l), 0, 0, 0, 0]).isNone)) = true := by decide
theorem witness_UnassignedOpcodes_step :
    meets (at' [0]) h0 (fun m => m.fuse.isNone && decide ((at' [0]).runCount = 0) && (at' [0]).agenda.isEmpty &&
      (match (m.words m.k.pc).2 with | .ok ws => (decodeWords ws).isNone | .error _ => false)) = true := by decide
theorem witness_StepRuns :
    meets M0 h0 (fun m => m.fuse.isNone && decide (M0.runCount = 0) && M0.agenda.isEmpty && (m.g.decodeTrap m.h (.nop h0)).isNone &&
      (match (m.words m.k.pc).2 with | .ok ws => decide ((decodeWords ws).map (·.1) = some (.nop h0)) | .error _ => false)) = true ∧
    encode .powerBubble = [] := by decide
theorem witness_MemoryKeepsForm : Memory.wf State.reset.mem = true := by decide
theorem witness_ChecksAtIssue :
    meets M0 h0 (fun m => (match m.verdict (.nop h1) with | .trap .illegal => true | _ => false) &&
      (match m.verdict (.deq h0 0 0 63) with | .trap .regbounds => true | _ => false) && goes m (.nop h0)) = true ∧
    meets (tune M0 busy) h0 (fun m => match m.verdict (.smov h0 .b32 (r 10) (r 9)) with | .stall => true | _ => false) = true := by
  decide
/-- At an instruction at which the innermost of two loop levels ends, and at one where none ends. -/
def inLoop (n : Word) (m : Issue) : Issue :=
  let l : Level := { ctr := 1, start := m.k.pc - 4, last := m.k.pc, buf := [], bufOn := false, armed := false, discard := false }
  let o : Level := { l with ctr := 0, last := m.k.pc + 8 }
  { m with k := { m.k.lcSet 1 n with levels := [l, o] } }
theorem witness_SequenceAndLoopEdge :
    meets M0 h0 (fun m => m.k.levels.all fun l => l.last != m.k.pc) = true ∧
    meets (tune M0 (inLoop 1)) h0 (fun m => match m.k.levels with
      | l :: q => decide (l.ctr.toNat < 3) && l.last == m.k.pc && m.k.lcGet 1 == 1 && q.all fun y => y.last != m.k.pc
      | [] => false) = true ∧
    meets (tune M0 (inLoop 0)) h0 (fun m => m.k.lcGet 1 != 1) = true := by decide

/-! ## Witnesses: scalars and vectors -/

theorem witness_ScalarResults :
    allGo M0 h0 [.smov h0 .n32 (r 9) (r 0), .sadd h0 .n32 (r 9) (r 63) (b 9), .ssub h0 .n32 (r 9) (r 9) (b 9),
      .smul h0 .i32 (r 9) (r 9) (b 9), .smin h0 .i32 (r 9) (r 9) (b 9), .smax h0 .i32 (r 9) (r 9) (b 9),
      .sand h0 .b32 (r 2) (r 9) (b 9), .sor h0 .b32 (r 9) (r 9) (b 9), .sxor h0 .b32 (r 9) (r 9) (b 9),
      .scmp h0 .eq .i32 (r 9) (r 9) (b 9), .sbfe h0 .n32 (r 9) (r 9) (b 9), .spopc h0 .n32 (r 9) (r 9), .sclz h0 .n32 (r 9) (r 9),
      .smovImm h0 .i32 (r 9) (.i9 0x100), .saddImm h0 .i32 (r 9) (r 9) (.i9 1), .ssubImm h0 .i32 (r 9) (r 9) (.i9 1),
      .smulImm h0 .i32 (r 9) (r 9) (.i9 1), .sminImm h0 .i32 (r 9) (r 9) (.i9 1), .smaxImm h0 .i32 (r 9) (r 9) (.i9 1),
      .sandImm h0 .i32 (r 9) (r 9) (.i9 1), .sorImm h0 .i32 (r 9) (r 9) (.i9 1), .sxorImm h0 .i32 (r 9) (r 9) (.i9 1),
      .sbfeImm h0 .n32 (r 9) (r 9) (.i9 0x1FF)] = true ∧
    allGo M0 h1 [.ssel h1 .n64 (r 62) (r 9) (b 9) (r 9), .sbfi h1 .n64 (r 9) (r 9) (b 63) (r 9)] = true := by decide
theorem witness_IntegerDivision :
    allGo M0 h0 [.sdiv h0 .i32 (r 9) (r 9) (b 9), .sdivImm h0 .i32 (r 9) (r 9) (.i9 0), .vdiv h0 .i32 .ne (r 9) (r 9) (b 9),
      .vdivSb h0 .n32 .ne (r 9) (r 9) (b 9)] = true ∧ tyFloat .i32 = false := by decide
theorem witness_Shifts :
    allGo M0 h0 [.sshl h0 .n32 (r 9) (r 9) (b 9), .sshr h0 .i32 (r 9) (r 9) (b 9), .sshlImm h0 .i32 (r 9) (r 9) (.i9 31),
      .sshrImm h0 .i32 (r 9) (r 9) (.i9 0), .vshl h0 .n32 (r 9) (r 9) (b 9), .vshr h0 .n32 (r 9) (r 9) (b 9),
      .vshlSb h0 .n32 (r 9) (r 9) (b 9), .vshrSb h0 .i32 (r 9) (r 9) (b 9), .vshlImm h0 .b32 (r 9) (r 9) (.i9 31),
      .vshrImm h0 .n32 (r 9) (r 9) (.i9 0)] = true ∧ immInt (.i9 0x1FF) < 0 ∧ (tyBits .i32 : Int) ≤ immInt (.i9 32) ∧
    (M0.issuer h0).isSome = true := by decide
theorem witness_ScalarFrame : scalarDest (.srdPair h0 9 0x05) = some (h0, .n64, plain 9) ∧ allGo M0 h0 [.srdPair h0 9 0x05] = true := by
  decide
theorem witness_RegisterHalves :
    meets M0 h0 (fun m => !m.g.isFront && decide (63 ≤ 7 + m.g.span) && decide (m.g.span ≤ m.g.ring.length)) = true := by decide
theorem witness_VectorIntegerResults :
    allGo M0 h0 [.vadd h0 .i32 .ne (r 63) (r 9) (b 9), .vsub h0 .i32 .ne (r 9) (r 9) (b 9), .vmul h0 .i32 .ne (r 9) (r 9) (b 9),
      .vmin h0 .i32 (r 9) (r 9) (b 9), .vmax h0 .i32 (r 9) (r 9) (b 9), .vand h0 .n32 (r 9) (r 9) (b 9), .vor h0 .n32 (r 9) (r 9) (b 9),
      .vxor h0 .n32 (r 9) (r 9) (b 9), .vaddSb h0 .i32 .ne (r 9) (r 9) (b 9), .vsubSb h0 .i32 .ne (r 9) (r 9) (b 9),
      .vmulSb h0 .i32 .ne (r 9) (r 9) (b 9), .vminSb h0 .i32 (r 9) (r 9) (b 9), .vmaxSb h0 .i32 (r 9) (r 9) (b 9),
      .vandSb h0 .n32 (r 9) (r 9) (b 9), .vorSb h0 .n32 (r 9) (r 9) (b 9), .vxorSb h0 .n32 (r 9) (r 9) (b 9),
      .vaddImm h0 .i32 (r 9) (r 9) (.i9 1), .vminImm h0 .i32 (r 9) (r 9) (.i9 1), .vmaxImm h0 .i32 (r 9) (r 9) (.i9 1),
      .vandImm h0 .b32 (r 9) (r 9) (.i9 1), .vorImm h0 .b32 (r 9) (r 9) (.i9 1), .vxorImm h0 .b32 (r 9) (r 9) (.i9 1)] = true ∧
    allGo M0 h1 [.vmad h1 .i64 .ne (r 62) (r 9) (b 9) (r 9), .vmadSb h1 .i32 .ne (r 9) (r 9) (b 9) (r 9)] = true := by decide
theorem witness_VectorMoveResults :
    allGo M0 h0 [.vmov h0 .n32 (r 9) (r 9), .vmovSb h0 .n32 (r 9) (r 9), .vmovImm h0 .b32 (r 9) (.i9 1), .vbfe h0 .n32 (r 9) (r 9) (b 9),
      .vbfeSb h0 .n32 (r 9) (r 9) (b 9), .vabs h0 .i32 (r 9) (r 9), .vneg h0 .f32 (r 9) (r 9), .vpopc h0 .n32 (r 9) (r 9),
      .vclz h0 .n32 (r 9) (r 9), .vrnd h0 (r 9) (r 10)] = true ∧
    allGo M0 h1 [.vsel h1 .bf16 (r 9) (r 9) (b 9) (r 9), .vselSb h1 .f16 (r 9) (r 9) (b 9) (r 9), .vbfi h1 .n32 (r 9) (r 9) (b 9) (r 9),
      .vbfiSb h1 .n32 (r 9) (r 9) (b 9) (r 9)] = true := by decide
theorem witness_ClassCodes : allGo M0 h1 [.vclass h1 .f64 (r 63) (r 62), .vclass h1 .e4m3 (r 9) (r 9)] = true := by decide
/-- FPMODE with the trap of every flag enabled. -/
def trapsOn (m : Issue) : Issue := { m with g := { m.g with fpmode := 0x1F } }
/-- A division of 0 by 0 in every lane. -/
theorem witness_FloatResults :
    meets M0 h0 (fun m => goes m (.vdiv h0 .f32 .ne (r 9) (r 10) (b 11)) &&
      !m.g.fpTraps (laneFlags m fun l => arith2 .div .f32 m.g.fpmode .ne (m.vval .f32 10 l) (m.vval .f32 11 l))) = true ∧
    meets (tune M0 trapsOn) h0 (fun m => goes m (.vdiv h0 .f32 .ne (r 9) (r 10) (b 11)) &&
      m.g.fpTraps (laneFlags m fun l => arith2 .div .f32 m.g.fpmode .ne (m.vval .f32 10 l) (m.vval .f32 11 l))) = true ∧
    allGo M0 h0 [.vadd h0 .f32 .ne (r 9) (r 9) (b 9), .vsub h0 .f32 .ne (r 9) (r 9) (b 9), .vmul h0 .f32 .ne (r 9) (r 9) (b 9),
      .vmin h0 .f32 (r 9) (r 9) (b 9), .vmax h0 .f32 (r 9) (r 9) (b 9), .vaddSb h0 .f32 .ne (r 9) (r 9) (b 9),
      .vsubSb h0 .f32 .ne (r 9) (r 9) (b 9), .vmulSb h0 .f32 .ne (r 9) (r 9) (b 9), .vdivSb h0 .f32 .ne (r 9) (r 9) (b 9),
      .vminSb h0 .f32 (r 9) (r 9) (b 9), .vmaxSb h0 .f32 (r 9) (r 9) (b 9), .vcmp h0 .uno .f32 (r 9) (r 9) (b 9),
      .vcmpSb h0 .lt .f32 (r 9) (r 9) (b 9), .vrcp h0 .f32 .ne (r 9) (r 9), .vrsq h0 .f32 .ne (r 9) (r 9), .vsqrt h0 .f32 .ne (r 9) (r 9),
      .vexp2 h0 .f32 .ne (r 9) (r 9), .vlog2 h0 .f32 .ne (r 9) (r 9), .vsin h0 .f32 .ne (r 9) (r 9), .vcos h0 .f32 .ne (r 9) (r 9)] = true ∧
    allGo M0 h1 [.vmad h1 .f64 .tz (r 9) (r 9) (b 9) (r 9), .vmadSb h1 .f32 .ne (r 9) (r 9) (b 9) (r 9),
      .vcvt h1 .f16 .f32 .sto false (r 9) (r 9) (r 10)] = true := by decide
theorem witness_CrossLaneResults :
    allGo (tune M0 (setS 12 96)) h0 [.xsel h0 .b32 (r 9) (r 10) (r 11), .xselSb h0 .b32 (r 9) (r 10) (r 11), .xget h0 .b32 (r 9) (r 10) (r 11),
      .xget h0 .b32 (r 9) (r 10) (r 12), .xgetImm h0 9 10 95, .xred h0 .add .i32 (r 9) (r 10), .xscan h0 .add false false .i32 (r 9) (r 10) (r 0)]
      = true ∧
    meets (tune M0 (setS 12 96)) h0 (fun m => decide (95 < (m.sget 12).toNat) && decide ((m.sget 11).toNat ≤ 95)) = true ∧
    meets (tune M0 fun m => trapsOn (setV 10 (fun _ => 0x7F800001) m)) h1 (fun m => goes m (.xred h1 .add .f32 (r 9) (r 10)) &&
      m.g.fpTraps (reduce .add .f32 (m.active.map (m.vval .f32 10))).2 &&
      goes m (.xscan h1 .add false false .f32 (r 9) (r 10) (r 0)) &&
      m.g.fpTraps (scan .add false .f32 none (m.active.map fun l => (l, false, m.vval .f32 10 l))).2) = true := by decide
theorem witness_VectorFrame : vectorDest (.vcmp h0 .lt .f32 (r 9) (r 9) (b 9)) = some (h0, .b32, r 9) ∧
    meets M0 h0 (fun m => goes m (.vcmp h0 .lt .f32 (r 9) (r 9) (b 9)) && m.g.fpmode &&& 0x1F == 0) = true := by decide
theorem witness_SpecialRegisters :
    allGo M0 h0 [.srd h0 9 0x05, .srdPair h0 62 0x10, .swr h0 0x07 9, .swr h0 0x08 9, .swr h0 0x10 9, .swr h0 0x11 9, .swr h0 0x12 9,
      .swr h0 0x05 9, .swrPair h0 0x10 9, .swrPair h0 0x12 9, .swrPair h0 0x07 9] = true ∧
    meets (tune M0 (setS 10 1)) h0 (fun m => goes m (.swrPair h0 0x07 9) && decide (sregWidth 0x07 = some 32) && m.sget 10 != 0) = true ∧
    meets (tune M0 (setS 9 2)) h0 (fun m => goes m (.swr h0 0x10 9) && (m.sget 9).setWidth 2 != (0 : BitVec 2)) = true := by decide

/-! ## Witnesses: flow -/

/-- Lanes below n of v9 hold 1, the others 0. -/
def some9 (n : Nat) : Issue → Issue := setV 9 fun l => if l < n then 1 else 0
theorem witness_Branches :
    meets (tune M0 (setS 9 1)) h0 (fun m => goes m (.brc h0 (r 9) (.i9 1)) && goes m (.brz h0 (r 9) (.i9 0x100)) && m.sget 9 != 0) = true ∧
    meets M0 h0 (fun m => goes m (.brc h0 (r 9) (.i9 1)) && goes m (.brz h0 (r 9) (.i9 1)) && m.sget 9 == 0 && goes m (.bra h0 0x100000)) =
      true ∧
    meets (tune M0 (some9 96)) h0 (fun m => goes m (.brd h0 (r 9) (.i9 1)) && !m.active.isEmpty &&
      m.active.all fun l => lane (m.vget 9) l != 0) = true ∧
    meets M0 h0 (fun m => goes m (.brd h0 (r 9) (.i9 1)) && m.active.all fun l => lane (m.vget 9) l == 0) = true ∧
    meets (tune M0 (setS 10 0x101)) h0 (fun m => goes m (.jmpiS h0 12) && (m.sget2 12).setWidth 2 == (0 : BitVec 2) &&
      goes m (.jmpiS h0 10) && (m.sget2 10).setWidth 2 == (1 : BitVec 2)) = true ∧
    meets (tune M0 (setV 9 fun _ => 0x102)) h0 (fun m => goes m (.jmpiV h0 9) && !m.active.isEmpty &&
      m.active.all (fun l => m.vval .n64 9 l == 0x102) && goes m (.jmpiV h0 10) && m.active.all fun l => m.vval .n64 10 l == 0) = true := by
  decide
theorem witness_Divergence :
    meets (tune M0 (some9 1)) h0 (fun m => goes m (.brd h0 (r 9) (.i9 0x100)) && !m.g.isFront && m.g.spilled == 0 && decide (m.g.stack.length < 16) &&
      m.g.freeNos.head? == some 1 && maskOf (m.active.filter fun l => lane (m.vget 9) l != 0) == 1 &&
      maskOf (m.active.filter fun l => lane (m.vget 9) l == 0) != 0 && m.k.pc + BitVec.ofInt 64 (4 * immInt (.i9 0x100)) != m.after) =
      true := by decide
/-- The front of core 0 at some words, its program behind it. -/
def front (ws : List Word) : State :=
  let s := at' ws
  let g := Group.fresh (bareJob 0) true 1 0 0 0 0 0 0 0 248 0x100000 0
  { s.setCore { s.core 0 with front := some { job := 0, group := g, ended := false } } with
    runs := [{ agent := .front 0, core := 0, sched := 4, count := 0, stalled := false, ahead := [] }] }
def F0 : State := front [0x70]
def atBase (n : Nat) (m : Issue) : Issue := { m with k := { m.k with base := n } }
theorem witness_CallsAndReturns :
    meets M0 h0 (fun m => goes m (.call h0 0 (.o15 1)) && goes m (.calliS h0 0 9) && goes m (.calliV h0 0 9) && !m.g.isFront &&
      (m.sget2 9).setWidth 2 == (0 : BitVec 2) && m.g.fits (0 :: (m.g.splits.filter fun x => !(x.no == m.k.no)).map (·.base)) &&
      m.g.resident (m.k.base + 0) && !m.active.isEmpty && m.active.all fun l => m.vval .n64 9 l == 0) = true ∧
    meets (tune M0 (setS 9 0x40000000)) h0 (fun m => goes m (.ret h0) && (m.sget 9).extractLsb' 30 2 != 0 &&
      (m.sget2 8).setWidth 2 == (0 : BitVec 2)) = true ∧
    meets (tune M0 (setS 11 3)) h0 (fun m => goes m (.calliS h0 0 11) && (m.sget2 11).setWidth 2 != (0 : BitVec 2)) = true ∧
    meets M0 h0 (fun m => goes m (.ret h0) && (m.sget 9).extractLsb' 30 2 == 0 && (m.sget 9).toNat / 2 ^ 24 % 64 == 0 &&
      m.g.resident (m.k.base - 0)) = true ∧
    meets (tune F0 (atBase 192)) h0 (fun m => m.g.isFront && goes m (.call h0 1 (.o15 1)) && goes m (.call h0 0 (.o15 1)) &&
      decide (192 < m.k.base + 1) && decide (m.k.base + 0 ≤ 192)) = true := by decide
def threeLevels (m : Issue) : Issue :=
  let l : Level := { ctr := 0, start := 0, last := 0x200000, buf := [], bufOn := false, armed := false, discard := false }
  { m with k := { m.k with levels := [l, { l with ctr := 1 }, { l with ctr := 2 }] } }
theorem witness_Loops :
    meets (tune M0 threeLevels) h0 (fun m => goes m (.loop h0 2 (r 9) (.i9 1)) && decide (3 ≤ m.k.levels.length)) = true ∧
    meets (tune M0 (setS 9 1)) h0 (fun m => goes m (.loop h0 2 (r 9) (.i9 1)) && m.k.levels.isEmpty && m.sget 9 != 0) = true := by decide
def branchEntry (pc : DWord) (d a : Mask) : StackEntry :=
  { kind := .branch, rpcv := true, rpc := pc, jpc := 0, jmask := 0, jbase := 0, amask := a, abase := 0, dmask := d, bad := false }
/-- Lanes 0 to 47 are the split's; the others are parked at its PC. -/
def parked (m : Issue) : Issue :=
  let lo : Mask := 0xFFFFFFFFFFFF
  let e := branchEntry m.k.pc (BitVec.allOnes 96) (~~~lo)
  { m with g := { m.g with stack := [e, branchEntry 0 (BitVec.allOnes 96) 0] }, k := { m.k with owned := lo, mask := lo } }
def fragMode (s : State) : State := { s with contexts := s.contexts.map fun c => { c with fragMode := true } }
theorem witness_Reconvergence :
    meets M0 h0 (fun m => goes m (.recv h0) && m.g.spilled == 0 && m.g.stack.isEmpty && goes m (.rtt h0) && !m.ctx.fragMode) = true ∧
    meets (tune M0 parked) h0 (fun m => goes m (.recv h0) && m.g.spilled == 0 && m.g.queue.isEmpty && match m.g.stack with
      | e :: _ :: _ => m.k.owned &&& ~~~e.dmask == 0 && decide (e.kind = .branch) && e.rpcv && e.rpc == m.k.pc && e.jmask == 0 &&
          e.amask != 0 && e.abase == m.k.base && m.g.splits.all fun y => y.no == m.k.no || y.owned &&& e.dmask == 0
      | _ => false) = true ∧
    meets (fragMode M0) h0 (fun m => goes m (.rtt h0) && m.ctx.fragMode && !m.k.inHandler) = true ∧
    meets (tune (fragMode M0) fun m => { m with k := { m.k with inHandler := true } }) h0 (fun m => goes m (.rtt h0) && m.k.inHandler &&
      m.k.base == m.k.entryBase) = true := by decide
/-- A second split, with the lanes from 48 on, beside the first; their entry on the stack. -/
def twoSplits (m : Issue) : Issue :=
  let lo : Mask := 0xFFFFFFFFFFFF
  let k := { m.k with owned := lo, mask := lo }
  { m with k := k, g := { m.g with splits := [k, { k with no := 1, owned := ~~~lo, mask := ~~~lo }], stack := [branchEntry 0 (BitVec.allOnes 96) 0] } }
theorem witness_Ends :
    meets M0 h0 (fun m => goes m (.nop h0) && goes m (.endI h0) && !m.g.isFront && m.g.splits == [m.k] && m.g.stack.isEmpty && !m.g.retired) = true ∧
    meets (tune M0 twoSplits) h0 (fun m => goes m (.endI h0) && match m.g.splits, m.g.stack with
      | [k, k1], e :: _ => k == m.k && k1.no != m.k.no && k1.heldBy != some m.k.no && m.k.owned &&& ~~~e.dmask == 0 && k1.owned &&& e.dmask != 0
      | _, _ => false) = true ∧
    meets F0 h0 (fun m => goes m (.endI h0) && m.g.isFront && (F0.core 0).front.isSome && m.g.lcore == 0) = true := by decide

/-! ## Witnesses: traps and waits -/

theorem witness_TrapsRaised :
    allGo M0 h0 [.trap h0 0xFF, .bkpt h0] = true ∧
    meets (tune M0 busy) h0 (fun m => !m.g.queue.isEmpty) = true := by decide
def withHandler (m : Issue) : Issue := { m with g := { m.g with tbase := 0x100000 } }
theorem witness_HandlerEntry :
    meets (tune M0 withHandler) h0 (fun m => (m.s.group? (qidOf m.ag)).isSome && (m.g.split? m.k.no).isSome && !m.g.isFront && !m.k.inHandler && m.g.tbase != 0 &&
      decide (m.k.no < 4) && !m.ctx.fragMode && decide (m.g.stack.length - m.g.spilled < 16)) = true ∧
    meets (fragMode M0) h0 (fun m => m.ctx.fragMode) = true := by decide
theorem witness_TrapForwarded :
    meets M0 h0 (fun m => (m.s.ctx? m.g.ctx).isSome && m.g.tbase == 0) = true ∧ meets F0 h0 (fun m => m.g.isFront) = true := by decide
def counts (n : Nat) (m : Issue) : Issue := { m with g := { m.g with loads := n, stores := n } }
/-- A second group of the gang, which has not arrived. -/
def twoGroups (s : State) : State := { s with gangs := s.gangs.map fun y => { y with groups := y.groups ++ y.groups.map fun g => { g with idx := 1 } } }
theorem witness_ByteAndGroupWaits_waits :
    meets (tune M0 (counts 3)) h0 (fun m => goes m (.wait h0 .loads (.i9 3)) && m.g.counter .loads == 3 && goes m (.wait h0 .loads (.i9 2)) &&
      (m.s.cmdsOf (qidOf m.ag)).isEmpty) = true ∧
    meets (tune M0 (setS 9 1)) h0 (fun m => goes m (.sleep h0 9) && goes m (.sleep h0 10) && m.sget 9 != 0 && m.sget 10 == 0 &&
      goes m (.wakeat h0 9) && goes m (.wakeat h0 10) && decide (m.s.cycle m.g.host < (m.sget2 9).toNat) &&
      decide ((m.sget2 10).toNat ≤ m.s.cycle m.g.host)) = true ∧
    meets M0 h0 (fun m => goes m (.sync h0) && m.ag == .split 1 0 0 && (m.s.gang? 1).any (fun y => y.groups == [m.g]) && m.g.splits == [m.k] &&
      !m.g.retired && m.g.idx == 0) = true ∧
    meets (twoGroups M0) h0 (fun m => goes m (.sync h0) && m.g.splits == [m.k] && (m.s.gang? 1).any fun y =>
      y.groups.any fun g => g.idx != m.g.idx && !g.retired && g.arrived != some y.phase) = true ∧
    meets (tune M0 twoSplits) h0 (fun m => goes m (.sync h0) && decide (1 < m.g.splits.length)) = true := by decide
/-- Offsets 4080, 4096 and 8 in s9, s10 and s11, counts below and at the limit in s12 and s13. -/
def offsets (m : Issue) : Issue := setS 13 0x1000000 (setS 12 0xFFFFFF (setS 11 8 (setS 10 4096 (setS 9 4080 m))))
theorem witness_ByteAndGroupWaits_barriers :
    meets (tune M0 offsets) h0 (fun m => (m.s.who m.g).sp == some (0, 0, 4096) && goes m (.bbi h0 9 12) && goes m (.bba h0 9 13) && goes m (.bbi h0 10 12) &&
      goes m (.bba h0 11 12) && goes m (.bbw h0 9) && goes m (.bbw h0 10) && goes m (.bbw h0 11) && m.g.queue.isEmpty &&
      m.s.homeNat (spKey 0 4080) 3 == 0) = true ∧
    meets { tune M0 offsets with mem := cellPut M0.mem (spKey 0 4080) 1 } h0 (fun m => goes m (.bbw h0 9) && m.s.homeNat (spKey 0 4080) 3 != 0) =
      true := by decide

/-! ## Witnesses: memory -/

theorem witness_AccessChecks :
    meets M0 h0 (fun m => !m.ctx.poisonTrap && (m.s.who m.g).sp == some (0, 0, 4096) && (m.s.translate m.g.host m.g.ctx 0x3FFFFFC).2.isSome &&
      (m.s.translate m.g.host m.g.ctx 0x4000000).2.isNone && (m.s.translate m.g.host m.g.ctx 0).2.any (·.w)) = true ∧
    meets { M0 with mem := cellsPut M0.mem 0x80000 [0xB] } h0 (fun m => (m.s.translate m.g.host m.g.ctx 0).2.any fun p => !p.w) = true ∧
    ([(0, 4092)] : List (Nat × Nat)).all (fun y => decide (y.2 % 4 = 0 ∧ y.2 + 4 ≤ 4096)) = true ∧
    ([(0, 4), (1, 6)] : List (Nat × Nat)).find? (fun y => y.2 % 4 != 0) = some (1, 6) ∧ (4096 < 4096 + 4 ∧ 2 ^ 56 % 4 = 0) := by decide
def noLanes (m : Issue) : Issue := { m with k := { m.k with mask := 0 } }
/-- What the checks of a 4-byte access say: none fails, or one does. -/
def checked (m : Issue) (space : Space) (rd wr : Bool) (accs : List (Nat × Nat)) : Bool :=
  match (m.checks space 0 4 rd wr false (fun _ _ => true) accs).2 with | .ok _ => true | .error _ => false
theorem witness_Loads :
    meets M0 h0 (fun m => goes m (.ldVA h0 plainMem .b32 (r 9) (r 10) (b 12)) && goes m (.ldSA h0 plainMem .b32 (r 9) (r 10) (b 12)) &&
      goes m (.ldSAVB h0 plainMem .b32 (r 9) (r 10) (r 12)) && goes m (.lds h0 plainMem .b32 (r 9) (r 10) (b 12)) && goes m (.ldl h0 plainMem (r 10) (b 12)) &&
      checked m .gv true false (m.addrV .gv (r 10) (b 12)) && checked m .gv true false (m.addrS .gv .b32 (r 10) (b 12)) &&
      checked m .gv true false (m.addrSV .gv (r 10) (r 12)) && checked m .gv true false (m.addr1 .gv (r 10) (b 12)) &&
      decide (m.g.loads < 65535) && !m.active.isEmpty) = true ∧
    meets (tune M0 noLanes) h0 (fun m => goes m (.ldVA h0 plainMem .b32 (r 9) (r 10) (b 12)) && (m.addrV .gv (r 10) (b 12)).isEmpty) = true ∧
    meets (tune M0 (counts 65535)) h0 (fun m => goes m (.lds h0 plainMem .b32 (r 9) (r 10) (b 12)) && decide (65535 ≤ m.g.loads)) = true ∧
    meets (tune M0 (setS 10 2)) h0 (fun m => goes m (.lds h0 plainMem .b32 (r 9) (r 10) (b 12)) && !checked m .gv true false (m.addr1 .gv (r 10) (b 12))) =
      true := by decide
theorem witness_Stores :
    meets M0 h0 (fun m => goes m (.stVA h0 plainMem .b32 (r 9) (r 10) (b 12)) && goes m (.stSA h0 plainMem .b32 (r 9) (r 10) (b 12)) &&
      goes m (.sts h0 plainMem .b32 (r 9) (r 10) (b 12)) && checked m .gv false true (m.addrV .gv (r 10) (b 12)) &&
      checked m .gv false true (m.addrS .gv .b32 (r 10) (b 12)) && checked m .gv false true (m.addr1 .gv (r 10) (b 12)) && decide (m.g.stores < 65535)) = true ∧
    meets (tune M0 noLanes) h0 (fun m => goes m (.stVA h0 plainMem .b32 (r 9) (r 10) (b 12)) && (m.addrV .gv (r 10) (b 12)).isEmpty) = true ∧
    meets (tune M0 (counts 65535)) h0 (fun m => goes m (.sts h0 plainMem .b32 (r 9) (r 10) (b 12)) && decide (65535 ≤ m.g.stores)) = true ∧
    meets (tune M0 (setS 10 2)) h0 (fun m => goes m (.sts h0 plainMem .b32 (r 9) (r 10) (b 12)) && !checked m .gv false true (m.addr1 .gv (r 10) (b 12))) =
      true := by decide
def rmMem : MemAttr := ⟨false, .rlx, .pod, .rm⟩
theorem witness_Atomics :
    meets M0 h1 (fun m => goes m (.atomV h1 .add plainMem .i32 (r 9) (r 10) (r 12) (r 0)) && goes m (.atomS h1 .cas plainMem .i32 (r 9) (r 10) (r 12) (r 13)) &&
      goes m (.ratomV h1 .cas rmMem .i32 (r 9) (r 10) (r 12) (r 14)) && goes m (.ratomS h1 .add rmMem .i32 (r 9) (r 10) (r 12) (r 14)) &&
      (match (m.checks .gv 0 4 true true true (fun s l => s.atomicOk .cas .i32 l) [(0, (m.baseS .gv 10).toNat)]).2 with | .ok _ => true | .error _ => false) &&
      (match (m.checks .rm (m.sget 14) 4 true true true (fun s l => s.atomicOk .add .i32 l) [(0, (m.sget2 10).toNat)]).2 with
        | .ok _ => true | .error _ => false) && decide (m.g.loads < 65535)) = true ∧
    meets (tune M0 noLanes) h1 (fun m => goes m (.atomV h1 .add plainMem .i32 (r 9) (r 10) (r 12) (r 0)) && m.active.isEmpty) = true ∧
    meets (tune M0 (counts 65535)) h1 (fun m => goes m (.atomS h1 .add plainMem .i32 (r 9) (r 10) (r 12) (r 0)) && decide (65535 ≤ m.g.loads)) = true ∧
    meets (tune M0 (setS 14 1024)) h1 (fun m => goes m (.ratomS h1 .add rmMem .i32 (r 9) (r 10) (r 12) (r 14)) &&
      (match (m.checks .rm (m.sget 14) 4 true true true (fun s l => s.atomicOk .add .i32 l) [(0, (m.sget2 10).toNat)]).2 with
        | .ok _ => false | .error _ => true)) = true := by decide
theorem witness_MemoryIssueFrame : allGo M0 h0 [.sts h0 plainMem .b32 (r 9) (r 10) (b 12)] = true := by decide
def Q0 : QId := .group 1 0
def queued (es : List Entry) (m : Issue) : Issue := { m with g := m.g.enqueue es }
def aStore : Entry := { storeEntry 0 0 0x2000 [1, 2, 3, 4] 0 with cls := some .stores }
theorem witness_DrainedStores :
    meets (tune M0 (queued [pendingLoad, aStore])) h0 (fun m => m.g.queue[1]? == some aStore && decide (aStore.kind = .store) && mayStep m.g.queue 1 &&
      m.s.migrations.isEmpty && viewed aStore.key && deviceExists aStore.key && (m.s.group? Q0).isSome && decide (Memory.wf m.s.mem = true)) = true := by decide
def anAtomic : Entry := { pendingLoad with kind := .atomic .cas 5 6, key := 0x2000, pos := 1 }
def aMark : Entry := { loadEntry 2 0 0 0 with kind := .mark false false false, order := .rel }
theorem witness_QueueSteps :
    meets (tune M0 (queued [pendingLoad, anAtomic])) h0 (fun m => mayStep m.g.queue 0 && mayStep m.g.queue 1 && decide (pendingLoad.kind = .load) &&
      (m.s.firstPoison 0x2000 4).isNone && m.s.homeNat 0x2000 4 != 5 % 2 ^ 32 &&
      ((m.s.atomic (some m.g.host) .cas .i32 0x2000 5 6 (m.s.releaseSet anAtomic)).1.group? Q0).isSome) = true ∧
    meets (tune M0 (queued [aMark])) h0 (fun m => mayStep m.g.queue 0 && decide (aMark.kind = .mark false false false)) = true ∧
    (let s := M0.storeHome none 0x2000 [7] 0
     (s.homes.find? fun y => y.seq == 1).any fun y => y.cells.any fun c => decide ((s.core 0).view.bound c.1 < 1)) = true := by decide
def fenced (es : List Entry) (m : Issue) : Issue := { m with g := m.g.enqueue es, k := { m.k with hold := .fence } }
theorem witness_MarksAndInvalidations :
    meets M0 h1 (fun m => goes m (.fence h1 .sc .sys) && goes m (.flush h1 .wbi .sys) && decide (m.k.hold ≠ .fence) && goes m (.tlbinv h1 true .core 9) &&
      !(m.g.queue.any fun e => e.isStore || e.isAtomic)) = true ∧
    meets (tune M0 (fenced [])) h1 (fun m => goes m (.fence h1 .sc .sys) && decide (m.k.hold = .fence) && m.g.queue.all fun e => !e.isFence) = true ∧
    meets (tune M0 (fenced [{ aMark with isFence := true }])) h1 (fun m => goes m (.flush h1 .wb .dev) && decide (m.k.hold = .fence) &&
      m.g.queue.any fun e => e.isFence && e.split == m.k.no) = true ∧
    meets (tune M0 (queued [aStore])) h0 (fun m => goes m (.tlbinv h0 false .dev 0) && goes m (.icinv h0 true) && m.g.queue.any fun e => e.isStore || e.isAtomic) =
      true := by decide

/-! ## Witnesses: queues, decisions, copies -/

/-- Bytes put into memory. -/
def bytes (l : List (Nat × List Byte)) (s : State) : State := { s with mem := l.foldl (fun m y => cellsPut m y.1 y.2) s.mem }
/-- Queue 0 of context 0: records from 0x3000 on; its flags and capacity, HEAD 0 and TAIL. -/
def queue (flags tail : Byte) : State → State := bytes [(quayKey 0x601, [0x30]), (quayKey 0x608, [flags]), (quayKey 0x610, [tail])]
/-- The jobs, contexts, gangs changed. -/
def jobs (f : Job → Job) (s : State) : State := { s with jobs := s.jobs.map f }
def ctxs (f : Context → Context) (s : State) : State := { s with contexts := s.contexts.map f }
def gangs (f : Gang → Gang) (s : State) : State := { s with gangs := s.gangs.map f }
/-- One active lane, whose record in v16 and v17 has its entry point at 0x100000. -/
def oneRecord (m : Issue) : Issue := setV 16 (fun _ => 0x100000) { m with k := { m.k with mask := 1 } }
def emitRecs (m : Issue) (b0 : Nat) : List (List Byte) :=
  m.active.map fun l => ((List.range 16).map fun w => leBytes 4 (lane (m.vget (b0 + w)) l).toNat).flatten
def good (q : List (List Byte)) : Bool := q.all fun y => entryOk (entryPoint y)
def made (s : State) (m : Issue) (q : List (List Byte)) : Bool := match s.reserve m.g m.g.nextPos 0 q with | .done .. => true | _ => false
def waits (s : State) (m : Issue) (q : List (List Byte)) : Bool := match s.reserve m.g m.g.nextPos 0 q with | .wait _ => true | _ => false
theorem witness_QueueInstructions :
    meets (queue 0x41 0 M0) h0 (fun m => goes m (.deq h0 16 9 40) && decide (m.g.splits.length ≤ 1) && (m.queueOf (m.sget 9)).isSome &&
      (m.s.jobOf m.g).any fun j => j.state != .quiescent) = true ∧
    meets (jobs (fun j => { j with state := .quiescent }) (queue 0x41 0 M0)) h0 (fun m => goes m (.deq h0 16 9 40) &&
      (m.s.jobOf m.g).any fun j => j.state == .quiescent) = true ∧
    meets M0 h0 (fun m => goes m (.deq h0 16 9 40) && (m.queueOf (m.sget 9)).isNone) = true ∧
    meets (tune M0 twoSplits) h0 (fun m => goes m (.deq h0 16 9 40) && decide (1 < m.g.splits.length)) = true ∧
    meets (tune (queue 0x41 0 M0) oneRecord) h0 (fun m => goes m (.emit h0 9 16) && !m.active.isEmpty && good (emitRecs m 16) &&
      (m.queueOf (m.sget 9)).any (fun y => !y.2.hostp && decide (1 ≤ y.2.cap)) && made m.s m (emitRecs m 16)) = true ∧
    meets (tune (queue 0x41 2 M0) oneRecord) h0 (fun m => goes m (.emit h0 9 16) && !m.g.isFront && waits m.s m (emitRecs m 16)) = true ∧
    meets (tune M0 noLanes) h0 (fun m => goes m (.emit h0 9 16) && m.active.isEmpty) = true ∧
    meets (bytes [(spKey 0 2, [0x10])] (queue 0x41 0 M0)) h0 (fun m => goes m (.enq h0 20 9 9 0) && (m.s.who m.g).sp == some (0, 0, 4096) &&
      !m.ctx.poisonTrap && m.g.queue.isEmpty && decide (m.k.hold = .none) && good [m.s.readHome (spKey 0 0) 64] &&
      made m.s m [m.s.readHome (spKey 0 0) 64]) = true := by decide
def fullDq (s : State) : State := s.setCore { s.core 0 with dq := List.replicate 32 ⟨0, 7⟩ }
theorem witness_Decisions :
    meets (fullDq M0) h0 (fun m => goes m (.dqpush h0 9) && decide ((m.s.core m.g.lcore).dq.length = 32) && goes m (.dqpop h0 9 0 false) &&
      !m.s.dqAway m.g.lcore m.g.job && ((m.s.core m.g.lcore).dq.find? fun y => y.job == m.g.job).isSome && (m.s.jobOf m.g).any fun j => !j.det) = true ∧
    meets (tune M0 busy) h0 (fun m => goes m (.dqpush h0 10) && !m.g.queue.isEmpty) = true ∧
    meets M0 h0 (fun m => goes m (.dqpush h0 9) && !m.s.dqAway m.g.lcore m.g.job && m.g.queue.isEmpty && (m.s.cmdsOf (qidOf m.ag)).isEmpty &&
      m.g.splits.all (fun k => decide (k.hold = .none)) && goes m (.dqpop h0 9 0 false) && (m.s.core m.g.lcore).front.isNone) = true ∧
    meets { F0 with runs := M0.runs } h0 (fun m => goes m (.dqpop h0 9 0 false) && (m.s.core m.g.lcore).front.any (fun f => f.job == m.g.job && !f.ended) && !m.s.dqAway 0 0 &&
      ((m.s.core m.g.lcore).dq.find? fun y => y.job == m.g.job).isNone) = true := by decide
def waitsFor (w : Wait) (m : Issue) : Issue := { m with k := { m.k with state := .blocked, wait := w } }
def A0 : Agent := .split 1 0 0
/-- A DEQ on queue 0, one record waiting there, a gather delay. -/
def gathering (flags : Byte) (delay : Nat) : State :=
  jobs (fun j => { j with gdelay := delay }) (ctxs (fun c => c.setGather { c.gather 0 with seenTail := 1 })
    (bytes [(0x3002, [0x10])] (queue flags 1 (tune M0 (waitsFor (.deq 0 0 16 40))))))
def gatherOk (s : State) : Bool :=
  let c := s.ctx 0
  (s.deqWaiters 0 0).length == 1 && match gatherWindow (s.qhead c 0) (c.gather 0) with
    | y :: _ => (s.entryAt 0 ((s.qhead c 0).record y)).isSome && (s.giveBatch 0 0 (s.qhead c 0) A0 16 40 [y]).isSome
    | [] => false
theorem witness_QueueEvents :
    meets (tune (queue 0x41 0 M0) fun m => { m with k := { m.k with hold := .reserve 0 [[0, 0, 16]] none } }) h0 (fun m =>
      decide (m.k.hold = .reserve 0 [[0, 0, 16]] none) && made m.s m [[0, 0, 16]]) = true ∧
    (let s := queue 0xC1 1 M0
     (s.ctx? 0).any fun c => (s.qhead c 0).hostp && (c.gather 0).seenTail != (s.qhead c 0).tail) = true ∧
    gatherOk (gathering 0xC1 5) = true ∧ (gathering 0xC1 5).mayArrive 0 0 ((gathering 0xC1 5).qhead ((gathering 0xC1 5).ctx 0) 0) = true ∧
    (let s := gathering 0xC1 0
     gatherOk s && ((s.ctx 0).setGather { (s.ctx 0).gather 0 with hold := some (0x100000, 0) }).gathers.any fun g => g.hold == some (0x100000, 0)) = true := by
  decide
/-- A request of 128 bytes in s40 to s55: one row, `.lin`, from 0 to 0 of the global space. -/
def request (m : Issue) : Issue := setS 45 128 (setS 44 1 m)
/-- A tensor entry of b32, valid, in the global space: columns, rows, stride, and further bits. -/
def entry (cols rows stride more : Nat) : BitVec 256 :=
  BitVec.ofNat 256 (2 ^ 255 + stride * 2 ^ 144 + (cols - 1) * 2 ^ 128 + (rows - 1) * 2 ^ 112 + more)
def tensors (l : List (Nat × BitVec 256)) : State → State := ctxs fun c => { c with tensors := l }
def reqOk (m : Issue) (t : Option Tid) : Bool := match (m.s.copyCheck m.g (some .lin) (m.rawReq 40) t).2 with | .ok _ => true | .error _ => false
def aReq : CopyReq :=
  { mode := .lin, src := 0x1000, sspace := .gv, dst := 0x2000, dspace := .gv, rows := 1, len := 128, sstride := 0, dstride := 0, idx := 0
    ispace := .gv, seq := 0, bboff := 0, peer := 0, bben := false, esize := 1, rty := .b32, rop := .add, raw := 0 }
def aCmd : CopyCmd :=
  { id := 5, gang := 1, issuer := Q0, fromCpy := true, req := aReq, headSkip := 0, accepted := false, again := false, via := none, pos := 0, pc := 0, landed := []
    counted := [], paused := false, promise := none, promised := false }
def copying (c : CopyCmd) : State := gangs (fun y => { y with cmds := [c] }) M0
theorem witness_CopyEngine_instructions :
    meets (tune M0 request) h0 (fun m => goes m (.cpy h0 .lin 0 40) && !m.frontWaits (m.rawReq 40) && reqOk m none &&
      (m.s.copyGang m.g).any (fun y => decide (y.cmds.length < 256)) && decide (m.g.copies < 65535)) = true ∧
    meets M0 h0 (fun m => goes m (.cpy h0 .lin 0 40) && !reqOk m none) = true ∧
    meets (tensors [(12, entry 32 1 128 0)] (tune M0 request)) h1 (fun m => goes m (.cpyTid h1 .lin 0 40 12) && !m.g.tidBusy 12 && reqOk m (some 12)) = true ∧
    meets (tune M0 request) h1 (fun m => goes m (.cpyTid h1 .lin 0 40 12) && !reqOk m (some 12)) = true ∧
    meets (tune M0 (setS 11 4097 ∘ setS 10 1 ∘ setS 9 8)) h0 (fun m => goes m (.kick h0 9 10) && goes m (.kick h0 12 12) && goes m (.kick h0 12 11) &&
      decide (m.k.hold = .none) && goes m (.kick h0 12 10) && m.g.queue.isEmpty) = true ∧
    meets (bytes [(spKey 0 16, [1, 0, 0, 0, 128])] M0) h0 (fun m =>
      (m.s.kickCheck m.g [BitVec.ofNat 512 (leNat (m.s.readHome (spKey 0 0) 64))]).2.isNone) = true := by decide
theorem witness_CopyEngine_events :
    (let s := copying aCmd
     (s.cmd? 5).any (fun c => !c.accepted) && (s.gang? 1).any (fun y => y.state != .evicted && y.stage != 3) &&
      (s.group? Q0).any (fun g => g.storesDrained 0)) = true ∧
    (let s := copying { aCmd with accepted := true }
     (s.job? 0).isSome && (s.gang? 1).any fun y => match s.copyLine y 0 { aCmd with accepted := true } 0 with | .done _ => true | _ => false) = true ∧
    (let c := { aCmd with accepted := true, landed := [0] }
     ((copying c).line? c 0).isSome && decide ((copying c).lineCount c ≤ 1)) = true ∧
    (let c := { aCmd with accepted := true, landed := [0], req := { aReq with len := 256 } }
     ((copying c).line? c 0).isSome && decide (1 < (copying c).lineCount c)) = true := by decide

/-! ## Witnesses: tensors, patterns, matrices, geometry -/

/-- A line of the global space can be read, or written, at issue. -/
def lineOk (m : Issue) (va : Nat) : Bool :=
  match Chk.loc { s := m.s, memo := [] } (m.s.who m.g) .gv va 32 true false with
  | (c, .ok l) => (m.g.loadNow c.s l.key 32 false).isSome
  | (_, .error _) => false
/-- The base pair s10, s11 names 0x2000, s12 is off 32 bytes. -/
def bases (m : Issue) : Issue := setS 12 8 (setS 10 0x2000 m)
def withOp (k : TileKind) (m : Issue) : Issue := { m with g := { m.g with ops := [{ id := 0, pos := 0, kind := k }], nextOp := 1, tiles := 1 } }
theorem witness_TensorOperations_instructions :
    meets (tune M0 bases) h1 (fun m => goes m (.tdef h1 5 10) && goes m (.tdef h1 5 12) && goes m (.tdefGet h1 5 10) && goes m (.tdefGet h1 5 12) &&
      goes m (.publish h1 5) && goes m (.pload h1 3 (r 10)) && goes m (.pload h1 3 (r 12)) && decide (m.g.tiles < 65535) && !m.g.tidBusy 5 && lineOk m 0x2000 &&
      tdefOk 0 && !(tensorOf (tdefEntry (m.ctx.tensor 5) 0)).sel && decide ((m.sget2 10).toNat % 32 = 0) && decide ((m.sget2 12).toNat % 32 ≠ 0)) = true ∧
    meets (tensors [(5, entry 32 1 128 (2 ^ 242))] M0) h1 (fun m => goes m (.publish h1 5) && (m.ctx.named 5 [.gv, .sp, .ws]).any (·.pub)) = true ∧
    meets (tensors [(5, entry 32 1 128 0)] M0) h1 (fun m => goes m (.publish h1 5) && (m.ctx.named 5 [.gv, .sp, .ws]).any fun y => !y.pub) = true ∧
    meets (bytes [(0x2001, [0x40])] (tune M0 bases)) h1 (fun m => goes m (.pload h1 3 (r 10)) && lineOk m 0x2000 && (patOf 0x4000).isSome) = true := by decide
theorem witness_TensorOperations_events :
    meets (tune M0 (withOp (.publish 5 none))) h0 (fun m => (m.g.op? 0).isSome && m.g.storesDrained 0) = true ∧
    meets (tune M0 (withOp (.tdef 5 0 false))) h0 (fun m => (m.g.op? 0).any fun o => m.g.storesDrained o.pos) = true ∧
    meets (tune M0 (withOp (.pload 3 0x4000 false))) h0 (fun m => !m.s.coreAway m.g.lcore m.g.ctx && !m.s.pslotUsed m.g.lcore m.g.ctx 3 &&
      (m.g.ops.takeWhile fun y => !(y.id == 0)).isEmpty) = true := by decide
/-- Pattern slot 3 of context 0: every position. -/
def pattern (inv : Bool) (s : State) : State := s.setCore { s.core 0 with pslots := [(3, { owner := 0, loaded := true, image := 0x4000, gen := 1, inv := inv })] }
theorem witness_PatternGeneration :
    meets (pattern false M0) h1 (fun m => goes m (.pgenS h1 false (r 9) 3 (r 10)) && goes m (.pgenV h1 false (r 9) 3 (r 10)) && !m.g.ploadPending 3 &&
      !m.s.coreAway 0 0 && (m.s.pslot 0 0 3).loaded && m.sget 11 == 0 && goes m (.pgenS h1 true (r 9) 3 (r 10)) && !(m.s.pslot 0 0 3).inv && !m.active.isEmpty) = true ∧
    meets (tune (pattern false M0) (setS 11 8192)) h1 (fun m => goes m (.pgenV h1 false (r 9) 3 (r 10)) && decide (8192 ≤ (m.sget 11).toNat)) = true ∧
    meets (tune (pattern true M0) (setS 11 8191)) h1 (fun m => goes m (.pgenV h1 true (r 9) 3 (r 10)) && decide ((m.sget 11).toNat < 8192) && (m.s.pslot 0 0 3).inv) = true := by
  decide
def f16 : Nat := (tyCode .f16).toNat * 2 ^ 225
/-- Tensor 5: 64 rows of 32 columns of f16. -/
def weights (more : Nat) : State → State := tensors [(5, entry 32 64 64 (f16 + more))]
def ready (img : BitVec 256) (gen : Word) (s : State) : State :=
  s.setCore { s.core 0 with wbuf := [{ owner := 0, no := 0, st := .ready, tid := 5, image := img, r0 := 0, c0 := 0, layer := 0, pslot := 3, gen := gen, prog := 0, elems := [], scales := [], age := 0, cursor := 4096, issuer := Q0, pc := 0, paused := false, doomed := false }] }
theorem witness_MatrixInstructions :
    meets (weights 0 (tune M0 (setS 12 1))) h1 (fun m => decide (m.g.tiles < 65535) && goes m (.mwb h1 5 9) && goes m (.mwbLayer h1 5 9 10) && goes m (.mwbLayer h1 5 9 12) &&
      !m.g.tidBusy 5 && !m.s.coreAway 0 0 && m.g.storesDrained m.g.nextPos && (m.ctx.named 5 [.gv, .ws]).any (fun y =>
        weightOk m.s 0 0 y 0 0 0 && !weightOk m.s 0 0 y 0 0 1) && m.s.wChoice 0 0 5 == some 0) = true ∧
    meets (ready 0 0 (weights 0 M0)) h1 (fun m => goes m (.mma h1 .bf16 4 (r 9) 5 false (r 0)) && m.converged && (m.ctx.named 5 [.gv, .ws]).any (fun y => !y.comp && decide (tileK y.ty = tileK .bf16)) &&
      (m.s.wentry 0 0 5).any fun w => w.st == .ready) = true ∧
    meets (pattern true (ready 0 1 (weights (2 ^ 236 + 3 * 2 ^ 238) M0))) h1 (fun m => goes m (.mmas h1 false .f16 0 (r 9) 5 3 false (r 0)) && !m.g.ploadPending 3 &&
      (m.ctx.named 5 [.gv, .ws]).any (fun y => y.comp && y.pat == 3) &&
      (m.s.wentry 0 0 5).any fun w => w.st == .ready && w.gen == (m.s.pslot 0 0 3).gen) = true ∧
    meets (tune M0 noLanes) h1 (fun m => goes m (.mma h1 .f16 0 (r 9) 5 false (r 0)) && goes m (.mclr h1 4) && !m.converged) = true ∧
    meets M0 h1 (fun m => goes m (.mclr h1 4) && m.converged && goes m (.mrdV h1 .f32 false false (r 9) 4 (b 12)) && !m.g.isFront &&
      (denseCtl .f32 (m.srcS1 .n32 (b 12)).toNat).any (fun y => (m.vrange 9 (denseRegs .f32 y.2)).isSome) &&
      goes m (.mrdS h1 .f32 .gv false false (r 10) 4 (b 12)) && decide (m.k.hold = .none) &&
      (match (m.mrdDest .gv (m.mrdBase .gv 10) 4 (96 * 1 * 4)).2 with | .ok _ => true | .error _ => false)) = true := by decide

def geoTabs : State → State := tensors [(5, entry 32 64 128 0), (6, entry 4 1 16 0)]
def offs (m : Issue) : Issue := setS 12 1 (setS 11 3968 (setS 10 3936 (setS 9 8 m)))
theorem witness_GeometryInstructions_rasters :
    meets (tensors [(0, entry 32 64 128 0), (6, entry 4 1 16 0)] M0) h0 (fun m => decide (m.g.tiles + 96 < 65535) && [0, 5, 6, 1023].all (fun t => !m.g.tidBusy t)) = true ∧
    meets (tensors [(0, entry 32 64 128 0), (6, entry 4 1 16 0)] M0) h1 (fun m => goes m (.grasS h1 6 9) && goes m (.grasV h1 6 9) && goes m (.grep h1 20 9 6) &&
      (m.ctx.vbuf 6).isSome && (m.ctx.roots [(m.sget 9, m.sget 10)]).isSome &&
      (m.ctx.roots (m.active.map fun l => (lane (m.vget 9) l, lane (m.vget 10) l))).isSome && !m.active.isEmpty) = true ∧
    meets M0 h1 (fun m => goes m (.grasS h1 6 9) && goes m (.grasV h1 6 9) && goes m (.grep h1 20 9 6) && (m.ctx.vbuf 6).isNone &&
      goes m (.gpatch h1 20 9 5) && (m.ctx.geom 5).isNone && !m.active.isEmpty) = true := by decide
theorem witness_GeometryInstructions_builds :
    meets (geoTabs (tune M0 offs)) h1 (fun m => goes m (.gbldVtx h1 false 5 16 9) && goes m (.gbldVtx h1 true 5 16 10) && goes m (.gbldTri h1 true 5 16 10) &&
      goes m (.gbldTri h1 false 5 16 11) && (m.ctx.geom 5).isSome && (m.s.who m.g).sp == some (0, 0, 4096) && (m.sget 9).toNat == 8 && decide (8 % 32 ≠ 0) &&
      (m.sget 10).toNat == 3936 && decide (3936 + 160 ≤ 4096) && (m.sget 11).toNat == 3968 && decide (4096 < 3968 + 160) &&
      goes m (.gpatch h1 20 16 5) && m.active.all fun l => decide ((lane (m.vget 17) l).toNat < 8192)) = true := by decide
theorem witness_GeometryInstructions_queries :
    meets (tensors [(0, entry 32 64 128 0)] M0) h1 (fun m => goes m (.gqryV h1 .near (r 9) (r 20) 0) && goes m (.gqryS h1 .near (r 9) (r 20) 0) && (m.ctx.geom 0).isSome &&
      ((m.active.map fun l => (l, (List.range 12).map fun j => lane (m.vget (20 + j)) l)).all fun y => (m.ctx.geom (recGtid y.2).toNat).isSome && recOk .near y.2) &&
      decide (m.active.length ≤ 96) &&
      (let q := (List.range 12).map fun j => m.sget (20 + j)
       (m.ctx.geom (recGtid q).toNat).isSome && recOk .near q)) = true ∧
    meets (tune M0 (setS 9 97 ∘ setV 10 fun _ => 97)) h1 (fun m => goes m (.gpopS h1 (r 20) (r 9)) && decide (96 < (m.sget 9).toNat) && goes m (.gpopV h1 (r 20) (r 10)) &&
      m.active.any fun l => decide (96 < (lane (m.vget 10) l).toNat)) = true ∧
    meets (tune M0 fun m => { m with g := { m.g with queries := [{ newQuery 0 .near [] 0 with ready := true }] } }) h1 (fun m => goes m (.gpopS h1 (r 20) (r 9)) &&
      goes m (.gpopV h1 (r 20) (r 10)) && (m.g.qslot 0).all (·.ready) && m.sget 9 == 0 && m.active.all fun l => lane (m.vget 10) l == 0) = true := by decide
theorem witness_GeometryInstructions_walks :
    meets (tune M0 noLanes) h1 (fun m => goes m (.ginwSmp h1 (r 40) (r 20) (r 9)) && m.active.isEmpty) = true ∧
    meets (bytes [(spKey 0 0, [0x40, 0x50])] (tune M0 (setS 9 8))) h1 (fun m => goes m (.ginwSmp h1 (r 40) (r 20) (r 10)) && goes m (.ginwEdge h1 (r 40) (r 20) (r 10)) &&
      goes m (.ginwRay h1 (r 40) (r 20) (r 10)) && goes m (.ginwRay h1 (r 40) (r 20) (r 9)) && (m.sget 9).toNat == 8 && decide (8 / 8 % 16 ≠ 0) &&
      (m.sget 10).toNat == 0 && !m.active.isEmpty && (m.s.who m.g).sp == some (0, 0, 4096) && !m.ctx.poisonTrap && m.g.queue.isEmpty &&
      (nodeOf (leNat (m.s.readHome (spKey 0 0) 128))).ok && ((nodeOf (leNat (m.s.readHome (spKey 0 0) 128))).childs[0]?).isSome) = true := by decide
theorem witness_EngineEvents :
    meets (tune M0 (withOp (.mclr 0))) h0 (fun m => (m.s.group? Q0).isSome && !m.s.stilled Q0 && (m.g.op? 0).any fun o =>
      (m.g.tileDone o).isSome && (TileKind.mclr 0).counts.isNone && decide (o.kind = .mclr 0) && m.g.accTurn 0 0) = true ∧
    meets (tune M0 (withOp (.gras 6 0 [] [] 1 2 3 0 0 0))) h0 (fun m => (m.g.op? 0).any fun o => o.kind.counts.isSome) = true ∧
    meets (tune M0 (withOp (.gras 6 0 [] [.commit 0 0 0 0] 1 2 3 0 0 0))) h0 (fun m => (m.g.op? 0).any fun o => o.kind.counts.isNone) = true ∧
    meets (tune M0 (withOp (.publish 5 (some 0)))) h0 (fun m => (m.g.op? 0).isSome && !m.s.inFlight 0 5 0) = true ∧
    meets (tune M0 fun m => { m with g := { m.g with queries := [{ newQuery 7 .near [] 0 with walk := [] }] } }) h0 (fun m =>
      !m.s.stilled Q0 && (m.g.qslot 7).any fun y => y.active && !y.ready && y.over) = true := by decide
def aFuse : FusedOps := ⟨h0, h1, h0, h0, 10, 11, 12, 13, 14, 15, 16, 17⟩
def fuseFlags (m : Issue) : FFlags := laneFlags m fun l => arith2 .max .f32 m.g.fpmode .ne (m.vval .f32 11 l) (m.vval .f32 12 l)
theorem witness_FusedSequence :
    allGo M0 h0 (fusedInstrs aFuse) = true ∧ meets M0 h0 (fun m => m.g.fpmode &&& 0x1F == 0) = true ∧
    meets (tune M0 fun m => trapsOn (setV 11 (fun _ => 0x7F800001) m)) h0 (fun m => m.g.fpTraps (fuseFlags m) && (fusedInstrs aFuse).all (goes m)) = true := by
  decide

/-! ## Witnesses: jobs, Sillage, the host -/

def pending (s : State) : State := gangs (fun y => { y with state := .pending, groups := [] }) { s with runs := [] }
theorem witness_PlacedGroups :
    (let s := pending M0
     (s.gang? 1).any fun y => (s.job? y.job).any fun j => y.state == .pending && j.state == .active && s.firstFor y y.lcore && !y.held && !j.det && s.poisoned.isEmpty && s.tags.isEmpty &&
       j.fentry == 0 && (s.cluster 0).fixed == (s.ctx j.ctx).fixed && (s.room y.lcore j).isSome) = true := by decide
def attach (s : State) : State := { s with hifVer := 1 }
/-- A launch record for descriptor 0x2000 and slot 256, in a ring of one entry. -/
def launched (idx : Byte) (desc : Nat) : State :=
  attach (bytes [(quayKey 1, [0x10]), (quayKey 16, [1]), (quayKey 0x1001, [0x20]), (quayKey 0x1009, [idx]), (quayKey 0x2000, leBytes 64 desc)] M0)
def aDesc : Nat := 2 ^ 200 * 2 ^ 106 + 2 ^ 200 * 2 ^ 97 + 32 * 2 ^ 222 + 0x100000 * 2 ^ 64
def launchIs (s : State) (good : Bool) : Bool := (s.ctx? 0).any fun c => (s.ring? c 0 64).any fun r =>
  let s1 := s.importStep none
  let w := s1.homeNat (c.qkey (r.entry 64 r.head)) 64
  decide (r.count ≠ 0) && s.attached && (c.slotOf (w / 2 ^ 64 % 2 ^ 19)).isSome && (s1.ringPop r).launchOk c w == good
theorem witness_JobEvents_launch : launchIs (launched 1 aDesc) true = true ∧ launchIs (launched 1 0) false = true := by decide
def retire (s : State) : State := gangs (fun y => { y with state := .retired, groups := y.groups.map fun g => { g with retired := true, splits := [] } }) { s with runs := [] }
theorem witness_JobEvents_ends :
    (let s := retire M0
     (s.gang? 1).any fun y => y.state == .retired && !y.groups.isEmpty && y.cmds.isEmpty && y.stage == 0 && !y.groups.any fun g => s.outstanding (.group 1 g.idx) g) = true ∧
    (let s := { retire F0 with runs := [] }
     let s := s.setCore { s.core 0 with front := (s.core 0).front.map fun f => { f with ended := true } }
     (s.core 0).front.any fun f => f.ended && !s.outstanding (.front 0) f.group && s.gangs.all fun y => y.state == .retired) = true ∧
    (let s := jobs (fun j => { j with qmask := 1 }) (tune M0 (waitsFor (.deq 0 0 16 40)))
     (s.job? 0).any fun j => j.state == .active && s.allInDeq 0 && !(s.liveGroups 0).isEmpty && !s.reserving (fun g => g.job == 0) none &&
       j.queues.all fun q => (s.qhead (s.ctx 0) q).head == (s.qhead (s.ctx 0) q).tail && !(s.qhead (s.ctx 0) q).hold) = true ∧
    (let s := jobs (fun j => { j with qmask := 1 }) (retire M0)
     (s.job? 0).any fun j => j.state == .active && s.gangs.all (fun y => y.state == .retired) && s.cores.all (fun k => k.front.isNone) && !s.opsLeft 0 && !j.det &&
       j.queues.all fun q => (s.qhead (s.ctx 0) q).head == (s.qhead (s.ctx 0) q).tail) = true := by decide
theorem witness_JobEvents_issue :
    (let s : State := { tune M0 fun m => { m with k := { m.k with state := .ready } } with runs := [] }
     let all := (s.cands 0 0).filter fun y => !s.unready y.g y.k
     !(s.runs.any fun y => y.core == 0 && y.sched == 0) && (pickCand ((s.core 0).now 0 + 1) all).any fun c => c.g.resident c.k.base &&
       decide ((pickCand ((s.core 0).now 0 + 1) (all.filter fun y => y.g.resident y.k.wants)).map (·.agent) = some c.agent)) = true := by decide
/-- A spill area of 64 KiB at 0x200000; the split's window begins at slot 12. -/
def shifted (m : Issue) : Issue := { m with k := { m.k with base := 4 } }
def spillArea (s : State) : State := jobs (fun j => { j with spill := 0x200010 }) s
def spilled8 (m : Issue) : Issue := { m with g := { m.g with out := [8], ring := m.g.ring.set (m.g.pos 8) RingSlot.blank } }
theorem witness_SillageAndFaultEvents_slots :
    meets (spillArea (tune M0 shifted)) h0 (fun m => (m.s.group? Q0).isSome && !m.g.isFront && m.s.onCore Q0 && decide ((m.g.at' 8).abs = some 8) && !(m.g.at' 8).clean &&
      m.g.spillable 8 && !m.g.vecPending 8 && !m.g.scalPending (.slot 8) && match (m.s.spillSlot m.g 8).2 with | .ok _ => true | .error _ => false) = true ∧
    meets (spillArea (tune M0 spilled8)) h0 (fun m => m.g.out.contains 8 && m.g.positionFree 8 && match (m.s.fillWindow (m.g.refillPos 8) (m.g.bases ++ m.g.parkedBases) (m.g.yield 8) [8]).2.2 with | .ok => true | _ => false) = true := by
  decide
def trapped (m : Issue) : Issue := { m with k := { m.k with trap := some ⟨.bkpt, 0, 0, 0x100000, 0, 0⟩ } }
theorem witness_SillageAndFaultEvents_traps :
    meets (tune M0 (withHandler ∘ trapped)) h0 (fun m => (m.s.group? Q0).isSome && (m.g.split? 0).any (·.trap.isSome) && m.g.drained && m.g.copies == 0 && m.g.tiles == 0 && !m.g.isFront && !m.k.inHandler && m.g.tbase != 0) = true ∧
    meets (tune M0 trapped) h0 (fun m => (m.g.split? 0).any (·.trap.isSome) && m.g.drained && m.g.tbase == 0) = true ∧
    meets (tune M0 fun m => let n := withHandler (trapped m); { n with g := { n.g with copies := 1 } }) h0 (fun m => (m.g.split? 0).any (·.trap.isSome) && m.g.copies != 0) = true ∧
    meets (tune M0 (busy ∘ trapped)) h0 (fun m => (m.g.split? 0).any (·.trap.isSome) && !m.g.drained) = true ∧
    (let s := ctxs (fun c => { c with heldFaults := [7] }) (bytes [(quayKey 0x21, [0x10])] M0)
     (s.ctx? 0).any fun c => c.heldFaults == [7] && (s.ring? c 0x20 64).any fun y => decide (y.count < y.cap)) = true := by decide
/-- A command OP with ARG in its ring. -/
def commanded (op arg : Nat) (s : State) : State :=
  attach (bytes [(quayKey 0x61, [0x10]), (quayKey 0x70, [1]), (quayKey 0x1000, [BitVec.ofNat 8 op]), (quayKey 0x1008, leBytes 8 arg)] s)
def comes (s : State) (op arg : Nat) (p : State → Bool) : Bool := (s.command 0).any fun y => y.2.2.1 == op && y.2.2.2 == arg && p y.1
/-- A MIGRATE descriptor: page 0 goes to 64 MiB. -/
def moving (va : Nat) : State := commanded 3 0x4000 (bytes [(quayKey 0x4000, leBytes 8 va ++ leBytes 8 0x400000F)] M0)
theorem witness_HostCommands :
    comes (commanded 1 9 M0) 1 9 (fun s => ((s.ctx 0).sleepers.find? fun f => f.1 == 9).isNone) = true ∧
    comes (commanded 1 9 (ctxs (fun c => { c with sleepers := [(9, .agent A0)] }) M0)) 1 9 (fun s => ((s.ctx 0).sleepers.find? fun f => f.1 == 9) == some (9, .agent A0)) = true ∧
    comes (commanded 2 256 { M0 with runs := [] }) 2 256 (fun s => (s.jobs.filter fun y => y.ctx == 0 && y.cidx == 256 && y.state != .complete).length == 1 && !s.jobBusy 0) = true ∧
    comes (moving 0) 3 0x4000 (fun s => decide (0x4000 + 32 ≤ (s.ctx 0).qaBytes) &&
      (let d := s.homeNat ((s.ctx 0).qkey 0x4000) 32
       zeroBits d [(254, 200), (191, 128), (63, 56)] && (s.leaf (s.ctx 0) (d % 2 ^ 56)).any (fun y => decide (d % 2 ^ 56 % 2 ^ y.2.1 = 0) && s.destOk y.2.1 (d / 2 ^ 64 % 2 ^ 64)) && s.migrations.isEmpty)) = true ∧
    comes (moving (2 ^ 56)) 3 0x4000 (fun s => !zeroBits (s.homeNat ((s.ctx 0).qkey 0x4000) 32) [(254, 200), (191, 128), (63, 56)]) = true ∧
    comes (commanded 9 0 M0) 9 0 (fun _ => true) = true := by decide
def aMove (moved : List Nat) : Migration := { id := 4, ctx := 0, desc := 0x4000, va := 0, size := 128, pteKey := 0x80000, src := 0, dst := 0x4000000, newPte := 0x400000F, moved := moved }
theorem witness_MigrationSteps :
    (let s := { M0 with migrations := [aMove []] }
     Memory.wf s.mem && (s.migrations.find? fun y => y.id == 4).isSome && decide (0 < 128 / 128) && stored ((pageOf 0 128 0x400000F).key + 128 * 0)) = true ∧
    (let s := { M0 with migrations := [aMove [0]] }
     (List.range (128 / 128)).all (fun i => (aMove [0]).moved.contains i) && !(s.gangs.any fun y => y.groups.any fun g => g.uses (pageOf 0 128 0xF).key 128) &&
       s.cores.all fun k => k.front.isNone) = true := by decide
/-- A job of higher priority whose pending gang needs the whole scratchpad; a pool of 1 MiB at 0x1000000, an eviction ring. -/
def evicting (s : State) : State :=
  let j : Job := { bareJob 2 with spUnits := 1024 }
  let y : Gang := { uid := 3, job := 2, worker := 0, lcore := 0, host := 0, state := .pending, placed := false, age := 1, spBase := 0, spSize := 0
                    groups := [], cmds := [], phase := 0, stage := 0, saveOff := 0, listSeq := 0, held := false, evictor := none }
  let s1 := ctxs (fun c => { c with savePool := 0x1000000, saveSz := 256 }) (jobs (fun k => { k with prio := 5 }) (bytes [(quayKey 0x41, [0x10])] s))
  { s1 with jobs := s1.jobs ++ [j], gangs := s1.gangs ++ [y] }
def idle (s : State) : State := { s with runs := [] }
def staged (n : Nat) (st : GangState) (s : State) : State := gangs (fun y => { y with stage := n, state := st, held := true }) s
theorem witness_EvictionEvents_leave :
    (let s := evicting M0
     (s.gang? 1).isSome && (s.job? 0).any fun j => (s.gangs.any fun p => (s.victimFor p).any fun v => v.uid == 1) && ((s.ctx j.ctx).areaFor j.areaSize).isSome) = true ∧
    (let s := staged 1 .resident (idle M0)
     (s.gang? 1).any fun y => y.stage == 1 && y.state == .resident && !s.issuing 1 && y.groups.all (·.settled) && !s.frontBusy y && y.cmds.isEmpty) = true ∧
    (let s := staged 2 .resident (idle (bytes [(quayKey 0x41, [0x10])] M0))
     (s.gang? 1).any fun y => y.stage == 2 && y.state == .resident && y.groups.all (·.settled) && !s.frontBusy y && y.cmds.all (fun z => z.req.mode != .xch && s.quiesced z) && (s.ring? (s.ctx 0) 0x40 16).any fun z => decide (z.count < z.cap)) =
      true := by decide
theorem witness_EvictionEvents_return :
    (let s := staged 0 .evicted (idle M0)
     (s.gang? 1).any fun y => (s.job? 0).any fun j => y.state == .evicted && (s.restoreAt y j).any fun z => z.1 == 0 && s.firstFor y 0 && !s.evictorWaits y) = true ∧
    (let s := ctxs (fun c => { c with savePool := 0x1000000, saveSz := 256 }) (ready 0 0 M0)
     (s.ctx? 0).any fun c => !s.coreAway 0 0 && (s.core 0).wbuf.any (fun w => w.owner == 0) && (c.areaFor coreAreaSize).isSome) = true ∧
    (let s := gangs (fun y => { y with state := .retired }) (idle M0)
     let s := s.setCore { s.core 0 with saved := [(0, (ready 0 0 M0).core 0 |>.wbuf, [], [])] }
     (s.ctx? 0).isSome && ((s.core 0).saved.find? fun y => y.1 == 0).isSome && (s.core 0).wbuf.isEmpty && (s.core 0).pslots.isEmpty && (s.core 0).dq.isEmpty &&
       (s.core 0).front.isNone && (s.gangs.filter fun y => y.lcore == 0 && y.state == .resident).isEmpty) = true := by decide
def late (m : Issue) : Issue := { m with s := gangs (fun y => { y with cmds := [{ aCmd with promise := some 0 }] }) m.s }
def waiting (w : Wait) (p : Issue → State → Bool) : Bool :=
  let s := gangs (fun y => { y with cmds := [] }) (tune M0 (waitsFor w))
  (s.waiter A0).any fun m => p m s
theorem witness_TimeEvents :
    waiting (.sleep 0) (fun m s => decide (m.k.wait = .sleep 0) && decide (0 ≤ s.cycle m.g.host)) = true ∧
    waiting (.wakeat 0) (fun m s => decide (m.k.wait = .wakeat 0) && (s.cmdsOf (qidOf A0)).isEmpty) = true ∧
    (let s := gangs (fun y => { y with cmds := [{ aCmd with promise := some 0 }] }) (tune M0 (waitsFor (.wakeat 0)))
     (s.waiter A0).any fun m => decide (m.k.state = .blocked) && !s.evicting (qidOf A0) && !(s.lateFor (qidOf A0) m.g.host m.k.wait).isEmpty) = true ∧
    (M0.cluster 0).fixed = false ∧ State.reset.drained 39 = true ∧ (State.reset.cluster 39).fixed = false ∧ M0.agenda.isEmpty = true := by decide
def mailed (v : BitVec 1024) (s : State) : State := { s with mailbox := v }
/-- A record of one Quay page at 20, in version 1. -/
def aRecord : BitVec 1024 := BitVec.ofNat 1024 (2 ^ 200 * 2 ^ 132 + 2 ^ 236 + 20 * 2 ^ 224)
def clashing (s : State) (v : BitVec 1024) : Bool :=
  let r := v.toNat
  bitsOf r 335 332 == 1 && recordOk r && match s.tensorImage (bitsOf r 423 368) with
    | some ts => s.contexts.any (contextOf r ts).clashes
    | none => false
theorem witness_HostEvents :
    State.reset.booted = true ∧ bitsOf State.reset.mailbox.toNat 335 332 ≠ 1 ∧
    clashing (ctxs (fun c => { c with id := 1 }) M0) aRecord = false ∧ clashing M0 aRecord = true ∧
    (bitsOf aRecord.toNat 335 332 = 1 ∧ recordOk aRecord.toNat = true ∧ (M0.tensorImage (bitsOf aRecord.toNat 423 368)).isSome = true) ∧
    (M0.booted && (M0.ctx? 0).isSome && M0.jobs.any fun j => j.ctx == 0 && j.state != .complete) = true ∧
    ((ctxs (fun c => { c with id := 3 }) M0).ctx? 3).isSome = true ∧ ({ M0 with linkUp := 3 } : State).up true = true ∧
    max glMin (BitVec.toNat 1#8) ≤ min glMax (BitVec.toNat 255#8) ∧ min glMax (BitVec.toNat 0#8) < max glMin (BitVec.toNat 0#8) := by decide
theorem witness_LinkEvents :
    deviceExists 0x2000 = true ∧ ({ M0 with linkUp := 1 } : State).up false = true ∧
    lowestLink (({ M0 with routes := [(5, 6)] } : State).route 5) = some 1 ∧ (∀ c ∈ M0.contexts, c.podTag ≠ 5) ∧
    (let s := ctxs (fun c => { c with podTag := 5 }) M0
     (s.contexts.find? fun c => c.podTag == 5).any fun c => (s.podKey c ⟨5, 0x2000, .read 4⟩).isSome) = true := by decide

/-! ## Witnesses of further clauses: stepping, issue, flow -/

def prot (m : Issue) : Issue := { m with k := { m.k with hold := .prot } }
def moved (pc : DWord) (m : Issue) : Issue := { m with k := { m.k with pc := pc } }
def counted (n : Nat) (s : State) : State := { s with runs := s.runs.map fun y => { y with count := n } }
theorem witness_UnassignedOpcodes_fronts :
    meets (front [0]) h0 (fun m => m.g.isFront && decide (m.k.hold ≠ .prot) && decide ((front [0]).runCount = 0) && (front [0]).agenda.isEmpty &&
      (match (m.capture.words m.capture.k.pc).2 with | .ok ws => (decodeWords ws).isNone | .error _ => false)) = true := by decide
theorem witness_StepRuns_otherwise :
    meets (tune M0 prot) h0 (fun m => decide (m.k.hold = .prot)) = true ∧
    meets (at' ((fusedInstrs aFuse).map encode).flatten) h0 (fun m => decide (m.k.hold ≠ .prot) && m.capture.fuse.any fun y => y.2 == aFuse) = true ∧
    meets (counted 1 (at' (encode (.mclr h1 4)))) h0 (fun m => m.capture.fuse.isNone && decide ((counted 1 M0).runCount ≠ 0) &&
      (m.g.decodeTrap h1 (.mclr h1 4)).isNone) = true ∧
    meets (counted 1 (tune (at' (encode (.mclr h1 4))) fun m => { m with g := { m.g with acct := 1 } })) h0 (fun m =>
      (m.g.decodeTrap h1 (.mclr h1 4)).isSome) = true ∧
    meets (tune M0 (moved 0x8000000)) h0 (fun m => m.capture.fuse.isNone && match (m.capture.words m.capture.k.pc).2 with
      | .ok _ => false | .error e => decide (e.cause = .page)) = true ∧
    ({ M0 with agenda := [.event .powerBubble] } : State).agenda.isEmpty = false := by decide
/-- A CPY whose A and D both fail raises REGBOUNDS, which comes before its own entry's ILLEGAL (R75). -/
theorem test_regbounds_before_lowest :
    meets M0 h0 (fun m => decide (m.verdict (.cpy h0 .lin 1 60) = .trap .regbounds) && decide (m.verdict (.cpy h0 .lin 1 9) = .trap .illegal)) =
      true := by decide
theorem witness_ChecksAtIssue_each :
    headerOf (.nop h1) = some h1 ∧ headerOf (.deq h0 0 0 63) = some h0 ∧ (Instr.nop h1).wf = false ∧
    meets M0 h0 (fun m => (Instr.deq h0 0 0 63).wf && (uses (.deq h0 0 0 63)).any fun u => decide (7 + m.g.span < m.g.regAt m.h u.o + u.n - 1)) = true ∧
    meets (tune M0 fun m => { m with g := { m.g with acct := 4 } }) h1 (fun m => (Instr.mclr h1 4).wf && (accOf (.mclr h1 4)).any fun a => decide (m.g.acct ≤ a.toNat)) = true ∧
    meets (tune M0 busy) h0 (fun m => (uses (.smov h0 .b32 (r 10) (r 9))).any m.usePending) = true ∧
    meets F0 h0 (fun m => m.g.isFront && !frontOk (.vmov h0 .b32 (r 9) (r 9)) && (Instr.vmov h0 .b32 (r 9) (r 9)).wf) = true ∧
    meets M0 h0 (fun m => !m.maskPending && (uses (.smov h0 .b32 (r 10) (r 9))).all fun u => !m.usePending u) = true := by decide
theorem witness_SequenceAndLoopEdge_discard :
    meets (tune M0 fun m => let n := inLoop 2 m; { n with k := { n.k with levels := n.k.levels.map fun l => { l with discard := true } } }) h0
      (fun m => match m.k.levels with
        | l :: _ => l.discard && l.last == m.k.pc && m.k.lcGet 1 != 1
        | [] => false) = true := by decide
def f32s : Shape := ⟨8, 23, true⟩
theorem witness_FloatResults_shapes : shapeOf .f32 = some f32s ∧ shapeOf .e4m3 = some ⟨4, 3, false⟩ := ⟨rfl, rfl⟩
theorem witness_FloatResults_values :
    f32s.isNan 0x7FC00001 = true ∧ f32s.isSignalling 0x7F800001 = true ∧ f32s.isNan 0x7F800000 = false ∧ f32s.isInf 0x7F800000 = true ∧
    f32s.isInf 0xFF800000 = true ∧ f32s.neg 0xFF800000 = true ∧ f32s.isFinite 0x7F7FFFFF = true ∧ f32s.isFinite 0x80000000 = true ∧
    f32s.value 0x80000000 = 0 ∧ f32s.value 0x3FC00000 = 3 / 2 ∧ f32s.value 0xBF800000 = -1 ∧ f32s.value 0x40000000 = 2 ∧
    f32s.input 0x40 0x80000001 = 0x80000000 ∧ f32s.input 0 0x80000001 = 0x80000001 ∧ f32s.largestBits = 0x7F7FFFFF := by decide +kernel
/-- Values between two powers of two: below the least normal number, ordinary, and beyond the largest. -/
theorem witness_FloatResults_ranges :
    pow2 0 ≤ magOf (-3 / 2) ∧ magOf (-3 / 2) < pow2 1 ∧ pow2 (-150) ≤ magOf (pow2 (-150)) ∧ magOf (pow2 (-150)) < pow2 (-149) ∧
    f32s.largest < pow2 128 ∧ pow2 128 ≤ magOf (pow2 128) ∧ magOf (pow2 128) < pow2 129 := by decide +kernel
def linked (m : Issue) : Issue := { m with g := m.g.enqueue [{ pendingLoad with dest := .scal (.slot 8) (.slot 8) }] }
theorem witness_CallsAndReturns_pending :
    meets (tune M0 linked) h0 (fun m => goes m (.call h0 0 (.o15 1)) && !m.g.isFront && m.linkPending 0) = true := by decide
theorem witness_Loops_none :
    meets M0 h0 (fun m => goes m (.loop h0 2 (r 9) (.i9 1)) && m.k.levels.isEmpty && m.sget 9 == 0 &&
      match (m.s.fetchWord m.g.host m.g.ctx (m.k.pc + 4).toNat).2 with | .ok _ => true | .error _ => false) = true ∧
    meets M0 h1 (fun m => goes m (.loop h1 2 (r 9) (.i32 0x1000000)) && m.sget 9 == 0 &&
      match (m.s.fetchWord m.g.host m.g.ctx (m.k.pc + 0x4000000).toNat).2 with | .ok _ => false | .error _ => true) = true ∧
    meets (tune M0 fun m => let n := threeLevels m; { n with k := { n.k with levels := n.k.levels.drop 2 } }) h0 (fun m =>
      goes m (.loop h0 2 (r 9) (.i9 1)) && m.k.levels.any fun l => decide (l.ctr.toNat = 2)) = true := by decide
/-- The split owns lanes 0 to 47; an entry over all lanes stands alone on the stack. -/
def lo48 : Mask := 0xFFFFFFFFFFFF
def alone (f : StackEntry → StackEntry) (m : Issue) : Issue :=
  { m with g := { m.g with stack := [f (branchEntry m.k.pc (BitVec.allOnes 96) 0)] }, k := { m.k with owned := lo48, mask := lo48 } }
/-- Its sibling, with the other lanes. -/
def beside (m : Issue) : Issue :=
  { m with g := { m.g with splits := [m.k, { m.k with no := 1, owned := ~~~lo48, mask := ~~~lo48 }] } }
/-- What RECV looks at: a condition on the topmost entry, its lanes within it, and whether a sibling is live. -/
def recvs (f : Issue → Issue) (live : Bool) (p : Issue → StackEntry → Bool) : Bool :=
  meets (tune M0 f) h0 fun m => goes m (.recv h0) && m.g.spilled == 0 && match m.g.stack with
    | e :: _ => m.k.owned &&& ~~~e.dmask == 0 && !e.bad && p m e && (m.g.splits.any fun y => y.no != m.k.no && y.owned &&& e.dmask != 0) == live
    | [] => false
def isTrap (base : Nat) (e : StackEntry) : StackEntry := { e with kind := .trap, jbase := base, jmask := BitVec.allOnes 96 }
theorem witness_Reconvergence_entries :
    meets (tune M0 (alone fun e => { e with dmask := 2 ^ 90 })) h0 (fun m => goes m (.recv h0) && m.g.stack.all fun e => m.k.owned &&& ~~~e.dmask != 0) = true ∧
    recvs (alone fun e => { e with rpc := 0 }) false (fun m e => decide (e.kind = .branch) && e.rpcv && e.rpc != m.k.pc) = true ∧
    recvs (alone fun e => { e with rpcv := false }) false (fun _ e => !e.rpcv && e.jmask == 0 && e.amask == 0) = true ∧
    recvs (beside ∘ alone id) true (fun m e => e.rpc == m.k.pc && e.amask == 0) = true ∧
    recvs (beside ∘ alone fun e => { e with amask := 2 ^ 95, abase := 4 }) true (fun m e => e.amask != 0 && e.abase != m.k.base) = true ∧
    recvs (alone fun e => { e with jmask := ~~~lo48 }) false (fun m e => e.jmask != 0 && e.amask == 0 && (m.g.freeNos.head? == some 1)) = true ∧
    recvs (alone fun e => { e with jmask := 2 ^ 95, amask := 2 ^ 94, abase := 4 }) false (fun m e => e.jmask != 0 && e.abase != m.k.base) = true ∧
    recvs (alone id) false (fun _ e => e.jmask == 0 && e.amask == 0) = true ∧
    recvs (alone fun e => { e with amask := ~~~lo48 }) false (fun m e => e.jmask == 0 && e.amask != 0 && e.abase == m.k.base) = true ∧
    recvs (alone fun e => { e with amask := ~~~lo48, abase := 4 }) false (fun m e => e.amask != 0 && e.abase != m.k.base && m.g.freeNos.head? == some 1) = true := by
  decide
theorem witness_Reconvergence_handlers :
    recvs (beside ∘ alone (isTrap 0)) true (fun _ e => decide (e.kind = .trap) && e.amask == 0) = true ∧
    recvs (beside ∘ alone fun e => { isTrap 0 e with amask := 2 ^ 95, abase := 4 }) true (fun m e => e.amask != 0 && e.abase != m.k.base) = true ∧
    recvs (alone (isTrap 4)) false (fun m e => decide (e.kind = .trap) && m.k.base != e.jbase) = true ∧
    recvs (alone (isTrap 0)) false (fun m e => decide (e.kind = .trap) && m.k.base == e.jbase && e.amask == 0) = true ∧
    meets (fragMode M0) h0 (fun m => goes m (.rtt h0) && m.ctx.fragMode && !m.k.inHandler) = true := by decide
theorem witness_TrapsRaised_siblings :
    meets (tune M0 (busy ∘ twoSplits)) h0 (fun m => (m.g.split? 0).isSome && (m.g.queue.any fun e => !e.isPop) && !m.g.isFront &&
      m.g.splits.any fun y => y.no != 0 && decide (y.state = .issuing)) = true ∧
    meets (tune M0 fun m => let n := busy (twoSplits m); { n with g := { n.g with splits := n.g.splits.map fun y => if y.no = 1 then { y with state := .ready } else y } }) h0
      (fun m => m.g.splits.any fun y => y.no == 1 && decide (y.state = .ready)) = true := by decide


/-! ## Witnesses of further clauses: waits and memory -/

/-- A copy of the split's group, promised for cycle 0 and incomplete. -/
def owed : CopyCmd := { aCmd with promise := some 0, req := { aReq with bben := true, bboff := 4080 } }
def owing (s : State) : State := gangs (fun y => { y with cmds := [owed] }) s
theorem witness_ByteAndGroupWaits_late :
    meets (owing (tune M0 fun m => { m with g := { m.g with copies := 4 } })) h0 (fun m => goes m (.wait h0 .copies (.i9 0)) && decide (0 < m.g.counter .copies) &&
      !(m.s.lateFor (qidOf m.ag) m.g.host (.counter .copies 0 1)).isEmpty && goes m (.wakeat h0 10) && (m.sget2 10).toNat == 0 &&
      !(m.s.lateFor (qidOf m.ag) m.g.host (.wakeat 0)).isEmpty) = true ∧
    meets (tune M0 (counts 3)) h0 (fun m => (m.s.lateFor (qidOf m.ag) m.g.host (.counter .loads 2 1)).isEmpty && (m.s.lateFor (qidOf m.ag) m.g.host (.wakeat 5)).isEmpty) = true ∧
    (let s := gangs (fun y => { y with groups := y.groups ++ y.groups.map fun g => { g with idx := 1, arrived := some y.phase } }) M0
     meets s h0 fun m => goes m (.sync h0) && m.g.splits == [m.k] && !m.g.retired && (s.gang? 1).any fun y => decide ((y.groups.map (·.idx)).Nodup) &&
       y.groups.all fun g => g.idx == m.g.idx || g.retired || g.arrived == some y.phase) = true ∧
    meets (tune M0 (queued [{ pendingLoad with kind := .atomic .exch 5 6, key := spKey 0 4080, dest := .none }] ∘ offsets)) h0 (fun m => goes m (.bbw h0 9) && (m.g.loadNow m.s (spKey 0 4080) 3 true).isNone) = true ∧
    meets (owing { tune M0 offsets with mem := cellPut M0.mem (spKey 0 4080) 1 }) h0 (fun m => goes m (.bbw h0 9) &&
      match m.g.loadNow m.s (spKey 0 4080) 3 true with
      | some (s1, bs) => leNat bs != 0 && !(s1.lateFor (qidOf m.ag) m.g.host (.barrier 4080)).isEmpty
      | none => false) = true := by decide
def trapPoison (s : State) : State := ctxs (fun c => { c with poisonTrap := true }) s
/-- A page that maps virtual address 0 through an entry. -/
def mapped (pte : Nat) (s : State) : State := { s with mem := cellsPut s.mem 0x80000 (leBytes 8 pte) }
/-- A peer module 5 with a context of tag 9, reached by the link map. -/
def pod (s : State) : State := ctxs (fun c => { c with podTag := 9 }) { s with routes := [(5, 1)], peers := [⟨5, 9, 0x40000⟩] }
theorem witness_AccessChecks_flat :
    meets M0 h0 (fun m => ([(0, 4092), (1, 4096), (2, 0)] : List (Nat × Nat)).find? (fun y => decide (4096 < y.2 + 4)) == some (1, 4096) &&
      m.ctx.qaSize * 4096 == 65536 && decide (65532 + 4 ≤ 65536)) = true ∧
    meets { trapPoison M0 with poisoned := [lineOf (spKey 0 128)] } h0 (fun m => m.ctx.poisonTrap && (m.s.who m.g).sp == some (0, 0, 4096) &&
      m.s.firstPoison (spKey 0 126) 4 == some (spKey 0 128) && (m.s.firstPoison (spKey 0 0) 4).isNone) = true ∧
    meets (ctxs (fun c => { c with wsSize := 1 }) M0) h0 (fun m => m.ctx.wsSize * 2 ^ 21 == 2 ^ 21) = true := by decide
theorem witness_AccessChecks_pages :
    meets M0 h0 (fun m => let c : Chk := { s := m.s, memo := [] }
      let w := m.s.who m.g
      (match c.page w 0x1000 with
        | (c1, some p) => p.w && c1.s.pageOpen w.ctx p 0x1000 4 && (c1.memo.find? fun q => decide (q.va ≤ 0x2000) && decide (0x2000 < q.va + q.size)).isSome
        | _ => false) && (c.page w 0x4000000).2.isNone && decide (2 ^ 56 ≤ 2 ^ 56)) = true ∧
    meets (mapped 0xB M0) h0 (fun m => (({ s := m.s, memo := [] } : Chk).page (m.s.who m.g) 0).2.any fun p => !p.w) = true ∧
    meets (mapped 0x6000000F M0) h0 (fun m => match ({ s := m.s, memo := [] } : Chk).page (m.s.who m.g) 0 with
      | (c1, some p) => !c1.s.pageOpen 0 p 0 4
      | _ => false) = true ∧
    meets { trapPoison M0 with poisoned := [64] } h0 (fun m => match ({ s := m.s, memo := [] } : Chk).page (m.s.who m.g) 0x2000 with
      | (c1, some p) => (c1.s.ctx 0).poisonTrap && (c1.s.firstPoison (c1.s.keyAt p 0x2000) 4).isSome
      | _ => false) = true := by decide
theorem witness_AccessChecks_pod :
    (M0.reaches 0 && !M0.reaches 5 && (pod M0).reaches 5 && M0.devid == 0) = true ∧
    (let s := pod M0
     (s.ctx 0).podTag != 0 && (s.peers.find? fun q => q.dev == 5 && q.tag == 9).isSome && s.walkPeer 5 0x40000 0 == .fault) = true ∧
    (let s := bytes [(peerKey 5 0x40000, leBytes 8 0x80001), (peerKey 5 0x80000, leBytes 8 0xF)] (pod M0)
     match s.walkPeer 5 0x40000 0 with | .page b z pte => b == 0 && (pageOf b z pte).w && (pageOf b z pte).target == 0 | .fault => false) = true ∧
    (let s := bytes [(peerKey 5 0x40000, leBytes 8 0x80001), (peerKey 5 0x80000, leBytes 8 0x1B)] (pod M0)
     match s.walkPeer 5 0x40000 0 with | .page b z pte => (pageOf b z pte).target != 0 | .fault => false) = true := by decide
def polling : MemAttr := ⟨true, .rlx, .dev, .gv⟩
theorem witness_Loads_poll :
    meets M0 h1 (fun m => goes m (.lds h1 polling .b32 (r 9) (r 10) (b 12)) && decide (m.g.loads < 65535) && checked m .gv true false (m.addr1 .gv (r 10) (b 12))) = true := by
  decide
/-- A store drains somewhere. -/
def drains (s : State) (key : Nat) (p : State → Bool) : Bool :=
  let e : Entry := { aStore with key := key }
  meets (tune s (queued [e])) h0 fun m => m.g.queue[0]? == some e && mayStep m.g.queue 0 && decide (Memory.wf m.s.mem = true) && p m.s
theorem witness_DrainedStores_places :
    drains M0 (spKey 0 0) (fun s => s.migrations.isEmpty && (s.core 0).dq.isEmpty) = true ∧
    drains M0 (quayKey 0x200) (fun s => s.quayHole (quayKey 0x200) && decide (quayKey 0x200 / 2 ^ 60 = 1)) = true ∧
    drains M0 (hostKey 0) (fun _ => stored (hostKey 0)) = true ∧ drains M0 0x60000000 (fun _ => !stored 0x60000000) = true ∧
    drains { M0 with migrations := [{ aMove [] with src := 0x2000 }] } 0x2000 (fun s => s.inFlightAt 0x2000 4) = true ∧
    meets (tune M0 (queued [{ aStore with order := .rel }])) h0 (fun m => mayStep m.g.queue 0) = true ∧
    meets (tune M0 (queued [aStore, { aStore with pos := 1 }])) h0 (fun m => !mayStep m.g.queue 1) = true := by decide
def aBarrier (arrive : Bool) : Entry := { pendingLoad with kind := .barrier arrive 3, key := spKey 0 0, n := 16, dest := .none }
theorem witness_QueueSteps_barriers :
    meets (tune M0 (queued [aBarrier true])) h0 (fun m => mayStep m.g.queue 0 && !m.s.inFlightAt (spKey 0 0) 16 && (m.s.regionGang (spKey 0 0)).any fun y => y.uid == 1) = true ∧
    meets (tune M0 (queued [aBarrier false])) h0 (fun m => mayStep m.g.queue 0) = true ∧
    meets (tune M0 (queued [{ aBarrier true with key := spKey 3 0 }])) h0 (fun m => (m.s.regionGang (spKey 3 0)).isNone) = true ∧
    (319 < 320 ∧ 262128 % 16 = 0 ∧ 262128 + 16 ≤ 2 ^ 18) ∧ M0.poisonAt (spKey 319 262128) = false := by decide
theorem witness_QueueSteps_marks :
    meets (tune M0 (queued [{ aMark with kind := .mark true true true, scope := .sys }])) h0 (fun m => mayStep m.g.queue 0 &&
      m.g.queue.all fun e => !m.s.markWaits Q0 m.g e true) = true ∧
    meets { tune M0 (queued [pendingLoad, { anAtomic with kind := .atomic .cas 5 6 }]) with poisoned := [64] } h0 (fun m =>
      !m.s.inFlightAt 0x2000 4 && (m.s.firstPoison 0x2000 4).isSome) = true ∧
    meets (tune M0 (queued [pendingLoad, { anAtomic with kind := .atomic .cas 0 6, ty := .n32 }])) h0 (fun m => m.s.homeNat 0x2000 4 == 0 && tyBits .n32 == 8 * tyBytes .n32) = true := by decide
theorem witness_MarksAndInvalidations_page :
    meets M0 h1 (fun m => goes m (.tlbinv h1 true .dev 9) && !(m.g.queue.any fun e => e.isStore || e.isAtomic) && m.k.levels.all fun l => l.last != m.k.pc) = true ∧
    meets M0 h0 (fun m => goes m (.icinv h0 true) && goes m (.icinv h0 false) && m.k.levels.isEmpty) = true := by decide


/-! ## Witnesses of further clauses: queues, decisions, copies -/

def misfit (off : Word) : Issue → Issue := setS 10 off
theorem witness_QueueInstructions_enq :
    meets M0 h0 (fun m => goes m (.enq h0 20 9 10 0) && (m.queueOf (m.sget 9)).isNone && (m.s.who m.g).sp == some (0, 0, 4096)) = true ∧
    meets (queue 0xC1 0 M0) h0 (fun m => goes m (.enq h0 20 9 10 0) && goes m (.emit h0 9 16) && !m.active.isEmpty && (m.queueOf (m.sget 9)).any fun y => y.2.hostp) = true ∧
    meets (tune (queue 0x41 0 M0) (misfit 32)) h0 (fun m => goes m (.enq h0 20 9 10 0) && (m.queueOf (m.sget 9)).any (fun y => !y.2.hostp) && decide ((m.sget 10).toNat % 64 ≠ 0)) = true ∧
    meets (tune (queue 0x41 0 M0) (misfit 4096)) h0 (fun m => goes m (.enq h0 20 9 10 0) && decide (4096 < (m.sget 10).toNat + 64)) = true ∧
    meets (queue 0x41 0 M0) h0 (fun m => goes m (.enq h0 20 9 10 7) && (m.queueOf (m.sget 9)).any fun y => decide (y.2.cap < 8)) = true ∧
    meets (queue 0x41 0 M0) h0 (fun m => goes m (.enq h0 20 9 10 0) && goes m (.emit h0 9 16) && !good [m.s.readHome (spKey 0 0) 64] && !good (emitRecs m 16) && m.g.queue.isEmpty) = true ∧
    meets (bytes [(spKey 0 2, [0x10])] (queue 0x41 2 M0)) h0 (fun m => goes m (.enq h0 20 9 10 0) && good [m.s.readHome (spKey 0 0) 64] && !m.g.isFront &&
      (m.queueOf (m.sget 9)).any fun y => decide (y.2.cap < y.2.count + 1)) = true ∧
    meets (tune (queue 0x41 2 F0) fun m => { m with g := { m.g with gang := 1 } }) h0 (fun m => m.g.isFront && goes m (.enq h0 20 9 10 0)) = true ∧
    ([0, 20, 21] : List Nat).map (fun n => decide (n ≤ 20)) = [true, true, false] ∧
    meets (tune (queue 0x41 0 M0) busy) h0 (fun m => m.g.queue.any fun e => !e.isMark) = true := by decide
/-- The front of core 0 beside the split of M0: still running or at its end, with decisions present. -/
def fronted (ended : Bool) (dq : List Decision) (s : State) : State :=
  s.setCore { s.core 0 with dq := dq, front := (F0.core 0).front.map fun f => { f with ended := ended } }
def own (m : Issue) (ended : Bool) : Bool := (m.s.core 0).front.any fun f => f.job == m.g.job && f.ended == ended
theorem witness_Decisions_pop :
    meets (fronted false [⟨0, 7⟩] M0) h0 (fun m => goes m (.dqpop h0 20 9 false) && goes m (.dqpop h0 20 9 true) && (m.s.dqWaiters 0).isEmpty && own m false && !m.s.dqAway 0 m.g.job &&
      ((m.s.core 0).dq.find? fun y => y.job == m.g.job) == some ⟨0, 7⟩ && !(m.s.jobOf m.g).any (·.det)) = true ∧
    meets (fronted true [] M0) h0 (fun m => goes m (.dqpop h0 20 9 false) && own m true && (m.s.core 0).dq.isEmpty) = true ∧
    meets (fronted false [] M0) h0 (fun m => own m false && (m.s.core 0).dq.isEmpty) = true ∧
    meets (tune (fronted false [⟨0, 7⟩] M0) (setS 9 2)) h0 (fun m => goes m (.dqpop h0 20 9 true) && decide (((m.sget 9).toNat + 4 * 7) % 4 ≠ 0)) = true ∧
    meets (tune (fronted false [⟨0, 7⟩] M0) (setS 9 0x1000)) h0 (fun m => goes m (.dqpop h0 20 9 true) &&
      match Chk.loc { s := m.s, memo := [] } (m.s.who m.g) .gv 0x101C 4 true false with
      | (c, .ok l) => (m.g.loadNow c.s l.key 4 false).any fun y => leNat y.2 % 4 == 0
      | _ => false) = true ∧
    (let s := fronted false [⟨0, 7⟩] (tune M0 (waitsFor (.dqpop 3 20 9 false)))
     (s.dqWaiters 0).length == 1 && (s.issueOf A0 h0).isSome && (s.dqFind 0 0) == some (some ⟨0, 7⟩)) = true ∧
    (let s := fronted false [] (twoGroups (tune M0 (waitsFor (.dqpop 3 20 9 false))))
     (s.dqWaiters 0).any fun w => (s.group? (qidOf w.2.1)).any fun g => g.job == 0) = true := by decide
theorem witness_QueueEvents_each :
    (let s := tune (queue 0x41 2 M0) fun m => { m with k := { m.k with hold := .reserve 0 [[0, 0, 16]] none } }
     (s.issueOf A0 h0).any fun m => decide (m.k.hold = .reserve 0 [[0, 0, 16]] none) && waits s m [[0, 0, 16]]) = true ∧
    (queue 0xC1 1 M0).importStalls = false ∧
    (let s := gathering 0xC1 5
     gatherOk s && ((s.ctx 0).gather 0).hold.isNone && (s.deqWaiters 0 0).all fun y => ((s.group? (qidOf y.2.1)).bind s.jobOf).any fun j => !j.det && j.gdelay == 5) = true ∧
    (let s := { gathering 0xC1 5 with poisoned := [lineOf 0x3000] }
     (ctxs (fun c => { c with poisonTrap := true }) s).entryAt 0 0x3000 == none) = true ∧
    (let s := tune (gathering 0x41 5) (waitsFor (.deq 0 0 16 40))
     (s.issueOf A0 h0).any fun m => match batchReads (s.who m.g) { s := s, memo := [] } [0x3000] with
       | (c1, _, none) => !(c1.s.job? m.g.job).any (·.det)
       | _ => false) = true := by decide
/-- The clusters run with fixed timing. -/
def steady (s : State) : State := s.setCluster { s.cluster 0 with fixed := true }
def manyCmds (s : State) : State := gangs (fun y => { y with cmds := List.replicate 256 aCmd }) s
theorem witness_CopyEngine_cpy :
    meets (steady (tune M0 request)) h0 (fun m => goes m (.cpy h0 .lin 20 40) && reqOk m none && (m.s.cluster (m.g.host / 8)).fixed &&
      match (m.s.copyCheck m.g (some .lin) (m.rawReq 40) none) with | (s1, .ok y) => s1.promisable (s1.who m.g) y.1 | _ => false) = true ∧
    meets (tune M0 request) h0 (fun m => goes m (.cpy h0 .lin 20 40) && reqOk m none && !(m.s.cluster (m.g.host / 8)).fixed) = true ∧
    meets (manyCmds (tune M0 request)) h0 (fun m => goes m (.cpy h0 .lin 0 40) && reqOk m none && (m.s.copyGang m.g).any fun y => decide (256 ≤ y.cmds.length)) = true ∧
    meets (tune M0 (withOp (.tdef 12 0 false))) h1 (fun m => goes m (.cpyTid h1 .lin 0 40 12) && m.g.tidBusy 12) = true ∧
    meets (gangs (fun y => { y with state := .evicted }) (tune F0 (setS 41 0x1000000))) h0 (fun m => m.g.isFront && goes m (.cpy h0 .lin 0 40) && (m.s.who m.g).sp.isNone && m.frontWaits (m.rawReq 40)) = true := by decide
def kicked (n : Word) : State := bytes [(spKey 0 16, [1, 0, 0, 0, 128])] (tune M0 (setS 10 n))
theorem witness_CopyEngine_kick :
    meets (kicked 1) h0 (fun m => goes m (.kick h0 9 10) && (m.s.who m.g).sp == some (0, 0, 4096) && m.g.queue.isEmpty && !m.ctx.poisonTrap &&
      (m.s.copyGang m.g).any fun y => let raws := [BitVec.ofNat 512 (leNat (m.s.readHome (spKey 0 0) 64))]
        ((m.s.viewHome m.g.host (spKey 0 0) 64).kickCheck m.g raws).2.isNone && (m.enterAll y.uid raws m.s).2.isEmpty) = true ∧
    meets (manyCmds (kicked 1)) h0 (fun m => (m.s.copyGang m.g).any fun y => !(m.enterAll y.uid [BitVec.ofNat 512 (leNat (m.s.readHome (spKey 0 0) 64))] m.s).2.isEmpty) = true ∧
    meets (tune M0 (setS 11 65 ∘ setS 10 1)) h0 (fun m => goes m (.kick h0 12 11) && decide (4096 < 0 + 64 * (m.sget 11).toNat) && decide ((m.sget 11).toNat ≤ 4096)) = true ∧
    meets (kicked 1) h0 (fun m => ((m.s.viewHome m.g.host (spKey 0 0) 64).kickCheck m.g [0]).2.isSome) = true ∧
    meets (tune M0 fun m => { m with k := { m.k with hold := .kick [0] } }) h0 (fun m => goes m (.kick h0 9 10) && decide (m.k.hold = .kick [0])) = true := by decide
/-- A copy whose line meets a fault, or whose source line is poisoned. -/
def started : CopyCmd := { aCmd with accepted := true }
theorem witness_CopyEngine_lines :
    (let s := copying { started with req := { aReq with src := 0x4000000 } }
     (s.gang? 1).any fun y => match s.copyLine y 0 { started with req := { aReq with src := 0x4000000 } } 0 with | .fault .. => true | _ => false) = true ∧
    (let s := copying started
     (s.gang? 1).any fun y => match Chk.parts { s := s, memo := [] } (y.who 0) .gv 0x1000 128 true false with
       | (c1, .ok ps) => !c1.s.poisonParts ps && (match c1.parts (y.who 0) .gv 0x2000 128 false true with | (c2, .ok qs) => !c2.s.flightParts qs | _ => false)
       | _ => false) = true ∧
    (let s := { copying started with poisoned := [32] }
     s.poisonParts [(0x1000, 128)]) = true ∧
    (let c := { started with landed := [0], fromCpy := false }
     ((copying c).line? c 0).isSome && decide ((copying c).lineCount c ≤ 1)) = true ∧
    (let c := { started with landed := [0], req := { aReq with bben := true } }
     ((copying c).line? c 0).isSome && c.req.bben) = true := by decide


/-! ## Witnesses of further clauses: matrices, geometry, engines -/

def filling (img : BitVec 256) (gen : Word) (s : State) : State :=
  s.setCore { s.core 0 with wbuf := (ready img gen s |>.core 0).wbuf.map fun w => { w with st := .loading, cursor := 0 } }
theorem witness_MatrixInstructions_loading :
    meets (filling 0 0 (weights 0 M0)) h1 (fun m => goes m (.mma h1 .bf16 4 (r 9) 5 false (r 0)) && m.converged && !m.s.coreAway 0 0 &&
      (m.ctx.named 5 [.gv, .ws]).any (fun y => !y.comp && decide (y.ty ∈ ([.f16, .bf16, .e4m3, .e5m2, .cb8] : List Ty))) && (m.s.wentry 0 0 5).any fun w => w.st == .loading) = true ∧
    meets (tune (filling 0 0 (weights 0 M0)) fun m => { m with k := { m.k with hold := .mma 0 } }) h1 (fun m => goes m (.mma h1 .bf16 4 (r 9) 5 true (r 12)) &&
      ((m.s.core 0).wbuf.find? fun w => w.owner == 0 && w.no == 0 && w.tid == 5).any fun w => w.st == .loading) = true ∧
    meets (tune (ready 0 0 (weights 0 M0)) fun m => { m with k := { m.k with hold := .mma 0 } }) h1 (fun m => goes m (.mma h1 .bf16 4 (r 9) 5 false (r 0)) &&
      ((m.s.core 0).wbuf.find? fun w => w.owner == 0 && w.no == 0 && w.tid == 5).any fun w => w.st == .ready) = true ∧
    meets (pattern true (ready 0 1 (tensors [(5, entry 64 64 64 ((tyCode .e4m3).toNat * 2 ^ 225 + 2 ^ 236 + 3 * 2 ^ 238))] M0))) h1 (fun m => goes m (.mmas h1 true .e4m3 0 (r 9) 5 3 false (r 0)) &&
      (m.ctx.named 5 [.gv, .ws]).any (fun y => y.comp && y.pat == 3 && decide (tileK y.ty ≠ 32)) && (m.s.pslot 0 0 3).inv) = true := by decide
/-- A compacting read's control pair: no entry skipped, 96 at most. -/
def compacting (m : Issue) : Issue := setS 12 96 m
theorem witness_MatrixInstructions_compacting :
    meets (tune M0 compacting) h1 (fun m => goes m (.mrdV h1 .bf16 true false (r 9) 4 (b 12)) && m.converged && compactCtl false (m.sget 12).toNat == some (0, 96) &&
      !m.g.accBusy 4 && (m.vrange 9 0).isSome && ((List.range 2).map fun y => nonZeros .bf16 (m.g.acc.getD 4 []) y).flatten.isEmpty) = true ∧
    meets (tune M0 compacting) h1 (fun m => goes m (.mrdV h1 .bf16 true true (r 9) 4 (b 12)) && compactCtl true (m.sget 12).toNat == some (0, 96)) = true ∧
    meets (tune M0 compacting) h1 (fun m => goes m (.mrdS h1 .bf16 .gv true false (r 20) 4 (b 12)) && decide (m.k.hold = .none) && m.converged &&
      match (m.mrdDest .gv (m.mrdBase .gv 20) 8 0).2 with | .ok _ => true | .error _ => false) = true ∧
    meets (tune M0 compacting) h1 (fun m => goes m (.mrdS h1 .bf16 .gv true true (r 20) 4 (b 12)) && decide (m.k.hold = .none) &&
      match m.mrdDest .gv (m.mrdBase .gv 20 + 8) 8 (8 * 96) with
      | (s1, .ok _) => (match Chk.loc { s := s1, memo := [] } (s1.who m.g) .gv (m.mrdBase .gv 20) 8 true true with
        | (c1, .ok l) => c1.s.atomicOk .add .n64 l
        | _ => false)
      | _ => false) = true ∧
    meets (tune (tune M0 (withOp (.mrdTick 4 .f32 0 [] 96 [] [] 0 false))) fun m => { m with k := { m.k with hold := .tick 0 } }) h1 (fun m =>
      goes m (.mrdS h1 .bf16 .gv true true (r 20) 4 (b 12)) && (m.g.op? 0).any fun o => decide (o.kind = .mrdTick 4 .f32 0 [] 96 [] [] 0 false)) = true ∧
    meets (tune M0 noLanes) h1 (fun m => goes m (.mrdS h1 .bf16 .gv false false (r 20) 4 (b 12)) && goes m (.mrdV h1 .bf16 true false (r 9) 4 (b 12)) && !m.converged) = true := by decide
theorem witness_GeometryInstructions_bad :
    meets M0 h1 (fun m => goes m (.ginwSmp h1 (r 40) (r 20) (r 10)) && (m.sget 10).toNat == 0 && !m.active.isEmpty && m.g.queue.isEmpty &&
      !(nodeOf (leNat (m.s.readHome (spKey 0 0) 128))).headOk) = true ∧
    meets (tune M0 (setS 9 4096)) h1 (fun m => goes m (.ginwRay h1 (r 40) (r 20) (r 9)) && decide (4096 < (m.sget 9).toNat / 128 * 128 + 128)) = true ∧
    meets (tune M0 fun m => { m with g := { m.g with x := Vector.replicate 4 (-8) } }) h1 (fun m => goes m (.gqryS h1 .near (r 9) (x 9) 0) && goes m (.gpopS h1 (x 10) (r 9)) &&
      decide (m.reg (x 9) < 3) && decide (m.reg (x 10) < 3)) = true ∧
    meets (tune M0 noLanes) h1 (fun m => goes m (.gpopV h1 (r 20) (r 10)) && goes m (.gpatch h1 20 16 5) && goes m (.grep h1 20 9 6) && m.active.isEmpty) = true ∧
    meets M0 h1 (fun m => goes m (.gqryV h1 .near (r 9) (r 20) 0) && goes m (.gqryS h1 .near (r 9) (r 20) 0) && (m.ctx.geom 0).isNone) = true ∧
    meets (tune M0 fun m => { m with g := { m.g with queries := [newQuery 0 .near [] 0] } }) h1 (fun m => goes m (.gpopS h1 (r 20) (r 9)) &&
      (m.g.qslot 0).any fun x => x.active && !x.ready) = true := by decide
def walking (t : QTask) (m : Issue) : Issue := { m with g := { m.g with queries := [{ newQuery 7 .near [] 0 with walk := [t] }] } }
theorem witness_EngineEvents_walks :
    meets (tune M0 (walking (rootTask []))) h0 (fun m => (m.g.qslot 7).any fun y => y.active && !y.ready && !y.over && match y.walk with
      | t :: _ => !t.quiet && (match (m.s.queryVisit (m.s.who m.g) 0 y t).2 with | .fail _ => true | _ => false)
      | [] => false) = true ∧
    (let s := tune (filling 0 0 (weights 0 M0)) id
     ((s.core 0).wbuf.find? fun w => w.no == 0).any fun w => w.st == .loading && !w.paused && (s.group? w.issuer).isSome) = true ∧
    meets (tune M0 (withOp (.gras 6 0 [] [.commit 0 0 0 0] 1 2 3 0 0 0))) h0 (fun m =>
      (({ m.s with choices := m.s.choices + 1 } : State).commitSample (m.s.who m.g) m.g.host (tensorOf 0) 0 0 0 0).isSome) = true ∧
    meets (tune M0 (withOp (.tdef 5 0 true))) h0 (fun m => (m.g.op? 0).any fun o => decide (o.kind = .tdef 5 0 true) && !m.s.tidUsed 0 5) = true := by decide


/-! ## Witnesses of further clauses: jobs, Sillage, the host -/

theorem witness_JobEvents_others :
    (let s := launched 0 aDesc
     (s.ctx? 0).any fun c => (s.ring? c 0 64).any fun y => let s1 := s.importStep none
       decide (y.count ≠ 0) && s.attached && !s.importStalls && (c.slotOf (s1.homeNat (c.qkey (y.entry 64 y.head)) 64 / 2 ^ 64 % 2 ^ 19)).isNone) = true ∧
    (let s := gangs (fun y => { y with stage := 1 }) (retire M0)
     (s.gang? 1).any fun y => y.state == .retired && !y.groups.isEmpty && y.stage != 0 && (s.job? y.job).isSome) = true ∧
    (let s := jobs (fun j => { j with state := .stopped, status := 4 }) (retire M0)
     (s.job? 0).any fun j => j.state == .stopped && !s.opsLeft 0) = true ∧
    (let s := jobs (fun j => { j with qmask := 1 }) (retire (queue 0x41 1 M0))
     (s.job? 0).any fun j => j.queues.any fun q => (s.qhead (s.ctx 0) q).head != (s.qhead (s.ctx 0) q).tail) = true ∧
    (let s := jobs (fun j => { j with det := true, traceSz := 64 }) (retire M0)
     (s.job? 0).any fun j => (s.writeTrace (s.ctx j.ctx) j).2) = true ∧
    (let s := jobs (fun j => { j with det := true, traceSz := 63 }) (retire M0)
     (s.job? 0).any fun j => !(s.writeTrace (s.ctx j.ctx) j).2) = true := by decide
theorem witness_JobEvents_window :
    (let s : State := { tune (spillArea M0) (fun m => let n := spilled8 m; { n with k := { n.k with state := .ready } }) with runs := [] }
     (pickCand ((s.core 0).now 0 + 1) ((s.cands 0 0).filter fun y => !s.unready y.g y.k)).any fun c => !c.g.resident c.k.base &&
       (match (({ s with choices := s.choices + 1 } : State).window c.g c.k.pos c.g.bases c.k.base noMid).2.2 with | .ok => true | _ => false)) = true := by decide
/-- Seventeen entries held, or one held above one spilled. -/
def tall (n spilled : Nat) (m : Issue) : Issue := { m with g := { m.g with stack := List.replicate n (branchEntry 0 (BitVec.allOnes 96) 0), spilled := spilled } }
theorem witness_SillageAndFaultEvents_entries :
    meets (spillArea (tune M0 (tall 17 0))) h0 (fun m => decide (16 < m.g.held) && m.s.onCore Q0 && match (m.s.spillEntry m.g).2 with | .ok _ => true | .error _ => false) = true ∧
    meets (tune M0 (tall 17 0)) h0 (fun m => decide (16 < m.g.held) && match (m.s.spillEntry m.g).2 with | .ok _ => false | .error _ => true) = true ∧
    meets (spillArea (tune M0 (tall 2 1))) h0 (fun m => decide (m.g.held < 16) && decide (0 + 1 = m.g.spilled) && match (m.s.refillEntry m.g).2.2 with | .ok => true | _ => false) = true ∧
    meets (tune M0 (tall 2 1)) h0 (fun m => match (m.s.refillEntry m.g).2.2 with | .bad _ => true | _ => false) = true ∧
    meets (tune M0 shifted) h0 (fun m => match (m.s.spillSlot m.g 8).2 with | .ok _ => false | .error _ => true) = true ∧
    meets (tune M0 spilled8) h0 (fun m => match (m.s.fillWindow (m.g.refillPos 8) (m.g.bases ++ m.g.parkedBases) (m.g.yield 8) [8]).2.2 with | .bad _ => true | _ => false) = true := by decide
def descriptor (va new : Nat) : State := commanded 3 0x4000 (bytes [(quayKey 0x4000, leBytes 8 va ++ leBytes 8 new)] M0)
/-- What MIGRATE finds of a descriptor: the leaf of its address, and whether NEWPTE may take its place. -/
def finds (s : State) (p : State → Option (Nat × Nat × Nat) → Nat → Nat → Bool) : Bool :=
  comes s 3 0x4000 fun s => let d := s.homeNat ((s.ctx 0).qkey 0x4000) 32
    zeroBits d [(254, 200), (191, 128), (63, 56)] && p s (s.leaf (s.ctx 0) (d % 2 ^ 56)) (d % 2 ^ 56) (d / 2 ^ 64 % 2 ^ 64)
theorem witness_HostCommands_migrate :
    comes (commanded 3 0 M0) 3 0 (fun _ => decide (0 < 0x1000)) = true ∧ comes (commanded 3 0x4008 M0) 3 0x4008 (fun _ => decide (0x4008 % 32 ≠ 0)) = true ∧
    comes (commanded 3 0x10000 M0) 3 0x10000 (fun s => decide ((s.ctx 0).qaBytes < 0x10000 + 32)) = true ∧
    finds (descriptor 0x4000000 0) (fun _ l _ _ => l.isNone) = true ∧
    finds (descriptor 0x1000 0x400000F) (fun _ l va _ => l.any fun y => decide (va % 2 ^ y.2.1 ≠ 0)) = true ∧
    finds (descriptor 0 0) (fun s l va new => l.any fun y => decide (va % 2 ^ y.2.1 = 0) && !s.destOk y.2.1 new) = true ∧
    finds { moving 0 with migrations := [aMove []] } (fun s l va new => l.any (fun y => decide (va % 2 ^ y.2.1 = 0) && s.destOk y.2.1 new) &&
      s.migrations.any fun m => m.ctx == 0 && m.va == va) = true := by decide
theorem witness_HostCommands_abort :
    comes (commanded 2 256 { M0 with runs := [] }) 2 256 (fun s => (s.jobs.filter fun y => y.ctx == 0 && y.cidx == 256 && y.state != .complete && y.state != .stopped).length == 1 && !s.jobBusy 0) = true ∧
    comes (commanded 2 256 M0) 2 256 (fun s => s.jobBusy 0) = true := by decide
theorem witness_MigrationSteps_each :
    (let s := { M0 with migrations := [aMove []] }
     Memory.wf s.mem && (s.migrations.find? fun y => y.id == 4) == some (aMove []) && decide (0 < 128 / 128) && stored (0x4000000 + 128 * 0) && !s.poisonAt 0x4000000) = true ∧
    (let s := { tune M0 (queued [{ aStore with key := 0 }]) with migrations := [aMove [0]] }
     s.gangs.any fun y => y.groups.any fun g => g.uses 0 128) = true ∧
    (let s := { M0 with migrations := [aMove [0]] }
     deviceExists (aMove [0]).pteKey && !(s.gangs.any fun y => y.groups.any fun g => g.uses 0 128) && s.cores.all fun k => k.front.isNone) = true := by decide
theorem witness_EvictionEvents_conditions :
    (let s := evicting M0
     (s.gangs.find? fun p => (s.victimFor p).any fun v => v.uid == 1).any fun p => p.uid == 3) = true ∧
    (let s := staged 1 .resident (idle M0)
     (s.gang? 1).any fun y => y.groups.all fun g => !s.loadsWeights (.group 1 g.idx)) = true ∧
    stored (((ctxs (fun c => { c with savePool := 0x1000000, saveSz := 256 }) M0).ctx 0).poolKey 0) = true ∧
    (let s := staged 0 .evicted (idle (ctxs (fun c => { c with savePool := 0x1000000, saveSz := 256 }) M0))
     (s.gang? 1).any fun y => (s.job? 0).any fun j => (s.restoreAt y j).any fun z => z.2.1.length == y.groups.length && decide ((s.ctx 0).poolKey y.saveOff + j.areaSize ≤ 2 ^ 60)) = true ∧
    (let s := bytes [(quayKey 0x41, [0x10]), (quayKey 0x50, [1])] M0
     (s.ring? (s.ctx 0) 0x40 16).any fun y => decide ((y.tail + 2 ^ 64 - 0) % 2 ^ 64 ≤ y.count) && decide (y.count < (y.tail + 2 ^ 64 - (2 ^ 64 - 1)) % 2 ^ 64)) = true := by decide
theorem witness_EvictionEvents_clash :
    (let s := ready 0 0 M0
     let s := s.setCore { s.core 0 with saved := [(0, (s.core 0).wbuf, [], [])] }
     ((s.core 0).saved.find? fun y => y.1 == 0).any fun y => y.2.1.any fun w => (s.core 0).wbuf.any fun z => z.no == w.no) = true ∧
    (let s := fullDq M0
     (s.core 0).dq.any (s.decisionOf 0)) = true ∧
    (let s := pattern false M0
     (s.core 0).pslots.any fun p => p.2.owner == 0) = true := by decide
theorem witness_TimeEvents_bubbles :
    ((State.reset.lastBubble).all fun f => decide (f + 15 ≤ 0)) = true ∧
    (let s : State := { State.reset with lastBubble := some 5, fcount := 19 }
     s.lastBubble.any fun f => decide (s.fcount < f + 15)) = true ∧
    (let s : State := { State.reset with lastBubble := some 5, fcount := 20 }
     s.lastBubble.all fun f => decide (f + 15 ≤ s.fcount)) = true ∧
    waiting (.wakeat 0) (fun m s => decide (m.k.wait = .wakeat 0) && (s.lateFor (qidOf A0) m.g.host m.k.wait).isEmpty) = true := by decide
def asked (v : Word) (s : State) : State := { s with ctxcmd := v, ctxPend := true }
/-- The interface of context 0 is bound to stream 3 of link 0, in RUN. -/
def runs (s : State) : State := { s with linkUp := 1, tdisp := [⟨0, false, 3, true⟩] }
theorem witness_HostEvents_commands :
    (asked 1 M0).ctxBusy 0x40 [2] = true ∧ M0.ctxBusy 0x40 [1] = false ∧
    ((asked 7 M0).ctxAsked == some (7, 0)) = true ∧ ((asked 1 M0).ctxAsked == some (1, 0)) = true ∧
    ((asked 0x302 M0).ctxAsked == some (2, 3) && ((asked 0x302 M0).ctx? 3).isNone && decide (Memory.wf (asked 0x302 M0).mem = true)) = true ∧
    ((asked 2 M0).ctxAsked == some (2, 0) && (M0.ctx? 0).isSome && M0.jobs.any fun j => j.ctx == 0 && j.state != .complete) = true ∧
    (let s := jobs (fun j => { j with state := .complete }) (gangs (fun y => { y with state := .retired, cmds := [] }) (asked 2 M0))
     (s.ctx? 0).isSome && s.jobs.all (fun j => j.state == .complete) && s.gangs.all (fun y => y.state != .evicted && y.cmds.isEmpty && y.groups.all fun g => !g.unfinished) &&
       s.migrations.isEmpty && s.cores.all fun k => k.front.isNone) = true ∧
    recordOk 0 = false ∧ bitsOf (2 ^ 332) 335 332 = 1 ∧ recordOk (2 ^ 332) = false := by decide
theorem witness_HostEvents_interfaces :
    ((runs M0).up false && (runs M0).refuses ⟨false, none⟩ .quay 0 && !(runs M0).refuses ⟨false, some 3⟩ .quay 0 && (runs M0).refuses ⟨false, some 3⟩ .control 0x40 &&
      (runs M0).refuses ⟨false, none⟩ .device 0x2000) = true ∧
    ((queue 0x41 0 M0).tailByte 0x610 && (queue 0x41 0 M0).tailByte 0x617 && !(queue 0x41 0 M0).tailByte 0x618 && !(queue 0xC1 0 M0).tailByte 0x610) = true := by decide
theorem witness_LinkEvents_interfaces :
    (let s : State := { M0 with linkUp := 1 }
     (s.ctx? 0).isSome && s.tdisp.isEmpty && s.up false) = true ∧
    ((runs M0).tdisp.any fun y => y.ctx == 0 && y.link == false) = true ∧
    (let s : State := { runs M0 with tdisp := [⟨0, false, 3, false⟩] }
     s.tdisp.any fun y => y.ctx == 0 && y.link == false && !y.run) = true := by decide
theorem witness_LinkEvents_pod :
    (let s := ctxs (fun c => { c with podTag := 5 }) M0
     (s.contexts.find? fun c => c.podTag == 5).any fun c => (s.podKey c ⟨5, 0x4000000, .read 4⟩).isNone &&
       (s.podKey c ⟨5, 0x2000, .write [1, 2, 3, 4] true⟩ == some 0x2000) && !s.inFlightAt 0x2000 4 && (s.podKey c ⟨5, 0x2000, .atom .add .i32 1 0 true⟩ == some 0x2000) &&
       ({ s with migrations := [{ aMove [] with src := 0x2000 }] } : State).inFlightAt 0x2000 4) = true := by decide

/-! ## Witnesses of further clauses: divergence to many places, queues at a position, restoring -/

/-- Lane l of the pair v9, v10 names one of six words. -/
def six (m : Issue) : Issue := setV 10 (fun _ => 0) (setV 9 (fun l => BitVec.ofNat 32 (0x200000 + 4 * (l % 6))) m)
def places (m : Issue) : List (DWord × Mask) :=
  (List.range 6).map fun i => (BitVec.ofNat 64 (0x200000 + 4 * i), maskOf (m.active.filter fun l => l % 6 == i))
def diverging (m : Issue) : Bool :=
  let ts := places m
  let V := m.vval .n64 9
  !m.g.isFront && m.g.spilled == 0 && decide (m.g.stack.length < 16) && decide (ts.Pairwise fun x y => x.1.toNat < y.1.toNat) &&
    ts.all (fun x => x.2 == maskOf (m.active.filter fun l => V l == x.1) && x.2 != 0) &&
    m.active.all fun l => (V l).setWidth 2 == (0 : BitVec 2) && ts.any fun x => x.1 == V l
theorem witness_Divergence_many :
    meets (tune M0 six) h0 (fun m => goes m (.jmpiV h0 9) && diverging m) = true ∧
    meets (tune M0 six) h0 (fun m => goes m (.calliV h0 0 9) && diverging m && !m.linkPending 0 && decide (2 ≤ m.g.ring.length) &&
      m.g.fits ((m.k.base + 0) :: (m.g.splits.filter fun x => !(x.no == m.k.no)).map (·.base)) && m.g.resident (m.k.base + 0)) = true := by decide
/-- What the group of M0 is after an instruction. -/
def leaves (s : State) (i : Instr) (p : Group → Bool) : Bool := match exec i s with | .next t => (t.group? Q0).any p | _ => false
/-- R122: four splits, lowest PC first, and the lanes of the other two places pending on the entry. -/
theorem test_jmpi_six : leaves (tune M0 six) (.jmpiV h0 9) (fun g =>
    g.splits.map (fun k => (k.no, k.pc)) == [(0, 0x200000), (1, 0x200004), (2, 0x200008), (3, 0x20000C)] &&
      g.stack.map (fun e => (e.kind, e.jmask, e.jpc)) == [(.branch, 0xC30C30C30C30C30C30C30C30, 0x100000)]) = true := by decide
/-- R332: a call entry, whose point is the next instruction, and the link in s8 and s9. -/
theorem test_calli_six : leaves (tune M0 six) (.calliV h0 0 9) (fun g => g.splits.length == 4 && g.scal 8 == 0x100004 && g.scal 9 == 0 &&
    g.stack.map (fun e => (e.kind, e.rpcv, e.rpc)) == [(.call, true, 0x100004)]) = true := by decide
/-- Lane 0 names a word, lane 1 none. -/
def oddSecond (m : Issue) : Issue := setV 10 (fun _ => 0) (setV 9 (fun l => if l = 0 then 0x200000 else 0x200002) m)
theorem witness_Branches_oddSecond :
    meets (tune M0 oddSecond) h0 (fun m => goes m (.jmpiV h0 9) && goes m (.calliV h0 0 9) && match m.active with
      | x :: l :: _ => (m.vval .n64 9 x).setWidth 2 == (0 : BitVec 2) && (m.vval .n64 9 l).setWidth 2 != (0 : BitVec 2)
      | _ => false) = true ∧
    meets (tune M0 noLanes) h0 (fun m => goes m (.jmpiV h0 9) && goes m (.calliV h0 0 9) && m.active.isEmpty) = true := by decide
theorem witness_CrossLaneResults_scans : shapeOf .f32 = some f32s ∧ tyFloat .i32 = false ∧ [(5 : DWord)] ≠ [] := ⟨rfl, rfl, by decide⟩
theorem witness_FloatResults_functions :
    f32s.value 0x40000000 = pow2 1 ∧ f32s.value 0x3F800000 = pow2 0 ∧ f32s.value 0xC0200000 = (-3 : Int) + 1 / 2 ∧
    f32s.isFinite 0xBF800000 = true ∧ f32s.neg 0xBF800000 = true ∧ (f32s.value 0x3F400000).den = 4 ∧ 0 < f32s.value 0x3F400000 := by decide +kernel
theorem witness_ByteAndGroupWaits_away :
    meets (gangs (fun y => { y with state := .evicted }) F0) h0 (fun m => (m.s.who m.g).sp.isNone && goes m (.bbi h0 9 10) && goes m (.bba h0 9 10) && goes m (.bbw h0 9)) = true := by
  decide
theorem witness_QueueSteps_operations :
    ([.min, .max, .and, .or, .xor] : List AtomOp).all (fun o =>
      meets (tune M0 (queued [{ anAtomic with kind := .atomic o 5 0, pos := 0 }])) h0 fun m => mayStep m.g.queue 0 && !tyFloat anAtomic.ty && (m.s.firstPoison 0x2000 4).isNone) = true := by
  decide
theorem witness_MarksAndInvalidations_others :
    meets (twoGroups (tune M0 threeLevels)) h0 (fun m => goes m (.icinv h0 true) && (m.s.gang? 1).any (fun y => y.host == m.g.host) &&
      (m.s.group? (.group 1 1)).any fun z => decide (QId.group 1 1 ≠ qidOf m.ag) && z.splits.any fun k => !k.levels.isEmpty) = true := by decide
theorem witness_QueueInstructions_older :
    meets (tune (queue 0x41 0 M0) busy) h0 (fun m => waits m.s m [[0, 0, 16]] && m.g.queue.any fun e => !e.isMark && decide (e.pos < m.g.nextPos)) = true ∧
    meets (tune (queue 0x41 0 M0) busy) h0 (fun m => match m.s.reserve m.g 0 0 [[0, 0, 16]] with | .done .. => true | _ => false) = true := by decide
def restoring (cs : List CopyCmd) : State := gangs (fun y => { y with stage := 3, cmds := cs }) M0
def reissued (id : Nat) : CopyCmd := { aCmd with id := id, again := true }
theorem witness_CopyEngine_restored :
    (let s := restoring [reissued 5, reissued 6]
     (s.cmd? 5).any (fun c => !c.accepted) && (s.gang? 1).any fun y => y.stage == 3 && y.state != .evicted && (s.job? y.job).isSome &&
       (y.cmds.takeWhile fun z => !(z.id == 5)).isEmpty && y.cmds.any fun z => z.id != 5 && !z.accepted && z.again) = true ∧
    (let s := restoring [{ reissued 5 with accepted := true }, reissued 6]
     (s.cmd? 6).any (fun c => !c.accepted) && (s.gang? 1).any fun y => decide (y.cmds.map (·.id)).Nodup &&
       (y.cmds.takeWhile fun z => !(z.id == 6)).all (·.accepted) && y.cmds.all fun z => z.id == 6 || z.accepted || !z.again) = true ∧
    (let c := { started with landed := [0, 3], req := { aReq with len := 1024 } }
     let s := gangs (fun y => { y with stage := 2 }) (copying c)
     (s.gang? 1).any (fun y => y.stage == 2) && decide (c.req.mode ≠ .xch) && c.landed.all (fun n => decide (n < 4)) && s.nextLine c == some 1 &&
       s.nextLine c != some 2) = true := by decide
/-- R291: with the last re-issued command accepted, the gang's restoration is over. -/
theorem test_restored : (match exec (.engineAccept 6) (restoring [{ reissued 5 with accepted := true }, reissued 6]) with
    | .next t => (t.gang? 1).any fun y => y.stage == 0 && y.cmds.all (·.accepted)
    | _ => false) = true := by decide
theorem witness_TensorOperations_refused :
    meets (tune (bytes [(0x201F, [0xC0])] M0) bases) h1 (fun m => goes m (.tdef h1 5 10) && lineOk m 0x2000 && !tdefOk (BitVec.ofNat 256 (leNat (cellsGet m.s.mem 0x2000 32)))) = true ∧
    meets (tensors [(5, selBit)] (tune M0 bases)) h1 (fun m => goes m (.tdef h1 5 10) && lineOk m 0x2000 &&
      (tensorOf (tdefEntry (m.ctx.tensor 5) 0)).sel && !(tensorOf (tdefEntry (m.ctx.tensor 5) 0)).pub) = true ∧
    meets M0 h1 (fun m => goes m (.publish h1 5) && (m.ctx.named 5 [.gv, .sp, .ws]).isNone) = true ∧
    meets (tune M0 bases) h1 (fun m => goes m (.pload h1 3 (r 10)) && lineOk m 0x2000 && (patOf 0).isNone) = true := by decide
/-- A page goes to the GDDR of module 5, compressed, over link 1 in version 2. -/
def leaving : State :=
  { M0 with routes := [(5, 2)], gulVer := [(1, 2)], tags := [(0, 2)]
            migrations := [{ aMove [] with src := 0, dst := peerKey 5 0x1000000000, newPte := BitVec.ofNat 64 (5 * 2 ^ 52 + 0x100000006F) }] }
theorem witness_MigrationSteps_travels :
    (leaving.migrations.all fun m => leaving.travels m m.src m.dst && !leaving.poisonAt m.src && stored m.dst && inGddr m.dst) = true := by decide
theorem witness_EvictionEvents_waits :
    (let s := staged 2 .resident (idle (tune M0 (queued [aStore])))
     (s.gang? 1).any fun y => y.groups.any fun g => !g.drained) = true ∧
    (let s := staged 2 .resident (idle (copying { aCmd with req := { aReq with mode := .xch } }))
     (s.gang? 1).any fun y => y.cmds.any fun z => z.req.mode == .xch) = true := by decide
theorem witness_EvictionEvents_back :
    (let s := gangs (fun y => { y with cmds := [reissued 5] }) (staged 0 .evicted (idle M0))
     (s.gang? 1).any fun y => (s.job? 0).any fun j => y.state == .evicted && (s.restoreAt y j).isSome && s.firstFor y 0 && !s.evictorWaits y &&
       y.cmds.any fun z => !z.accepted && z.again) = true ∧
    (let s := staged 1 .resident (tune M0 (waitsFor (.wakeat 0)))
     s.evicting (qidOf A0) && (s.waiter A0).isSome) = true := by decide
theorem witness_HostEvents_lands :
    (let s : State := { attach M0 with linkUp := 3 }
     s.up false && s.booted && s.hifVer == 1 && Memory.wf s.mem && s.migrations.isEmpty && !s.ctxBusy 8 [1] && !s.refuses ⟨false, none⟩ .control 8 &&
       !s.tailByte 0x600 && !s.refuses ⟨false, none⟩ .quay 0x600 && !s.quayHole (quayKey 0x600) && s.quayHole (quayKey 0x200) &&
       deviceExists 0x2000 && !deviceExists 0x60000000) = true ∧
    ({ runs M0 with booted := true } : State).refuses ⟨false, some 3⟩ .control 0x40 = true ∧ ({ M0 with hifVer := 0 } : State).hifVer ≠ 1 ∧
    (let s := ctxs (fun c => { c with wsSize := 1 }) M0
     s.contexts.any fun c => decide (c.wsBase * 2 ^ 21 ≤ 5) && decide (5 < (c.wsBase + c.wsSize) * 2 ^ 21) && s.jobs.any fun j => j.ctx == c.id && j.state == .active) = true := by
  decide
/-- R313: source 0 stops a counter at its value; R295: VERSION reads 1 as it was chosen. -/
theorem test_counter_stops : (match exec (.eventCounterWrite 3 2 (2 ^ 79 + 7)) { M0 with evCounters := [{ cluster := 3, k := 2, enable := true, allCtx := true, ctx := 0, source := 1, count := 9 }] } with
    | .next t => (t.counterOf 3 2).count == 9 && (t.counterOf 3 2).source == 0
    | _ => false) = true := by decide

/-! ## Witnesses of further clauses: forms, boundaries, engines -/

theorem witness_StepRuns_undecoded :
    meets (counted 1 (at' [0])) h0 (fun m => m.capture.fuse.isNone && decide (m.k.hold ≠ .prot) && decide ((counted 1 (at' [0])).runCount ≠ 0) &&
      match (m.capture.words m.capture.k.pc).2 with | .ok ws => (decodeWords ws).isNone | .error _ => false) = true := by decide
theorem witness_ChecksAtIssue_lowest :
    meets M0 h0 (fun m => ([.deq h0 9 9 2, .enq h0 2 9 9 0, .dqpop h0 2 9 false, .cpy h0 .lin 0 2, .cpy h0 .lin 2 3] : List Instr).all fun i =>
      i.wf && !lowestOk i && (m.g.fieldTrap h0 i).isNone && (uses i).all fun u => decide (m.g.regAt h0 u.o + u.n - 1 ≤ 7 + m.g.span)) = true ∧
    BelowLowest (.cpy h0 .lin 2 3) ∧ BelowLowest (.gpopS h1 (r 2) (r 9)) := by
  refine ⟨by decide, ?_, ?_⟩
  · exact .inr (.inr (.inr (.inl ⟨_, _, _, _, rfl, .inr (.inr rfl)⟩)))
  · exact .inr (.inr (.inr (.inr (.inr (.inr ⟨_, _, _, rfl, rfl, by decide⟩)))))
theorem witness_ScalarResults_fields : tyBits .i64 = 64 ∧ tyBits .n32 = 32 ∧ (bitExtract .i64 (BitVec.ofNat 64 (2 ^ 63)) 63).getLsbD 5 = true ∧
    (bitInsert .n32 0xFF 0x1FF 0).getLsbD 31 = true := by decide
/-- WSREFRESH where the calendar is fixed and where it is not, and an argument. -/
theorem witness_SpecialRegisters_each :
    allGo (steady M0) h0 [.srd h0 9 0x06, .srdPair h0 62 0x06, .srd h0 9 0x20, .srdPair h0 62 0x3F] = true ∧
    ((steady M0).cluster 0).fixed = true ∧ (M0.cluster 0).fixed = false ∧ 1280 ∣ 1280 ∧ M0.fcount < 1280 ∧ 1280 ≤ M0.fcount + 1280 ∧
    (0x3F : Byte) = BitVec.ofNat 8 (0x20 + 31) := by decide
theorem witness_FloatResults_infinities :
    f32s.isInf 0x7F800000 = true ∧ f32s.isInf 0xFF800000 = true ∧ f32s.neg 0x7F800000 = false ∧ f32s.isFinite 0 = true ∧ f32s.value 0 = 0 ∧
    f32s.isFinite 0x3F800000 = true ∧ f32s.isNan 0x7FC00001 = true ∧
    (Instr.vcvt h1 .i32 .f32 .sto false (r 9) (r 9) (r 0)).wf = false ∧ val .i32 0 = 0 ∧ val .i32 5 ≠ 0 := by decide +kernel
theorem witness_ScalarFrame_others :
    meets M0 h1 (fun m => (otherDests m (.xget h1 .b32 (r 9) (r 10) (r 12))).isSome && goes m (.xget h1 .b32 (r 9) (r 10) (r 12)) &&
      (otherDests m (.xred h1 .add .i32 (r 9) (r 10))).isSome && goes m (.xred h1 .add .i32 (r 9) (r 10)) &&
      (otherDests m (.pgenS h1 false (r 9) 3 (r 10))).isSome && goes m (.pgenS h1 false (r 9) 3 (r 10)) &&
      (otherDests m (.gpopS h1 (r 20) (r 9))).isSome && goes m (.gpopS h1 (r 20) (r 9)) &&
      (otherDests m (.mrdS h1 .f32 .gv false false (r 10) 4 (b 12))).isSome && goes m (.mrdS h1 .f32 .gv false false (r 10) 4 (b 12))) = true := by decide
theorem witness_VectorFrame_others :
    meets M0 h1 (fun m => (otherDests m (.pgenV h1 false (r 9) 3 (r 10))).isSome && goes m (.pgenV h1 false (r 9) 3 (r 10)) &&
      (otherDests m (.mrdV h1 .f32 false false (r 9) 4 (b 12))).isSome && goes m (.mrdV h1 .f32 false false (r 9) 4 (b 12)) &&
      (otherDests m (.ginwRay h1 (r 40) (r 20) (r 9))).isSome && goes m (.ginwRay h1 (r 40) (r 20) (r 9)) &&
      (otherDests m (.gpopV h1 (r 20) (r 10))).isSome && goes m (.gpopV h1 (r 20) (r 10)) &&
      (otherDests m (.grep h1 20 9 6)).isSome && goes m (.grep h1 20 9 6) && (otherDests m (.gpatch h1 20 16 5)).isSome && goes m (.gpatch h1 20 16 5)) = true ∧
    ((tune M0 (withOp (.grep 0 20 [3] [] 0))).group? Q0).any (fun g => g.op? 0 == some { id := 0, pos := 0, kind := .grep 0 20 [3] [] 0 }) = true ∧
    ((tune M0 (withOp (.gpatch 5 0 20 [3] [] []))).group? Q0).any (fun g => (g.op? 0).isSome) = true := by decide
def ordered : MemAttr := ⟨false, .sc, .dev, .gv⟩
/-- Sequentially consistent accesses, and two lanes that store to one place. -/
theorem witness_Loads_ordered :
    meets M0 h1 (fun m => goes m (.lds h1 ordered .b32 (r 9) (r 10) (b 12)) && goes m (.sts h1 ordered .b32 (r 9) (r 10) (b 12)) &&
      goes m (.atomS h1 .cas ordered .i32 (r 9) (r 10) (r 12) (r 13)) && checked m .gv true false (m.addr1 .gv (r 10) (b 12))) = true := by decide
theorem witness_Stores_clash :
    meets M0 h0 (fun m => goes m (.stVA h0 plainMem .b32 (r 9) (r 10) (b 12)) && match (m.checks .gv 0 4 false true false (fun _ _ => true) (m.addrV .gv (r 10) (b 12))).2 with
      | .ok (y :: z :: _) => y.2 == z.2 && decide (y.1 < z.1)
      | _ => false) = true := by decide
/-- 17 entries of which the lowest is spilled; the topmost reconverges here. -/
def brimful (m : Issue) : Issue :=
  { m with g := { m.g with stack := branchEntry m.k.pc (BitVec.allOnes 96) 0 :: List.replicate 16 (branchEntry 0 (BitVec.allOnes 96) 0), spilled := 1 } }
theorem witness_Reconvergence_exposed :
    meets (spillArea (tune M0 brimful)) h0 (fun m => goes m (.recv h0) && m.g.held == 16 && decide (0 < m.g.spilled) && match m.g.stack with
      | e :: r => !e.bad && e.rpc == m.k.pc && m.k.owned &&& ~~~e.dmask == 0 && match (m.s.refillEntry { m.g with stack := r }).2.2 with | .ok => true | _ => false
      | [] => false) = true ∧
    meets (tune M0 brimful) h0 (fun m => goes m (.recv h0) && match (m.s.refillEntry { m.g with stack := m.g.stack.drop 1 }).2.2 with | .bad _ => true | _ => false) = true := by decide
theorem witness_AccessChecks_closed :
    (let s := bytes [(peerKey 5 0x40000, leBytes 8 0x80001), (peerKey 5 0x80000, leBytes 8 0x6000002F)] (pod M0)
     match s.walkPeer 5 0x40000 0 with
     | .page b z pte => let p := pageOf b z pte
       p.target == 2 && p.peer == s.devid.toNat && p.w && !s.ownMemory 0 (p.pa + (0 - b)) 4
     | .fault => false) = true := by decide
theorem witness_DrainedStores_moved :
    drains { M0 with migrations := [aMove [0]] } 0 (fun s => !s.inFlightAt 0 4 && s.migrations.all (fun x => x == aMove [0] && decide (x.src ≤ 0) && decide (0 + 4 ≤ x.src + x.size) &&
      decide (x.src + x.size ≤ x.dst)) && stored 0 && stored 0x4000000) = true := by decide
theorem witness_QueueSteps_views :
    (let s := M0.storeHome none (spKey 0 0) [7] 0
     (latestStore s.homes (spKey 0 0) s.nextSeq).isSome && meets (tune s (queued [aBarrier true])) h0 fun m => mayStep m.g.queue 0) = true ∧
    meets (tune M0 (queued [pendingLoad, { anAtomic with told := true }])) h0 (fun m => mayStep m.g.queue 1 && (m.g.queue[1]?).any (·.told)) = true := by decide
theorem witness_CopyEngine_quiesced :
    (let c := { started with req := { aReq with len := 256 }, landed := [1] }
     let s := gangs (fun y => { y with stage := 2 }) (copying c)
     s.nextLine c == some 0 && decide (0 < c.req.rowCount * c.req.perRow) && (s.line? c 0).isSome && !c.paused && c.accepted && (s.gang? 1).any fun y =>
       y.stage == 2 && match s.copyLine y 0 c 0 with | .done _ => true | _ => false) = true := by decide
/-- The commands of an ABORT of index 256, whose record has not been read; the same record once ABORT has met it. -/
def unread : State :=
  bytes [(quayKey 1, [0x30]), (quayKey 16, [1]), (quayKey 0x3009, [1])] (commanded 2 256 { M0 with runs := [] })
theorem witness_HostCommands_unread :
    comes unread 2 256 (fun s => (s.ctx? 0).any fun c => (s.ring? c 0 64).any fun q => q.count == 1 &&
      s.homeNat (c.qkey (q.entry 64 q.head)) 64 / 2 ^ 64 % 2 ^ 19 == 256) = true ∧
    (let s := ctxs (fun c => { c with aborted := [0] }) (launched 1 aDesc)
     launchIs s true && (s.ctx? 0).any fun c => (s.ring? c 0 64).any fun q => c.aborted.contains q.head) = true ∧
    (let s := jobs (fun j => { j with state := .complete }) (asked 2 (launched 1 aDesc))
     s.ctxAsked == some (2, 0) && s.jobs.all (fun j => j.state == .complete) && (s.ctx? 0).any fun c => (s.ring? c 0 64).any fun q => q.count != 0) = true := by decide
theorem witness_MigrationSteps_counts :
    (let s := jobs (fun j => { j with redNext := [(0, 3)] }) { M0 with migrations := [aMove [0]] }
     lineOf 0 + 0 == 0 && s.jobs.any fun j => j.redNext.contains (lineOf (aMove [0]).src + 0, 3)) = true := by decide
/-- A job that replays in deterministic dispatch. -/
def replaying : State := bytes [(quayKey 0x1004, [0x0C])] (launched 1 aDesc)
theorem witness_JobEvents_replay : launchIs replaying true = true ∧ (replaying.ctx? 0).any (fun c => (replaying.ring? c 0 64).any fun q =>
      let j := jobOfRecord 0 0 q.head (replaying.homeNat (c.qkey (q.entry 64 q.head)) 64) (replaying.homeNat (c.qkey 0x2000) 256) 0
      j.det && j.replay) = true ∧
    ([[1, 2], [3]] : List (List Nat)).all (fun e => !e.isEmpty && e.all fun x => decide (x < 2 ^ 64)) = true ∧
    M0.firmware ≠ [1, 0, 0, 0, 0, 0, 0] ∧ M0.firmware.length = 7 := by decide
/-- The group of core 0 with an entry of its weight buffer in an operation. -/
def aWeight : WEntry := ((ready 0 0 M0).core 0).wbuf.headD { owner := 0, no := 0, st := .ready, tid := 0, image := 0, r0 := 0, c0 := 0, layer := 0, pslot := 0, gen := 0, prog := 0, elems := [], scales := [], age := 0, cursor := 0, issuer := Q0, pc := 0, paused := false, doomed := false }
theorem witness_EngineEvents_products :
    meets (tune M0 (withOp (.mma 0 false .f16 [] none aWeight))) h0 (fun m => m.g.accTurn 0 0 && decide (0 < m.g.acc.length) &&
      (m.g.acc.getD 0 []).length == 96 && (m.g.acc.getD 0 []).all fun r => r.length == 64) = true ∧
    meets (tune M0 (withOp (.mrdV 0 .f16 3 4 [9, 10] lo48))) h0 (fun m => m.g.accTurn 0 0 && !m.g.ring.isEmpty && decide (m.g.pos 9 ≠ m.g.pos 10) &&
      tyBits .f16 == 16) = true ∧
    meets (tune M0 (withOp (.mrdS 0 .f32 3 4 [(0, 0x2000, 16)]))) h0 (fun m => m.g.accTurn 0 0 && !m.s.inFlightAt 0x2000 16 && decide ((0 : Nat) < 4)) = true ∧
    meets { tune M0 (withOp (.mrdS 0 .f32 3 4 [(0, 0x2000, 16)])) with migrations := [{ aMove [] with src := 0x2000 }] } h0 (fun m => m.s.inFlightAt 0x2000 16) = true ∧
    meets (tune M0 (withOp (.mrdS 0 .f32 3 4 []))) h0 (fun m => (m.g.op? 0).isSome && m.g.accTurn 0 0) = true := by decide
/-- A NaN, an infinity and a number of f16; terms that are broken, infinite, all −0, and whose sum is not zero; a fold with an error. -/
theorem witness_MatrixInstructions_values :
    (⟨5, 10, true⟩ : Shape).isNan 0x7E00 = true ∧ (⟨5, 10, true⟩ : Shape).isInf 0xFC00 = true ∧ (⟨5, 10, true⟩ : Shape).isFinite 1 = true ∧
    Term.bad true ∈ [Term.bad true] ∧ (∀ iv, Term.bad iv ∉ [Term.val (.inf true)]) ∧ (∀ neg, Term.val (.inf neg) ∉ [Term.val (.fin true 3 (-2))]) ∧
    finVal (.fin true 3 (-2)) ≠ 0 ∧ finVal (.fin true 0 5) = 0 ∧
    single.isFinite 0x30800000 = true ∧ arith2 .add .f32 0 .ne 0x3F800000 0x30800000 = (0x3F800000, fNX) ∧ single.isFinite 0x3F800000 = true ∧
    single.value 0x3F800000 + single.value 0x30800000 - single.value 0x3F800000 ≠ 0 ∧
    single.isFinite 0x7F800000 = false ∧ single.isNan 0x7FC00000 = true ∧ single.isInf 0xFF800000 = true ∧ single.value 0x3F800000 + single.value 0xBF800000 = 0 := by
  decide +kernel
/-- A root node with two vertices, a triangle of them and a child, and a vertex that escapes; a leaf of keys 3, 5 and 7. -/
def aNode : Node :=
  { raw := 0, user := 7, parent := 3, first := 9, b := 8, level := 16, ext := false, dim := false, kind := 1, origin := ⟨0, 0, 8⟩, childs := [⟨⟨1, 2, 3⟩, 4⟩]
    verts := [⟨0, 0, 0⟩, ⟨4, 0, 0⟩, ⟨0, 4, 0⟩], tris := [(0, 1, 2)], esc := [⟨⟨-1, 7, 9⟩, 1, true⟩, ⟨⟨0, 0, 0⟩, 0, false⟩], fin := 0 }
def asked3 (a : List Word) (mode : QMode) : QSlot := newQuery 7 mode a 0
/-- A ray from the origin upward, whatever its length. -/
def upward : List Word := [0, 0, 0, 0, 0, 0, 0, 0, 0x3F800000, 0x7F800000, 0, 0]
def aLeaf : Nat := 2 + 64 + 3 * 2 ^ 128 + (3 + 5 * 2 ^ 32 + 7 * 2 ^ 64) * 2 ^ 200 * 2 ^ 56
def leafDesc : Nat := 128 + 8 * 2 ^ 8 + 16 * 2 ^ 16 + 32 * 2 ^ 24 + 64 * 2 ^ 40
theorem witness_GeometryInstructions_boxes :
    (let n := nodeOf aNode.bits
     n.ok && !n.dim && n.kind == 1 && (n.esc.find? (fun e => e.used && e.vidx == 1)).isSome && (n.esc.find? fun e => e.used && e.vidx == 2).isNone && (n.verts[2]?).isSome &&
       (n.childs[0]?).isSome) = true ∧
    (rayOf upward).isSome = true ∧ rayOf [] = none ∧ (rayOf upward).any (fun r => r.d 0 == 0 && r.d 2 == 1 && r.kz == 2 && r.tmax.isNone) = true := by decide +kernel
/-- Samples of a triangle; a hit where a triangle lies across the ray; the hits of a leaf between two bounds. -/
theorem test_geometry_values :
    RasterTask.commit 0 0 5 7 ∈ triangleSamples ⟨0, 0, 5⟩ ⟨1024, 0, 5⟩ ⟨0, 1024, 5⟩ 0 4 4 7 ∧
    (rayOf upward).bind (fun r => r.hit ⟨-9, -9, 8⟩ ⟨9, -9, 8⟩ ⟨0, 9, 8⟩) = some 8 ∧
    (match userVisit (asked3 [4, 0, 7, 0] .key) aLeaf leafDesc with | .go [] [x, y] => decide (x.key = 5) && decide (y.key = 7) | _ => false) = true ∧
    (match userVisit (asked3 [4, 0, 7, 0] .key) aLeaf (leafDesc - 128) with | .fail 3 => true | _ => false) = true := by decide +kernel
/-- Records whose node takes a vertex in its lattice, has no free escape, takes one beside its lattice, is full, and takes a triangle or not. -/
def building (n : Node) : Build := { node := nodeOf n.bits, origin := ⟨0, 0, 8⟩, index := 0, status := 0 }
theorem witness_GeometryInstructions_appends :
    aNode.bits < 2 ^ 1024 ∧
    (let n := (building aNode).node
     decide (n.verts.length < 24) && decide (n.fin + 3 * (n.b + 1) ≤ 1024) && n.level == 16 && n.b == 8 && decide (n.tris.length < 16) && decide (n.fin + 15 ≤ 1024) &&
       n.esc.any fun e => !e.used) = true ∧
    (let n := (building { aNode with esc := [⟨⟨-1, 7, 9⟩, 1, true⟩] }).node
     n.esc.all (·.used) && decide (n.fin + 3 * (n.b + 1) ≤ 1024)) = true ∧
    (building { aNode with verts := List.replicate 24 ⟨0, 0, 0⟩ }).node.verts.length = 24 ∧
    (building { aNode with tris := List.replicate 16 (0, 1, 2) }).node.tris.length = 16 ∧ ((0 : Int) % 2 ^ (16 - 8) = 0 ∧ 256 * 4 = 1024) := by decide +kernel
/-- Node 0 of tensor 0, at address 0 of the global space, and the record of a build at 0 of the scratchpad. -/
def grown (n : Node) (s : State) : State := bytes [(0, leBytes 128 n.bits), (spKey 0 0, leBytes 128 n.bits)] (tensors [(0, entry 32 64 128 0)] s)
def flatNode : Node := { aNode with dim := true }
def fetched (s : State) (w : Who) (i : Nat) (p : Node → Bool) : Bool := match s.fetchNode w (s.entryNow 0 0 0) i false with | .node _ n _ => p n | _ => false
theorem witness_EngineEvents_visits :
    meets (tune (grown flatNode M0) (withOp (.gras 6 0 [] [.visit ⟨0, 0, 0, 0, 0⟩ 0 0 0 0 none] 1 2 3 0 0 0))) h0 (fun m => !m.s.stilled Q0 &&
      fetched m.s (m.s.who m.g) 0 fun n => n.ok && n.dim && n.kind == 1 && !n.tris.isEmpty && !n.childs.isEmpty) = true ∧
    meets (grown aNode M0) h0 (fun m => fetched m.s (m.s.who m.g) 0 (fun n => n.ok && !n.dim) && decide (0 < (m.s.entryNow 0 0 0).nodes)) = true ∧
    meets { grown aNode M0 with poisoned := [0] } h0 (fun m => match m.s.fetchNode (m.s.who m.g) (m.s.entryNow 0 0 0) 0 false with | .poison _ => true | _ => false) = true ∧
    meets M0 h0 (fun m => match m.s.fetchNode (m.s.who m.g) (tensorOf (entry 32 64 128 0x4000000)) 0 false with | .bad _ => true | _ => false) = true := by decide
theorem witness_EngineEvents_records :
    meets (tune (grown aNode M0) (withOp (.gbld true true 0 0 0 [] [] false))) h0 (fun m => (m.s.who m.g).sp == some (0, 0, 4096) && m.g.buildTurn 0 0 &&
      (m.s.buildStep (m.s.who m.g) 0 true true 0 0 0 [] []).isSome && (buildOf (m.s.homeNat (spKey 0 0) 160)).node.ok &&
      match Chk.parts { s := m.s, memo := [] } (m.s.who m.g) .gv 0 128 false true with | (c, .ok ps) => !c.s.flightParts ps | _ => false) = true ∧
    meets M0 h0 (fun m => !(buildOf (m.s.homeNat (spKey 0 0) 160)).node.ok) = true ∧
    meets { grown aNode M0 with migrations := [aMove []] } h0 (fun m => match Chk.parts { s := m.s, memo := [] } (m.s.who m.g) .gv 0 128 false true with
      | (c, .ok ps) => c.s.flightParts ps | _ => false) = true ∧
    meets (ctxs (fun c => { c with ttroot := 0 }) M0) h0 (fun m => match Chk.parts { s := m.s, memo := [] } (m.s.who m.g) .gv 0 128 false true with | (_, .error _) => true | _ => false) = true ∧
    meets (bytes [(8, [1])] M0) h0 (fun m => match Chk.parts { s := m.s, memo := [] } (m.s.who m.g) .gv 0 16 false true with
      | (c, .ok ps) => leNat ((c.s.readParts ps).take 12) == 2 ^ 64 && !c.s.flightParts ps | _ => false) = true := by decide
def hitAt (n : Nat) : QHit := ⟨BitVec.ofNat 64 n, BitVec.ofNat 64 n, (n : Rat)⟩
theorem witness_EngineEvents_rounds :
    ([hitAt 1, hitAt 3] : List QHit).Pairwise (fun a b => a.ord < b.ord ∨ (a.ord = b.ord ∧ a.ident.toNat ≤ b.ident.toNat)) ∧
    ({ newQuery 7 .near [] 0 with found := [hitAt 1, hitAt 3] } : QSlot).join [hitAt 2] = [hitAt 1] ∧
    ({ newQuery 7 .key [] 0 with found := [hitAt 1, hitAt 3] } : QSlot).join [hitAt 2] = [hitAt 1, hitAt 2, hitAt 3] := by decide +kernel

end Sys2Proof.Tests
end

section
/-!
PROOFS. Integer division (R133) and class codes (R139). First what every register result needs: past the checks of R75 an
instruction is well-formed; what reaches a register of a type is the low bits of the result; a vector result without flags
raises nothing. Then the arithmetic of the low bits, and last the fields of a floating bit pattern.
-/
namespace Sys2Proof.Machine

open Sys2Proof

/-! ## Past the checks an instruction is well-formed -/

/-- An instruction that no field check stops is well-formed (R75 steps 2 to 4). -/
theorem wf_of_fieldTrap_none {g : Group} {h : Hd} {i : Instr} (hn : g.fieldTrap h i = none) : i.wf = true := by
  cases hw : i.wf with
  | true => rfl
  | false => simp [Group.fieldTrap, hw] at hn

theorem wf_of_issues {i : Instr} {h : Hd} {s : State} {m : Issue} (hi : Issues i h s m) : i.wf = true := by
  have hv := hi.2
  unfold Issue.verdict at hv
  cases hf : m.g.fieldTrap m.h i with
  | none => exact wf_of_fieldTrap_none hf
  | some c => simp [hf] at hv

theorem mem_of_tyMOk {h : Hd} {t : Ty} {ts : List Ty} (hk : tyMOk h t ts = true) : t ∈ ts := by
  simp only [tyMOk, Bool.and_eq_true, decide_eq_true_eq] at hk; exact hk.1

theorem mem_of_tyDOk {h : Hd} {t dflt : Ty} {ts : List Ty} (hk : tyDOk h t dflt ts = true) : t ∈ ts := by
  simp only [tyDOk, Bool.and_eq_true, decide_eq_true_eq] at hk; exact hk.1

/-! ## The widths of types -/

/-- A type that fills one register or a pair of them, with no bit beside it. -/
def FillsRegs (t : Ty) : Prop := tyBits t = 32 ∨ tyBits t = 64

theorem fillsRegs_of_tysInt : ∀ {t : Ty}, t ∈ tysInt → FillsRegs t := by unfold FillsRegs; decide
theorem fillsRegs_of_tysTiS : ∀ {t : Ty}, t ∈ tysTiS → FillsRegs t := by unfold FillsRegs; decide
theorem fillsRegs_of_tysNum : ∀ {t : Ty}, t ∈ tysNum → tyFloat t = false → FillsRegs t := by unfold FillsRegs; decide

theorem tyBits_le (t : Ty) : tyBits t ≤ 64 := by cases t <;> decide
theorem tyBits_pos (t : Ty) : 0 < tyBits t := by cases t <;> decide

/-! ## The low bits of a result are what a register takes -/

theorem eq_of_low_eq {t : Ty} {x y : DWord} (ht : tyBits t = 64) (h : low t x = low t y) : x = y := by
  have hx := x.isLt
  have hy := y.isLt
  simp only [low, ht, Nat.mod_eq_of_lt hx, Nat.mod_eq_of_lt hy] at h
  exact BitVec.eq_of_toNat_eq h

theorem setWidth_eq_of_low_eq {t : Ty} {x y : DWord} (ht : tyBits t = 32) (h : low t x = low t y) :
    x.setWidth 32 = y.setWidth 32 := by
  simp only [low, ht] at h
  exact BitVec.eq_of_toNat_eq (by simpa using h)

/-- A type of 32 or 64 bits fills its registers: results with the same low bits are written alike. -/
theorem sputT_eq_of_low {m : Issue} {t : Ty} {n : Nat} {x y : DWord} (ht : FillsRegs t) (h : low t x = low t y) :
    m.sputT t n x = m.sputT t n y := by
  rcases ht with ht | ht
  · exact sputT_congr m t n x y (.inr (setWidth_eq_of_low_eq ht h)) fun hr => by simp [tyRegs, ht] at hr
  · rw [eq_of_low_eq ht h]

/-- The lanes of a list alone are written. -/
theorem vput_congr {m : Issue} {n : Nat} {ls : List Nat} {f g : Nat → Word} (h : ∀ l ∈ ls, f l = g l) :
    m.vput n ls f = m.vput n ls g := by
  have hl : (fun l => if ls.contains l then f l else lane (m.g.vec (absSlot m.k.base n)) l) =
      fun l => if ls.contains l then g l else lane (m.g.vec (absSlot m.k.base n)) l := by
    funext l
    by_cases hm : l ∈ ls
    · simp [hm, h l hm]
    · simp [hm]
  simp only [Issue.vput, hl]

theorem vputT_eq_of_low {m : Issue} {t : Ty} {n : Nat} {ls : List Nat} {f g : Nat → DWord} (ht : FillsRegs t)
    (h : ∀ l ∈ ls, low t (f l) = low t (g l)) : m.vputT t n ls f = m.vputT t n ls g := by
  rcases ht with ht | ht
  · have hr : tyRegs t ≠ 2 := by simp [tyRegs, ht]
    simp only [Issue.vputT, if_neg hr]
    exact vput_congr fun l hl => setWidth_eq_of_low_eq ht (h l hl)
  · have hr : tyRegs t = 2 := by simp [tyRegs, ht]
    have h64 : ∀ l ∈ ls, f l = g l := fun l hl => eq_of_low_eq ht (h l hl)
    simp only [Issue.vputT, if_pos hr]
    rw [vput_congr (f := fun l => (f l).extractLsb' 0 32) fun l hl => by rw [h64 l hl],
      vput_congr (f := fun l => (f l).extractLsb' 32 32) fun l hl => by rw [h64 l hl]]

/-- The low bits of a number taken as a register value (R136). -/
theorem low_ofNat (t : Ty) (n : Nat) : low t (BitVec.ofNat 64 n) = n % 2 ^ tyBits t := by
  rw [low, BitVec.toNat_ofNat, Nat.mod_mod_of_dvd _ (Nat.pow_dvd_pow 2 (tyBits_le t))]

@[simp] theorem low_ofNat_low (t : Ty) (x : DWord) : low t (BitVec.ofNat 64 (low t x)) = low t x := by
  rw [low_ofNat, low, Nat.mod_mod]

/-! ## What writes a scalar or lanes, and raises nothing -/

theorem writesScalar_of_low {i : Instr} {h : Hd} {s : State} {m : Issue} {t : Ty} {d : Opnd} {v : DWord}
    {body : Issue → DWord} (hi : Issues i h s m) (he : exec i s = issue i h s fun n => n.scalar t d (body n))
    (ht : FillsRegs t) (hv : low t (body (m.of i)) = low t v) : WritesScalar i s m t d v := by
  rw [WritesScalar, Completes, he, issue_go hi, Issue.scalar, sputT_eq_of_low ht hv, Issue.of_reg]

theorem writesLanes_of_low {i : Instr} {h : Hd} {s : State} {m : Issue} {t : Ty} {d : Opnd} {f : Nat → DWord}
    {body : Issue → Nat → DWord} (hi : Issues i h s m) (he : exec i s = issue i h s fun n => n.vector t d (body n))
    (ht : FillsRegs t) (hv : ∀ l, low t (body (m.of i) l) = low t (f l)) : WritesLanes i s m t d f := by
  rw [WritesLanes, Completes, he, issue_go hi, Issue.vector, Issue.of_reg, Issue.of_active,
    vputT_eq_of_low ht fun l _ => (low_ofNat_low t _).trans (hv l)]

@[simp] theorem orFlags_zero (g : Group) : g.orFlags 0 = g := by simp [Group.orFlags]
@[simp] theorem fpTraps_zero (g : Group) : g.fpTraps 0 = false := by simp [Group.fpTraps]

/-- No flag is raised: FPFLAGS stands and nothing traps (R149, R150). -/
@[simp] theorem flagged_zero (m : Issue) (go : Issue → State) : m.flagged 0 go = go m := by
  simp only [Issue.flagged, fpTraps_zero, orFlags_zero]; rfl

/-- The first entry of a list of lanes that has the lane's number holds the lane's value. -/
theorem find?_lane {α : Type} {ls : List Nat} {f : Nat → α} {l : Nat} (hl : l ∈ ls) :
    (ls.map fun j => (j, f j)).find? (fun r => r.1 == l) = some (l, f l) := by
  induction ls with
  | nil => simp at hl
  | cons j js ih =>
    by_cases hj : j = l
    · simp [hj]
    · have : l ∈ js := by simpa [Ne.symm hj] using hl
      simpa [hj] using ih this

/-- A vector operation that raises no flag in any lane writes its lanes and nothing else. -/
theorem vectorF_eq_vector (m : Issue) {t : Ty} (d : Opnd) (f : Nat → DWord) (ht : FillsRegs t) :
    m.vectorF t d (fun l => (f l, 0)) = m.vector t d f := by
  have hfl : ∀ ls : List Nat, (ls.map fun l => (l, ((f l, 0) : Res))).foldl (fun fl r => fl ||| r.2.2) 0 = (0 : FFlags) := by
    intro ls
    induction ls with
    | nil => rfl
    | cons l ls ih => simpa using ih
  simp only [Issue.vectorF, hfl, flagged_zero, Issue.vector]
  rw [vputT_eq_of_low ht fun l hl => ?_]
  rw [find?_lane (f := fun l => ((f l, 0) : Res)) hl]
  rfl

theorem writesLanes_of_low_noFlags {i : Instr} {h : Hd} {s : State} {m : Issue} {t : Ty} {d : Opnd} {f : Nat → DWord}
    {body : Issue → Nat → DWord} (hi : Issues i h s m)
    (he : exec i s = issue i h s fun n => n.vectorF t d fun l => (body n l, 0))
    (ht : FillsRegs t) (hv : ∀ l, low t (body (m.of i) l) = low t (f l)) : WritesLanes i s m t d f :=
  writesLanes_of_low hi (by simp only [he, vectorF_eq_vector _ d _ ht]) ht hv

/-- Arithmetic on integer and bit types raises no flag (R131). -/
theorem arith2_int {t : Ty} (hf : tyFloat t = false) (o : IntOp) (fpmode : Word) (r : Rnd) (a b : DWord) :
    arith2 o t fpmode r a b = (intOp o t a b, 0) := by simp [arith2, hf]

/-! ## Integers and their low bits (R131) -/

theorem lowBits_lt (w : Nat) (v : Int) : lowBits w v < 2 ^ w := by
  have h0 : (0 : Int) < (2 ^ w : Nat) := Int.natCast_pos.2 (Nat.two_pow_pos w)
  have h1 := Int.emod_nonneg v (Int.ne_of_gt h0)
  have h2 := Int.emod_lt_of_pos v h0
  unfold lowBits; omega

theorem low_wrap (t : Ty) (v : Int) : low t (wrap t v) = lowBits (tyBits t) v := by
  rw [wrap, low_ofNat, Nat.mod_eq_of_lt (lowBits_lt ..)]

theorem low_ofInt (t : Ty) (v : Int) : low t (BitVec.ofInt 64 v) = lowBits (tyBits t) v := by
  have hd : ((2 ^ tyBits t : Nat) : Int) ∣ (2 ^ 64 : Nat) := Int.natCast_dvd_natCast.2 (Nat.pow_dvd_pow 2 (tyBits_le t))
  have h64 : 0 ≤ v % (2 ^ 64 : Nat) := Int.emod_nonneg v (by decide)
  rw [low, lowBits, BitVec.toNat_ofInt, ← Int.emod_emod_of_dvd v hd, Int.toNat_emod h64 (Int.natCast_nonneg _),
    Int.toNat_natCast]

/-- A value of an integer type is its low bits, up to a multiple of 2^w. -/
theorem lowBits_val (t : Ty) (x : DWord) : lowBits (tyBits t) (val t x) = low t x := by
  have hx : (low t x : Int) % (2 ^ tyBits t : Nat) = low t x := by rw [low]; norm_cast; exact Nat.mod_mod ..
  have hv : val t x % (2 ^ tyBits t : Nat) = low t x := by
    change intVal t x.toNat % _ = _
    simp only [intVal, sgn]
    split
    · split
      · exact hx
      · rw [← hx]; push_cast; exact Int.sub_emod_right ..
    · exact hx
  rw [lowBits, hv, Int.toNat_natCast]

/-- The most negative value and its negation have the same low bits. -/
theorem lowBits_half {w : Nat} (hw : 0 < w) : lowBits w (2 ^ (w - 1)) = lowBits w (-2 ^ (w - 1)) := by
  have h2 : (2 ^ (w - 1) : Int) = -2 ^ (w - 1) + (2 ^ w : Nat) := by
    obtain ⟨n, rfl⟩ : ∃ n, w = n + 1 := ⟨w - 1, by omega⟩
    rw [Nat.add_sub_cancel, Nat.pow_succ, Int.natCast_mul, Int.natCast_pow, Int.cast_ofNat_Int]; omega
  conv => lhs; rw [lowBits, h2, Int.add_emod_right, ← lowBits]

/-! ## Integer division (R133) -/

/-- The quotient truncated toward zero, with its two corners (R133). -/
def truncQuotient (t : Ty) (x y : DWord) : DWord :=
  if val t y = 0 then BitVec.allOnes 64
  else if tySigned t = true ∧ val t x = -2 ^ (tyBits t - 1) ∧ val t y = -1 then x
  else BitVec.ofInt 64 ((val t x).tdiv (val t y))

theorem low_intOp_div (t : Ty) (x y : DWord) : low t (intOp .div t x y) = low t (truncQuotient t x y) := by
  simp only [intOp, truncQuotient]
  split
  · rw [low_wrap, show BitVec.allOnes 64 = BitVec.ofInt 64 (-1) by decide, low_ofInt]
  · rw [low_wrap]
    split
    · rename_i hc
      obtain ⟨-, hx, hy⟩ := hc
      calc lowBits (tyBits t) ((val t x).tdiv (val t y))
          = lowBits (tyBits t) (2 ^ (tyBits t - 1)) := by rw [hx, hy]; simp
        _ = lowBits (tyBits t) (val t x) := by rw [hx, lowBits_half (tyBits_pos t)]
        _ = low t x := lowBits_val t x
    · rw [low_ofInt]

theorem sdiv_writes {h : Hd} {ty : Ty} {d a : Opnd} {b : SrcB} {s : State} {m : Issue} (hi : Issues (.sdiv h ty d a b) h s m) :
    WritesScalar (.sdiv h ty d a b) s m ty d (truncQuotient ty (m.sval ty (m.reg a)) (m.srcS ty b)) := by
  have hw : (_ && tyMOk h ty tysInt && _) = true := wf_of_issues hi
  simp only [Bool.and_eq_true] at hw
  exact writesScalar_of_low (body := fun n => intOp .div ty (n.sval ty (n.reg a)) (n.srcS ty b)) hi rfl
    (fillsRegs_of_tysInt (mem_of_tyMOk hw.1.2)) (by simp [low_intOp_div])

theorem sdivImm_writes {h : Hd} {ty : Ty} {d a : Opnd} {i : Imm} {s : State} {m : Issue}
    (hi : Issues (.sdivImm h ty d a i) h s m) :
    WritesScalar (.sdivImm h ty d a i) s m ty d (truncQuotient ty (m.sval ty (m.reg a)) (immVal i)) := by
  have hw : (_ && tyDOk h ty .i32 tysTiS && _) = true := wf_of_issues hi
  simp only [Bool.and_eq_true] at hw
  exact writesScalar_of_low (body := fun n => intOp .div ty (n.sval ty (n.reg a)) (immVal i)) hi rfl
    (fillsRegs_of_tysTiS (mem_of_tyDOk hw.1.2)) (by simp [low_intOp_div])

theorem vdiv_writes {h : Hd} {ty : Ty} {r : Rnd} {d a : Opnd} {b : SrcB} {s : State} {m : Issue} (hf : tyFloat ty = false)
    (hi : Issues (.vdiv h ty r d a b) h s m) :
    WritesLanes (.vdiv h ty r d a b) s m ty d fun l => truncQuotient ty (m.vval ty (m.reg a) l) (m.srcV ty b l) := by
  have hw : (_ && tyMOk h ty tysNum && _ && _) = true := wf_of_issues hi
  simp only [Bool.and_eq_true] at hw
  exact writesLanes_of_low_noFlags (body := fun n l => intOp .div ty (n.vval ty (n.reg a) l) (n.srcV ty b l)) hi
    (by change execVdiv h ty r d a b s = _; simp only [execVdiv, arith2_int hf]; rfl)
    (fillsRegs_of_tysNum (mem_of_tyMOk hw.1.1.2) hf) (by simp [low_intOp_div])

theorem vdivSb_writes {h : Hd} {ty : Ty} {r : Rnd} {d a : Opnd} {b : SrcB} {s : State} {m : Issue} (hf : tyFloat ty = false)
    (hi : Issues (.vdivSb h ty r d a b) h s m) :
    WritesLanes (.vdivSb h ty r d a b) s m ty d fun l => truncQuotient ty (m.vval ty (m.reg a) l) (m.srcS ty b) := by
  have hw : (_ && tyMOk h ty tysNum && _ && _) = true := wf_of_issues hi
  simp only [Bool.and_eq_true] at hw
  exact writesLanes_of_low_noFlags (body := fun n l => intOp .div ty (n.vval ty (n.reg a) l) (n.srcS ty b)) hi
    (by change execVdivSb h ty r d a b s = _; simp only [execVdivSb, arith2_int hf]; rfl)
    (fillsRegs_of_tysNum (mem_of_tyMOk hw.1.1.2) hf) (by simp [low_intOp_div])

/-- Settles O13: the result of each form has the low bits of the quotient, and its types fill their registers. -/
theorem integerDivision : Obligations.IntegerDivision := by
  unfold Obligations.IntegerDivision
  intro h ty r d a b i s m
  exact ⟨sdiv_writes, sdivImm_writes, vdiv_writes, vdivSb_writes⟩

/-! ## The fields of a floating bit pattern (R135, R137) -/

/-- A format of the model is a shape of R135: the same widths, and infinities where it is not e4m3, whose NaN has every bit of
its exponent and fraction set. -/
structure Fmt.HasShape (f : Fmt) (g : Shape) : Prop where
  width : f.width = g.width
  mb    : f.mb = g.fb
  e4m3  : f.e4m3 = !g.inf
  nan   : g.inf = false → 0x7F = 2 ^ g.fb * (2 ^ g.eb - 1) + (2 ^ g.fb - 1)
  fb    : 0 < g.fb
  eb    : 0 < g.eb

/-- The format of every floating type has its shape. -/
theorem fmtOf_hasShape {ty : Ty} {g : Shape} (hg : shapeOf ty = some g) : (fmtOf ty).HasShape g := by
  cases ty <;> simp only [shapeOf, Option.some.injEq, reduceCtorEq] at hg <;> subst hg <;> constructor <;> decide

theorem Shape.exp_lt (g : Shape) (v : Nat) : g.exp v < 2 ^ g.eb := Nat.mod_lt _ (Nat.two_pow_pos _)
theorem Shape.frac_lt (g : Shape) (v : Nat) : g.frac v < 2 ^ g.fb := Nat.mod_lt _ (Nat.two_pow_pos _)

/-- A number is one only way a multiple of P and a rest below P. -/
theorem mul_add_eq_iff {P e fr e' fr' : Nat} (h : fr < P) (h' : fr' < P) : P * e + fr = P * e' + fr' ↔ e = e' ∧ fr = fr' := by
  refine ⟨fun he => ?_, fun ⟨he, hfr⟩ => by rw [he, hfr]⟩
  have hd := congrArg (· / P) he
  have hm := congrArg (· % P) he
  simp only [Nat.mul_add_div (Nat.zero_lt_of_lt h), Nat.div_eq_of_lt h, Nat.div_eq_of_lt h', Nat.add_zero, Nat.mul_add_mod,
    Nat.mod_eq_of_lt h, Nat.mod_eq_of_lt h'] at hd hm
  exact ⟨hd, hm⟩

/-- A pattern lies above the greatest multiple of P just where it has that multiple and a rest. -/
theorem mul_lt_mul_add_iff {P e fr t : Nat} (h : fr < P) (ht : e ≤ t) : P * t < P * e + fr ↔ e = t ∧ fr ≠ 0 := by
  rcases Nat.eq_or_lt_of_le ht with rfl | hlt
  · omega
  · have : P * (e + 1) ≤ P * t := Nat.mul_le_mul_left P hlt
    rw [Nat.mul_succ] at this
    omega

/-- The highest of n bits is set where a number is at least half of 2^n. -/
theorem testBit_top {n x : Nat} (hn : 0 < n) (hx : x < 2 ^ n) : x.testBit (n - 1) = !decide (x < 2 ^ (n - 1)) := by
  obtain ⟨k, rfl⟩ : ∃ k, n = k + 1 := ⟨n - 1, by omega⟩
  simp only [Nat.add_sub_cancel]
  by_cases hk : x < 2 ^ k
  · simp [hk, Nat.testBit_lt_two_pow hk]
  · simp [hk, Nat.testBit_of_two_pow_le_and_two_pow_add_one_gt (Nat.le_of_not_lt hk) hx]

namespace Fmt.HasShape

variable {f : Fmt} {g : Shape} (hf : f.HasShape g) (v : Nat)
include hf

theorem signBit_eq : f.signBit = 2 ^ (g.eb + g.fb) := by
  rw [Fmt.signBit, hf.width, Shape.width, Nat.add_assoc, Nat.add_sub_cancel_left]

theorem expMask_eq : f.expMask = 2 ^ g.fb * (2 ^ g.eb - 1) := by
  rw [Fmt.expMask, ← Fmt.signBit, hf.signBit_eq, hf.mb, Nat.mul_sub, Nat.mul_one, Nat.add_comm g.eb, Nat.pow_add]

theorem neg_eq : f.neg v = g.neg v := by
  rw [Fmt.neg, hf.signBit_eq, hf.width]; rfl

/-- The magnitude is the exponent field above the fraction field. -/
theorem mag_eq : f.mag v = 2 ^ g.fb * g.exp v + g.frac v := by
  rw [Fmt.mag, hf.signBit_eq, Nat.add_comm g.eb, Nat.pow_add, Nat.mod_mul, Nat.add_comm]; rfl

theorem isNan_eq : f.isNan v = g.isNan v := by
  have hfr := g.frac_lt v
  have he : g.exp v ≤ 2 ^ g.eb - 1 := Nat.le_sub_one_of_lt (g.exp_lt v)
  have hP : 2 ^ g.fb - 1 < 2 ^ g.fb := Nat.sub_one_lt (Nat.ne_of_gt (Nat.two_pow_pos _))
  unfold Fmt.isNan Shape.isNan
  rw [hf.e4m3, hf.mag_eq, hf.expMask_eq, Bool.eq_iff_iff]
  cases hi : g.inf with
  | true => simp [mul_lt_mul_add_iff hfr he]
  | false => simp [hf.nan hi, mul_add_eq_iff hfr hP]

theorem isInf_eq : f.isInf v = g.isInf v := by
  have hE := mul_add_eq_iff (e := g.exp v) (e' := 2 ^ g.eb - 1) (g.frac_lt v) (Nat.two_pow_pos g.fb)
  unfold Fmt.isInf Shape.isInf
  rw [hf.e4m3, hf.mag_eq, hf.expMask_eq, Bool.eq_iff_iff]
  simpa [and_assoc] using fun _ => hE

theorem isSnan_eq : f.isSnan v = g.isSignalling v := by
  have hfr := g.frac_lt v
  have hlt : g.fb - 1 < g.fb := Nat.sub_one_lt (Nat.ne_of_gt hf.fb)
  unfold Fmt.isSnan Shape.isSignalling
  rw [hf.isNan_eq, hf.e4m3, hf.mag_eq, hf.mb, Nat.testBit_two_pow_mul_add _ hfr, if_pos hlt, testBit_top hf.fb hfr]
  simp [Bool.and_comm]

theorem isZero_eq : f.isZero v = (g.exp v == 0 && g.frac v == 0) := by
  have hz := mul_add_eq_iff (e := g.exp v) (e' := 0) (g.frac_lt v) (Nat.two_pow_pos g.fb)
  rw [Fmt.isZero, hf.mag_eq, Bool.eq_iff_iff]
  simp only [beq_iff_eq, Bool.and_eq_true]
  exact hz

theorem isSub_eq : f.isSub v = (g.exp v == 0 && g.frac v != 0) := by
  have hfr := g.frac_lt v
  rw [Fmt.isSub, hf.mag_eq, hf.mb, Bool.eq_iff_iff]
  rcases Nat.eq_zero_or_pos (g.exp v) with he | he
  · simp [he, hfr, Nat.pos_iff_ne_zero]
  · have : ¬ 2 ^ g.fb * g.exp v + g.frac v < 2 ^ g.fb := by
      have := Nat.le_mul_of_pos_right (2 ^ g.fb) he
      omega
    simp [this, Nat.ne_of_gt he]

/-- The class of a bit pattern, read off its exponent first (R139): zeros and subnormals have none, infinities and NaNs the
highest one. -/
theorem fClass_eq : fClass f v =
    if g.exp v = 0 then (if g.frac v = 0 then (if g.neg v then 32 else 64) else if g.neg v then 16 else 128)
    else if g.inf = false then
      (if g.exp v = 2 ^ g.eb - 1 ∧ g.frac v = 2 ^ g.fb - 1 then 2 else if g.neg v then 8 else 256)
    else if g.exp v ≠ 2 ^ g.eb - 1 then (if g.neg v then 8 else 256)
    else if g.frac v = 0 then (if g.neg v then 4 else 512)
    else if g.frac v / 2 ^ (g.fb - 1) = 0 then 1 else 2 := by
  have hE : 0 ≠ 2 ^ g.eb - 1 := by have := Nat.one_lt_two_pow (Nat.ne_of_gt hf.eb); omega
  have hq : g.frac v / 2 ^ (g.fb - 1) = 0 ↔ g.frac v < 2 ^ (g.fb - 1) := Nat.div_eq_zero_iff_lt (Nat.two_pow_pos _)
  unfold fClass
  rw [hf.isSnan_eq, hf.isNan_eq, hf.isInf_eq, hf.isZero_eq, hf.isSub_eq, hf.neg_eq]
  simp only [hq, Shape.isSignalling, Shape.isNan, Shape.isInf]
  by_cases he : g.exp v = 0
  · by_cases hfr : g.frac v = 0 <;> simp [he, hE, hfr]
  · rcases Bool.eq_false_or_eq_true g.inf with hi | hi
    · by_cases ht : g.exp v = 2 ^ g.eb - 1
      · by_cases hfr : g.frac v = 0 <;> simp [hi, ht, hfr, hE.symm]
      · simp [hi, he, ht]
    · simp [hi, he]

end Fmt.HasShape

/-! ## Class codes (R139) -/

/-- The types of VCLASS have the shapes of R135; e4m3 alone has no infinity. -/
theorem shapeOf_class {ty : Ty} {eb fb : Nat}
    (h : (ty, eb, fb) ∈ ([(.f64, 11, 52), (.f32, 8, 23), (.f16, 5, 10), (.bf16, 8, 7), (.e5m2, 5, 2), (.e4m3, 4, 3)] :
      List (Ty × Nat × Nat))) :
    shapeOf ty = some ⟨eb, fb, decide (ty ≠ .e4m3)⟩ ∧ tyBits ty = 1 + eb + fb ∧ (ty = .e4m3 → eb = 4 ∧ fb = 3) := by
  simp only [List.mem_cons, Prod.mk.injEq, List.not_mem_nil, or_false] at h
  rcases h with ⟨rfl, rfl, rfl⟩ | ⟨rfl, rfl, rfl⟩ | ⟨rfl, rfl, rfl⟩ | ⟨rfl, rfl, rfl⟩ | ⟨rfl, rfl, rfl⟩ | ⟨rfl, rfl, rfl⟩ <;>
    exact ⟨rfl, rfl, by decide⟩

/-- VCLASS writes the class code of each active lane, and no flag. -/
theorem vclass_writes {h : Hd} {ty : Ty} {d a : Opnd} {s : State} {m : Issue} (hi : Issues (.vclass h ty d a) h s m) :
    WritesLanes (.vclass h ty d a) s m .b32 d fun l =>
      BitVec.ofNat 64 (fClass (fmtOf ty) (low ty (m.vval ty (m.reg a) l))) :=
  writesLanes_of_low (body := fun n l => BitVec.ofNat 64 (fClass (fmtOf ty) (low ty (n.vval ty (n.reg a) l)))) hi rfl
    (.inl rfl) (by simp)

/-- Settles O19: the lane's class code, whose cases are those of its exponent and fraction fields. -/
theorem classCodes : Obligations.ClassCodes := by
  unfold Obligations.ClassCodes
  intro h ty d a s m hi
  refine ⟨_, vclass_writes hi, fun eb fb hmem l => ?_⟩
  obtain ⟨hg, hbits, he4⟩ := shapeOf_class hmem
  dsimp only
  rw [(fmtOf_hasShape hg).fClass_eq, low, hbits]
  simp only [Shape.exp, Shape.frac, Shape.neg, Shape.width, Nat.mod_mod]
  by_cases ht : ty = .e4m3
  · obtain ⟨rfl, rfl⟩ := he4 ht
    simp [ht, apply_ite (BitVec.ofNat 64)]
  · simp [ht, apply_ite (BitVec.ofNat 64)]

end Sys2Proof.Machine
end
